-- ==== Sys2Proof/Word.lean ====
section
/-!
DEFINITION. The word types of the model and the plain data shapes every other file uses.
-/
namespace Sys2Proof

/-- One byte. -/
abbrev Byte := BitVec 8
/-- A 16-bit word. -/
abbrev W16 := BitVec 16
/-- A 32-bit word. -/
abbrev W32 := BitVec 32
/-- A 64-bit word. -/
abbrev W64 := BitVec 64
/-- The bits of an IEEE 754 binary16 value (R36). -/
abbrev F16 := BitVec 16
/-- The bits of an IEEE 754 binary32 value (R36). -/
abbrev F32 := BitVec 32
/-- A 512-bit hash value: SHA-512 (R157, R217). -/
abbrev Hash := BitVec 512
/-- A 64-byte descriptor, byte 0 in bits 7..0 (R263). -/
abbrev Desc := BitVec 512

/-- Sparse data by number: sorted, no repeats, and no entry equal to the value an unlisted number reads as. -/
abbrev Table (α : Type) := List (Nat × α)

end Sys2Proof
end

