-- ==== Sys2Proof/Syntax.lean ====
section
/-!
DEFINITION. The commands the block takes, one constructor per row of the opcode table, and the plain data they carry.
-/
namespace Sys2Proof

/-! ### Formats named by image tables and passes -/

/-- Weight formats of R36. -/
inductive WFmt where
  | w4 | w6 | w8
  deriving DecidableEq, Repr

/-- Activation formats of R36. -/
inductive AFmt where
  | int8 | e4m3 | a4
  deriving DecidableEq, Repr

/-- State precision of a recurrence (R61, R145). -/
inductive Prec where
  | s16 | s16c
  deriving DecidableEq, Repr

/-- The output functions of R104 and R110; leaky relu carries its binary16 slope. -/
inductive OutFn where
  | identity | relu | leaky (slope : F16) | sigmoid | silu | tanh
  deriving DecidableEq, Repr

/-- Padding of a layer (R104, R112). -/
inductive Padding where
  | zero | constant (p : F16) | replicate
  deriving DecidableEq, Repr

/-! ### Schedule image content (R158) -/

/-- One step of the lane program (R126 to R130): operand columns of a step. -/
inductive OperandRef where
  | input (i : Nat)            -- value i of the sample's input from the last CSU layer
  | step (p i : Nat)           -- output i of the step at loop position p of the same sample
  | persistent (i : Nat)       -- persistent operand i of the slot
  | mask (n element : Nat)     -- result of mask instruction n at the sample (R199)
  deriving DecidableEq, Repr

/-- A step instruction of the lane program (section 0x05). Its weights and biases stand in the weight block it names. -/
structure LaneStep where
  gated : Bool
  block : Nat                  -- weight block named, 0 to 7
  area : Nat                   -- state area named by a gated step
  width : Nat                  -- D of a gated step, Y of an affine step
  prec : Prec
  cols : List OperandRef       -- the X operand columns, in logical index order
  fn : OutFn
  residual : Option (List OperandRef)  -- the binary16 residual of each row of an affine step (R110, R131)
  persist : Option Nat         -- first persistent operand the outputs go to
  head : Bool                  -- row 0 in FP32 is the sample
  deriving DecidableEq, Repr

/-- A weight block of the lanes (R125, R126): where its weights, row by row, and its biases stand in section 0x0B. -/
structure LaneBlock where
  weights : Nat
  bias : Nat
  deriving DecidableEq, Repr

/-- What a CSU layer reads. -/
inductive LayerSrc where
  | conditioning | layer (l : Nat) | scan (k : Nat)
  deriving DecidableEq, Repr

/-- A layer of the CSU layer table (section 0x04, R104). -/
structure CsuLayer where
  transposed : Bool
  kernel : Nat                 -- K
  dil : Nat                    -- d, or the stride s of a transposed layer
  perGroup : Nat               -- g
  inCh : Nat
  outCh : Nat
  pad : Padding
  utterance : Bool             -- segment scope: true = utterance, false = stream
  folds : List (Nat × Nat)     -- (rate code, fold factor)
  stripe : Option Nat          -- stripe length S
  fn : OutFn
  residual : Option Nat
  src : LayerSrc
  rateHz : List Nat            -- layer rate in Hz for each rate code
  weights : Nat                -- offset in section 0x0B: per output channel, g × K values, i × K + j
  bias : Nat                   -- offset in section 0x0B of the outCh biases
  deriving DecidableEq, Repr

/-- The homes of a recurrence; a lane recurrence is a gated-step state area (R128, R147). -/
inductive RecKind where
  | feature | frame | sample | lane
  deriving DecidableEq, Repr

/-- A row of the recurrence table (section 0x06). A sample-rate recurrence names the CSU layers that give a and u. -/
structure Recurrence where
  kind : RecKind
  prec : Prec
  chunk : Nat                  -- Lc
  theta : F16
  resets : Bool                -- drift action: true = RESET
  utterance : Bool
  channels : Nat
  aLayer : Nat
  uLayer : Nat
  area : Nat                   -- state area of a lane recurrence
  deriving DecidableEq, Repr

/-- The regions of a tile's SRAM that hold row data (R72): the halves of the activation polder, the vector scratch. -/
inductive Region where
  | half (second : Bool) | scratch
  deriving DecidableEq, Repr

/-- Where the rows of an operand stand in a tile's SRAM: row r begins `stride` × r bytes above `off` in the region. -/
structure Loc where
  region : Region
  off : Nat
  stride : Nat
  deriving DecidableEq, Repr

/-- A weighted layer of the Frame Engine table (section 0x03). -/
structure FeLayer where
  reduction : Nat              -- K
  columns : Nat                -- output columns
  rotation : Nat               -- n
  group : Nat                  -- G
  expOffset : Int              -- k
  wfmt : WFmt
  afmt : AFmt
  smooth : Option Loc          -- per-channel smoothing vector (R45), one row
  codes : Bool                 -- its activations are software-supplied codes and scales, not quantised (R39, R41)
  deriving DecidableEq, Repr

/-- Frame Engine limits of R79. -/
structure FeTable where
  featureMillions : Nat
  chunk : Nat                  -- Lc
  allowance : Nat              -- A
  lookAhead : Nat              -- Lf
  attnLayers : Nat
  window : Nat                 -- W
  kvHeads : Nat
  headDim : Nat                -- 128
  qPerKv : Nat
  codebooks : Nat              -- C
  tokenBits : Nat              -- d, V = 2^d
  layers : List FeLayer
  deriving DecidableEq, Repr

/-- A replay unit of the tick program (R163): its first step, and how many steps it has. -/
structure ReplayUnit where
  first : Nat
  count : Nat
  deriving DecidableEq, Repr

/-- Comparisons of the vector unit (R60, R76). -/
inductive Cmp where
  | lt | le | eq
  deriving DecidableEq, Repr

/-- Vector-unit operations (R76 to R78). -/
inductive VecFn where
  | add | sub | mul | min | max | div | neg | sqrt | round | exp | sigmoid | silu | tanh | recip | rsqrt
  | scale (n : Int) | softmax | rmsnorm (eps : F32) | mask (n element : Nat)
  | compare (r : Cmp) | select (c : Loc) | selectGe (c : Loc) | sum | dot | toF16 | toF32
  deriving DecidableEq, Repr

/-- Where the accumulators of an array pass start (R54, R55): at +0.0, at those that the tile's own earlier pass left at
the destination, or at those that the pass of another step hands over. -/
inductive AccStart where
  | zero | kept | handed (step : Nat)
  deriving DecidableEq, Repr

/-- What a Tensor Tile step does to each of its rows. -/
inductive TileOp where
  /-- The rows against one weight block of a layer: reduction rows `red0` to `red0` + `red`, columns `col0` to `col0` + `cols`
  (R67, R68). Weights and scales stand at offsets of the lock chambers in use. `last` is the layer's last pass on the tile. -/
  | array (layer : Nat) (src dst : Loc) (red0 red col0 cols wOff sOff : Nat) (start : AccStart) (hand last : Bool)
  /-- A vector-unit operation over n elements, in FP32 or, with `half`, in binary16 (R76). -/
  | vector (fn : VecFn) (half : Bool) (a b dst : Loc) (n : Nat)
  /-- The frame inputs of R81: feature-section output, embeddings of the previous frame's tokens, feedback vector. -/
  | frameInput (feat : Loc) (table : Loc) (width : Nat) (emb fb : Loc)
  /-- The embeddings of the tokens that the frame has sampled (R80, stage 6). -/
  | tokenInput (table : Loc) (width : Nat) (emb : Loc)
  /-- The raw feature frames of the stream's admitted chunk (R83). -/
  | chunkInput (dst : Loc)
  /-- The frame step of frame-section recurrence r (R82). -/
  | recur (r : Nat) (a u dst : Loc)
  /-- Recurrence r of the feature section over the stream's admitted chunk (R83). -/
  | chunk (r : Nat) (a u dst : Loc)
  /-- The chunk's feature-section outputs, `width` values a position, kept for the frame section (R83). -/
  | featureOut (src : Loc) (width : Nat)
  /-- The new state of frame-section recurrence r goes to the shadow (R75, R80, stage 7). -/
  | stateWrite (r : Nat)
  /-- Keys and values of an attention layer go to the shadow (R80, stage 7, R86). -/
  | kvWrite (layer : Nat) (k v : Loc)
  /-- One query head over the window (R87), with the frame's own keys and values. -/
  | attend (layer head : Nat) (q k v dst : Loc)
  /-- The token of one codebook (R95 to R98). -/
  | sample (cb : Nat) (z : Loc)
  /-- The conditioning vector of the frame (R80, stage 6). -/
  | condition (src : Loc)
  deriving DecidableEq, Repr

/-- The rows that a step serves (R80, R92, R94): the frames of the admitted chunks, the streams of the phase group, those
bound to the v-th distinct trunk version, or those bound to the k-th distinct expert. A chunk runs on a trunk version too. -/
inductive Serve where
  | chunks (v : Nat) | rows | trunk (v : Nat) | expert (k : Nat)
  deriving DecidableEq, Repr

/-- A Conv-Scan Unit pass of the tick program: a column set of a layer's stripe (R114, R118), or a sample-rate scan. -/
inductive CsuOp where
  | layer (l set stripe : Nat)
  | scan (k : Nat)
  deriving DecidableEq, Repr

/-- The stages of the sample polder, which hand samples forward within the tick (R164, R165). -/
inductive SampleStage where
  | lanes | shaper | extractor
  deriving DecidableEq, Repr

/-- What a step of the tick program does. A Conv-Scan Unit step is placed on units, context c on the entry c modulo their
number (R114, R118), and names the step whose berm tag it expects (R119). -/
inductive StepOp where
  | tile (t : Nat) (serve : Serve) (first count : Nat) (op : TileOp)
  | csu (units : List Nat) (op : CsuOp) (expects : Option Nat)
  | swap (lock : Nat)
  | sample (s : SampleStage)
  deriving DecidableEq, Repr

/-- A step of the tick program (section 0x01): its stage of R80, and its place in the order of the stages, which never falls
along the program. The steps of one place do not read each other's results; a later place waits for every earlier one. -/
structure TickStep where
  stage : Nat
  place : Nat
  op : StepOp
  deriving DecidableEq, Repr

/-- The rate whose index is the step of a mask instruction's draws (R193). -/
inductive MaskRate where
  | frame | sample
  deriving DecidableEq, Repr

/-- A mask instruction of the image (R193, R198): its probability and rate. -/
structure MaskInstr where
  prob : Nat
  rate : MaskRate
  deriving DecidableEq, Repr

/-- The tick program (section 0x01): its steps, its replay units, its mask instructions and the number of locks it names
(R166): 3 a tile, and those of SE SRAM and the lane weight stores beyond them. `aux` gives the base and chamber size of each
of the latter in SE SRAM; a lock of a lane weight store, which no Pump addresses, has size 0. -/
structure TickProgram where
  steps : List TickStep
  units : List ReplayUnit
  masks : List MaskInstr
  locks : Nat
  aux : List (Nat × Nat)
  deriving DecidableEq, Repr

/-- The unit kinds of ERR_LOG entries (R382). -/
inductive UnitKind where
  | tile | csu | lane | sampler | router | pump | nearStack | farChannel | port | queue | rule | module
  deriving DecidableEq, Repr

/-- An entry of the degraded table (R369). -/
structure DegradedEntry where
  kind : UnitKind
  count : Nat
  limit : Nat
  proven : Bool                -- the full limit S ends before intake close too
  deriving DecidableEq, Repr

/-- Worst-case ACLK of the units of one kind, per step and per replay unit (section 0x02). -/
structure KindWork where
  kind : UnitKind
  steps : List Nat
  units : List Nat
  deriving DecidableEq, Repr

/-- The proof record (section 0x02). -/
structure ProofRecord where
  work : List KindWork
  laneLead : Nat               -- slots before the first eligible input (R138)
  degraded : List DegradedEntry
  deriving DecidableEq, Repr

/-- The state directory (section 0x07): F, Hc, Hs, Hf and the feature-area sizes, in bytes. -/
structure StateDir where
  f : Nat
  hc : Nat
  hs : Nat
  hf : Nat
  featureArea : Nat
  historyArea : Nat            -- its part that the conditioning history takes (R155)
  deriving DecidableEq, Repr

/-- What the weight manifest expects of one tensor: shape, group size, rotation size and exponent offset (R158). -/
structure Shape where
  rows : Nat
  cols : Nat
  group : Nat
  rotation : Nat
  expOffset : Int
  deriving DecidableEq, Repr

/-- An entry of the weight manifest (section 0x0A). `blocks` gives the cluster and the bytes of each block of the payload, in
its order (R212). -/
structure ManifestEntry where
  expert : Bool
  length : Nat
  shapes : List Shape
  blocks : List (Nat × Nat)
  deriving DecidableEq, Repr

/-- The extractor of one rate (section 0x09, R171). -/
structure Extractor where
  rate : Nat
  matrix : List (List F16)
  bias : List F16
  fn : OutFn
  deriving DecidableEq, Repr

/-- What a Pump program's source address counts from: address 0 of its space, or the first payload byte of a weight version,
by the rank of the rows that it serves (R92, R94). -/
inductive PumpBase where
  | space | chunkTrunk (v : Nat) | trunk (v : Nat) | expert (k : Nat)
  deriving DecidableEq, Repr

/-- A Pump program descriptor with the step it belongs to (section 0x08, R220), what its source counts from, and, of a fill
with weights, the layer whose groups it streams (R49). -/
structure PumpStep where
  step : Nat
  desc : BitVec 256
  base : PumpBase
  layer : Option Nat
  deriving DecidableEq, Repr

/-- The content of the sections 0x01 to 0x0A, for which the spec gives no byte form. -/
structure ImageParts where
  tick : TickProgram
  proof : ProofRecord
  fe : FeTable
  csu : List CsuLayer
  lane : List LaneStep
  blocks : List LaneBlock
  recs : List Recurrence
  dir : StateDir
  pumps : List PumpStep
  extractors : List Extractor
  manifest : List ManifestEntry
  deriving DecidableEq, Repr

/-- A schedule image: its bytes, and what its sections say. -/
structure ImageFile where
  file : List Byte
  parts : ImageParts
  deriving DecidableEq, Repr

/-! ### State records (R139 to R143, R154, R181, R284) -/

/-- Shaper state: last sample emitted, fill count, resume count and gain (R142, R180). -/
structure Shaper where
  last : F32
  k : Nat
  j : Nat
  gain : F16
  deriving DecidableEq, Repr

/-- A conditioning polder entry (R167). -/
structure CondEntry where
  frame : W32
  valid : Bool
  first : Bool
  lastFrame : Bool
  values : List F16
  deriving DecidableEq, Repr

/-- One slot of a feedback vector: 32 features, or invalid (+0.0 in all). -/
abbrev FeedSlot := Option (List F16)

/-- A feedback vector (R170): five slots of each source, slot 4 the most recent. -/
structure Feedback where
  out : List FeedSlot
  refA : List FeedSlot
  refB : List FeedSlot
  kindA : BitVec 2
  kindB : BitVec 2
  deriving DecidableEq, Repr

/-- A quantised key or value head group: scale and codes (R86). -/
structure QuantGroup where
  scale : BitVec 8
  codes : List (BitVec 8)
  saturated : Bool
  deriving DecidableEq, Repr

/-- One slot of a stream's attention window: per key/value head, the groups of the key and of the value (R86). -/
structure WindowSlot where
  keys : List (List QuantGroup)
  vals : List (List QuantGroup)
  deriving DecidableEq, Repr

/-- Frame Engine part of a state record: written when a frame is computed (R75, R139). -/
structure FramePart where
  nextFrame : W32              -- header 0x038
  windows : List (Table WindowSlot)   -- per attention layer, by slot f mod W
  ssm : Table (List W32)       -- per frame-section recurrence, stored words
  tokens : List Nat            -- tokens of the last frame computed, by codebook
  deriving DecidableEq, Repr

/-- Sample Engine part: written by an output run (R139, R141, R142). -/
structure SamplePart where
  nextSample : W64             -- header 0x028
  fifths : Nat                 -- header 0x046
  areas : Table (List W32)     -- gated-step state, per area (R128)
  persist : Table F16          -- persistent operands (R141)
  hist : Table (List (List F16))      -- per CSU layer, per channel, oldest first (R106)
  scans : Table (List W32)     -- per sample-rate recurrence (R123)
  shaper : Shaper
  deriving DecidableEq, Repr

/-- Feature-section part: written by a chunk (R83). -/
structure ChunkPart where
  scans : Table (List W32)     -- per feature-section recurrence
  nextChunkPos : Nat           -- first feature position not yet run
  deriving DecidableEq, Repr

/-- Utterance and binding fields of the record header (R140). -/
structure UttPart where
  uttFirst : W64               -- 0x030
  nextFeature : W32            -- 0x03C
  generation : W32             -- 0x040
  midUtt : Bool                -- 0x045 [0]
  trunkHash : BitVec 128       -- 0x048
  expertHash : BitVec 128      -- 0x058
  voice : Option (BitVec 24)   -- 0x068
  variant : Option (BitVec 3)
  uttNumber : W32              -- 0x06C
  style : List F16             -- 0x070
  tau : F16                    -- 0x0F0
  topk : W16                   -- 0x0F2
  deriving DecidableEq, Repr

/-- A whole state record: both banks of R143 hold one. -/
structure Bank where
  frame : FramePart
  sample : SamplePart
  chunk : ChunkPart
  utt : UttPart
  cond : CondEntry
  feedback : Feedback
  deriving DecidableEq, Repr

/-- The conditioning history of the current utterance and its spill map (R155, R181). -/
structure CondHistory where
  firstFrame : W32
  frames : List (List F16)
  spill : List (BitVec 2)
  whole : Bool                 -- holds every frame of the utterance
  deriving DecidableEq, Repr

/-- A raw feature frame and its eou mark (R174, R176). -/
structure FeatFrame where
  values : List F16
  eou : Bool
  deriving DecidableEq, Repr

/-- A stream's feature area (R212, R279, R284). -/
structure FeatArea where
  outs : List (Nat × List F16)   -- feature-section outputs held, by position
  raw : List FeatFrame           -- raw frames not yet run, in feed order, the positioned ones first
  rawPos : Nat                   -- position of the first of them
  positioned : Nat               -- how many of them hold positions
  eou : Option Nat               -- position of the mark of the utterance they belong to
  deriving DecidableEq, Repr

/-- A state record and its feature appendix as the device reads them (R139 to R143, R154, R181, R284). `stream`, `seed`,
`rate`, `fade`, `immediate`, `hold`, `grouped` and `next` are header fields of R140. -/
structure StateRecord where
  format : W32                 -- 0x000
  length : W32                 -- 0x004
  imageHash : BitVec 128       -- 0x008
  stream : W64                 -- 0x018
  seed : W64                   -- 0x020
  rate : BitVec 8              -- 0x044
  rebuild : Bool               -- 0x045 [1]
  immediate : Bool             -- 0x045 [2]
  fade : BitVec 2              -- 0x045 [4:3]
  hold : Bool                  -- 0x047 [0]
  grouped : Bool               -- 0x047 [1]
  next : Nat                   -- 0x0F4
  bank : Bank
  history : CondHistory
  appendix : FeatArea
  magic : W32                  -- appendix 0x00
  fits : Bool                  -- the record and the appendix lie wholly within the buffer
  deriving DecidableEq, Repr

/-- Bytes of a buffer by offset; an unlisted byte is 0. -/
abbrev Bytes := Table Byte

/-! ### Host data that descriptors read -/

/-- The outcome of a host read (R252). -/
inductive HostRead (α : Type) where
  | failed
  | ok (v : α)
  deriving DecidableEq, Repr

/-- The segments of a block list in the order the links give them, entries of 16 bytes (R174). -/
abbrev Segments := List (List (BitVec 128))

/-- What a FEED reads: its list and the frames its blocks hold. -/
structure FeedData where
  list : Segments
  frames : List (List F16)
  deriving DecidableEq, Repr

/-- What an AUDIO_IN reads: its list and its samples' codes. -/
structure AudioData where
  list : Segments
  samples : List Int
  deriving DecidableEq, Repr

/-- A weight package header as read (R221), and the block list that holds the package. -/
structure PackageData where
  list : Segments
  header : List Byte
  deriving DecidableEq, Repr

/-! ### Engine events -/

/-- An error of one sum that a unit forms: the row, column or channel, the block or group, and the error (R70, R124). -/
structure SumError where
  row : Nat
  col : Nat
  block : Nat
  err : Int
  deriving DecidableEq, Repr

/-- The verdict of a pass's residue checks and of the ECC of the SRAM it reads (R70, R124, R133, R364). -/
inductive PassCheck where
  | pass | corrected | fault | doubleBit (addr : W64)
  deriving DecidableEq, Repr

/-- The kinds of late work at intake close that no state of the model shows (R455). -/
inductive Late where
  | run (ctx : Nat) | frame (ctx : Nat) | chunk (ctx : Nat)
  deriving DecidableEq, Repr

/-- A unit by kind and index. -/
structure UnitId where
  kind : UnitKind
  index : Nat
  deriving DecidableEq, Repr

/-- What a memory read that the ECC could not correct lies in (R227). -/
inductive LineOwner where
  | trunk (slot : Nat) | expert (idx slot : Nat) | bank (ctx : Nat) | farTrunk (slot : Nat) | farExpert (idx slot : Nat)
  | directory (both : Bool) | imageRegion | workingSpace | other
  deriving DecidableEq, Repr

/-- Outcome of a memory read, with the byte of the read at which the line lies (R227, R229). -/
inductive EccOutcome where
  | clean | corrected (at0 : Nat) | uncorrectable (at0 : Nat) (o : LineOwner)
  deriving DecidableEq, Repr

/-- What a failed host read was for (R252). -/
inductive ReadTarget where
  | fetch (q : Fin 256)                 -- a descriptor fetch
  | block (seq : Nat)                   -- a list or block read of the admitted descriptor with that sequence number
  | audio (seq first count : Nat)       -- the block of an AUDIO_IN whose list has been read: its first sample and count
  | image                               -- the image copy
  deriving DecidableEq, Repr

/-- How a host read fails (R252): a poisoned completion, an Unsupported Request or Completer Abort completion, a timeout. -/
inductive ReadCause where
  | poisoned | refused | timeout
  deriving DecidableEq, Repr

/-- A failed host read. -/
structure ReadFail where
  target : ReadTarget
  cause : ReadCause
  deriving DecidableEq, Repr

/-- An error that the link corrects (R252). -/
inductive LinkError where
  | fec | replay | receiver | badDllp
  deriving DecidableEq, Repr

/-- What is wrong with a received request (R252). -/
inductive TlpFault where
  | none | poisoned | malformed | ecrc
  | corrected (e : LinkError)  -- the link corrected it: the request is sound
  deriving DecidableEq, Repr

/-- The registers of configuration space that the spec names (R231, R233, R242, R252), and the dwords of the BARs and of AER's
header log. -/
inductive ConfigReg where
  | bar (k : Fin 6) | deviceControl | deviceControl2 | msixControl | aerUncStatus | aerUncMask | aerUncSeverity | aerCorStatus
  | aerControl | aerCorMask | aerHeader (k : Fin 4) | identity | classCode | subsystem | linkCapability | linkControl
  deriving DecidableEq, Repr

/-- The halves of a 64-bit register a write covers (R408). -/
inductive Part where
  | lo | hi | both
  deriving DecidableEq, Repr

/-- The view an access comes through; a configuration request names its register. -/
inductive View where
  | bar0 | bar2 | config (r : ConfigReg)
  deriving DecidableEq, Repr

/-- What a port samples in one frame: both slot words, bit clocks per frame, frame period in ACLK, edge counts. -/
structure PortFrame where
  slot0 : Int
  slot1 : Int
  bclks : Nat
  period : Nat
  wsEdges : Nat
  deriving DecidableEq, Repr

/-- An SMBus transaction's 7-bit target address, and whether its PEC byte is right (R442). -/
structure SmbusFrame where
  addr : BitVec 7
  pec : Bool
  deriving DecidableEq, Repr

/-! ### The commands -/

/-- One constructor per row of the opcode table. -/
inductive Instr where
  -- doorbells and link reads
  | doorbellSqTail (q : Fin 256) (w : W32)
  | doorbellUrgent (q : Fin 256) (w : W32)
  | doorbellCqHead (q : Fin 256) (w : W32)
  | linkReadError (t : ReadFail)
  -- descriptors, as the Sequencer decodes them
  | openStream (q : Fin 256) (d : Desc)
  | feed (q : Fin 256) (d : Desc) (r : HostRead FeedData)
  | bindVoice (q : Fin 256) (d : Desc) (r : HostRead (List F16))
  | ctrl (q : Fin 256) (d : Desc) (r : HostRead (List F16))
  | stop (q : Fin 256) (d : Desc)
  | urgentStop (q : Fin 256) (d : Desc)
  | close (q : Fin 256) (d : Desc)
  | exportRec (q : Fin 256) (d : Desc)
  | importRec (q : Fin 256) (d : Desc) (r : HostRead Bytes)
  | weightStage (q : Fin 256) (d : Desc) (r : HostRead PackageData)
  | weightCommit (q : Fin 256) (d : Desc)
  | fence (q : Fin 256) (d : Desc)
  | groupCreate (q : Fin 256) (d : Desc) (r : HostRead (List W32))
  | groupDissolve (q : Fin 256) (d : Desc)
  | audioIn (q : Fin 256) (d : Desc) (r : HostRead AudioData)
  | ringOut (q : Fin 256) (d : Desc) (r : HostRead Segments)
  -- the tick
  | tickBoundary
  | replayReserveStart (late : Option Nat)
  | intakeClose (late : List Late)
  | idlePublication
  | cqWaitingPublish (q : Fin 256)
  -- engines
  | tilePassComplete (tile step : Nat) (slip : Int) (errs : List SumError) (chk : PassCheck)
  | groupScaleArrival (tile n : Nat)
  | accumulatorHandover (tile step : Nat)
  | lockSwap (lock : Nat)
  | pumpTransferComplete (pump : Nat) (d : BitVec 256) (data : List Byte) (e : EccOutcome)
  | replayStart
  | csuPassComplete (csu step ctx t0 count : Nat) (errs : List SumError) (chk : PassCheck)
  | bermConsume (csu : Nat) (tag : BitVec 32)
  | bermRelease (csu : Nat)
  | laneIssueSlot (lane : Nat)
  | laneStepWriteback (lane : Nat) (errs : List SumError) (chk : PassCheck)
  | pageInAdmit
  | pageInComplete (idx : Nat)
  | stagePayloadVerified (seq : Nat) (rest : List Byte) (length : Nat) (shapes : List Shape) (choice : List Nat) (readOk : Bool)
  | trunkCopyStart (slot : Nat)
  | trunkCopyComplete (slot : Nat)
  | granuleRefetchComplete (unit : Nat) (ok : Bool)
  | patrolScrub (near : Bool) (unit : Nat) (addr : Nat) (e : EccOutcome)
  | lpddrRefresh (channel bank : Nat)
  | refreshRatePoll (multiplier : Nat) (temp : W16)
  | zqCalibration
  | refreshManagement (channel : Nat)
  | laneSlotAdmit
  | rebuildComplete (ctx : Nat)
  | feedQueuedApply (ctx : Nat)
  | feedHeldRelease (ctx : Nat)
  | audioInFirstWindow (ctx : Nat)
  | fenceComplete (q : Fin 256)
  | evictionCopy (ctx : Nat)
  -- executive and set-up
  | tickCtlLoad (w : W64)
  | loadCheck
  | tickCtlStart (w : W64)
  | selftest (results : List (UnitId × List W64))
  | tickCtlStop (w : W64)
  | memCfgWrite (p : Part) (w : W64)
  | memCfgLoadGo (w : W64)
  | imageCopyComplete (img : Option ImageFile)
  | xferModeWrite (p : Part) (w : W64)
  | sqCreditWrite (q : Fin 256) (p : Part) (w : W64)
  | sqEnable (q : Fin 256) (p : Part) (w : W64)
  | sqDisable (q : Fin 256) (p : Part) (w : W64)
  | cqEnable (q : Fin 256) (p : Part) (w : W64)
  | cqDisable (q : Fin 256) (p : Part) (w : W64)
  | cqVectorWrite (q : Fin 256) (p : Part) (w : W64)
  | eccStatClear (w : W64)
  | errLogClear (w : W64)
  | pwrCapWrite (w : W32)
  | ticksyncCtlWrite (p : Part) (w : W64)
  | wardenPolicyWrite (off : Nat) (w : W32)
  | aportCtlWrite (port : Fin 16) (w : W32)
  | aportFmtWrite (port : Fin 16) (w : W32)
  | aportSlotmaskWrite (port : Fin 16) (w : W32)
  | aportRetry (port : Fin 16) (w : W32)
  | fmeasStart (w : W32)
  | fmeasGateClose (count : Nat)
  | fmeasAbort
  | fwStage (w : W64)
  | fwStageComplete (ok : Bool)
  | fwActivate (w : W64)
  | fwAbandon (w : W64)
  | fwLiveSwitch
  | fwTrialEnd (kind : Fin 4)
  | attestGo (w : W64)
  | attestReportDone (sig : Option (List Byte))
  | registerWrite (v : View) (off size : Nat) (data : W64) (fault : TlpFault)
  -- SMBus
  | smbusSetPointer (ptr : W32) (t : SmbusFrame)
  | smbusWrite (data : W32) (t : SmbusFrame)
  | smbusRead (t : SmbusFrame)
  | smbusStatus (t : SmbusFrame)
  -- link and resets
  | linkTrained (rate width : BitVec 4)
  | linkDown
  | tagSpaceChange (tags : BitVec 2)
  | msixUnmask (v : Option (Fin 512))
  | functionLevelReset
  | perstAssert
  | phaseM (failedChannel : Option (Nat × Nat))
  | d3hotEntry
  | d3coldEntry
  | d0Entry
  | phaseW
  | auxPowerFail
  | mainRailsStart
  | railRegulationLoss
  | inputUndervoltage
  | inputOvervoltage
  | refclkDetectorFire
  | holdoverEnd
  | refclkReturn (linkUp : Bool)
  | refclkReturnSyncTimeout
  -- TICKSYNC
  | ticksyncInEdge (edge : Int)
  | ticksyncMissing
  | ticksyncStartTimeout
  -- Warden
  | wardenScan (codes : List W16)
  | throttleDwell (cluster : Fin 8)
  | throttleStepUp (cluster : Fin 8)
  | capLoopStep
  | hardwareTrip (diode : Fin 64)
  | safeEntry
  | controlWatchdog
  -- audio ports
  | portFrameIn (port : Fin 16) (f : PortFrame)
  | nonaudioHoldEnd (port : Fin 16)
  | portFrameOut (port : Fin 16)
  | clockStop (port : Fin 16)
  | driftFollowerLock (port : Fin 16) (drift : W16)
  | short (port : Fin 16)
  | openInput (port : Fin 16) (dataLine : Bool)
  | fmeasGateOpen
  deriving DecidableEq, Repr

end Sys2Proof
end

