-- ==== Sys2Proof/Machine/Float.lean ====
section
/-!
DEFINITION. IEEE 754 binary16 and binary32 arithmetic by exact dyadic numbers and one rounding (R40, R58 to R60).
-/
namespace Sys2Proof.Machine

/-- An exact value: NaN, an infinity, or (-1)^neg × m × 2^e. -/
inductive Exact where
  | nan
  | inf (neg : Bool)
  | fin (neg : Bool) (m : Nat) (e : Int)
  deriving DecidableEq, Repr

/-- A binary format: precision with the hidden bit, exponent of the least unit, exponent of the greatest unit, width of
the fraction field. -/
structure Fmt where
  prec : Nat
  qmin : Int
  qmax : Int
  deriving DecidableEq, Repr

/-- binary16 (R36, R40). -/
def fmt16 : Fmt := { prec := 11, qmin := -24, qmax := 5 }
/-- binary32 (R36, R40). -/
def fmt32 : Fmt := { prec := 24, qmin := -149, qmax := 104 }

/-- Reads the fields of a binary format: fraction width `fw`, exponent width `ew`. -/
def decodeBits (fw ew : Nat) (qmin : Int) (b : Nat) : Exact :=
  let frac := b % 2 ^ fw
  let ex := b / 2 ^ fw % 2 ^ ew
  let neg := b / 2 ^ (fw + ew) % 2 == 1
  if ex = 2 ^ ew - 1 then (if frac = 0 then .inf neg else .nan)
  else if ex = 0 then .fin neg frac qmin
  else .fin neg (2 ^ fw + frac) (qmin + (ex : Int) - 1)

/-- The exact value of a binary16 word. -/
def val16 (x : F16) : Exact := decodeBits 10 5 (-24) x.toNat
/-- The exact value of a binary32 word. -/
def val32 (x : F32) : Exact := decodeBits 23 8 (-149) x.toNat

/-- Rounds m × 2^e (and a little more, when `sticky`) to nearest, ties to even (R40). The result is a significand and
the exponent of its unit, or `none` when it overflows. A caller with `sticky` supplies at least prec + 2 bits. -/
def roundNearest (f : Fmt) (m : Nat) (e : Int) (sticky : Bool) : Option (Nat × Int) :=
  if m = 0 then some (0, f.qmin)
  else
    let n : Int := Nat.log2 m + 1
    let q := max (e + n - f.prec) f.qmin
    let sh := q - e
    let (m', q') :=
      if sh ≤ 0 then (m * 2 ^ (-sh).toNat, q)
      else
        let k := sh.toNat
        let base := m / 2 ^ k
        let rem := m % 2 ^ k
        let half := 2 ^ (k - 1)
        let up := rem > half || (rem == half && (sticky || base % 2 == 1))
        let r := if up then base + 1 else base
        if r = 2 ^ f.prec then (2 ^ (f.prec - 1), q + 1) else (r, q)
    if q' > f.qmax then none else some (m', q')

/-- The fields of a rounded significand, without the sign. -/
def packMag (f : Fmt) (m : Nat) (q : Int) : Nat :=
  if m < 2 ^ (f.prec - 1) then m
  else (q - f.qmin + 1).toNat * 2 ^ (f.prec - 1) + (m - 2 ^ (f.prec - 1))

/-- The word of a format for an exact value with one rounding; every NaN is canonical (R40). -/
def packExact (f : Fmt) (ew : Nat) (x : Exact) (sticky : Bool) : Nat :=
  let signBit := 2 ^ (f.prec - 1 + ew)
  let infMag := (2 ^ ew - 1) * 2 ^ (f.prec - 1)
  match x with
  | .nan => infMag + 2 ^ (f.prec - 2)
  | .inf neg => infMag + (if neg then signBit else 0)
  | .fin neg m e =>
    let mag := match roundNearest f m e sticky with
      | none => infMag
      | some (m', q) => packMag f m' q
    mag + (if neg then signBit else 0)

/-- Rounds an exact value to binary16. -/
def toF16 (x : Exact) (sticky : Bool := false) : F16 := BitVec.ofNat 16 (packExact fmt16 5 x sticky)
/-- Rounds an exact value to binary32. -/
def toF32 (x : Exact) (sticky : Bool := false) : F32 := BitVec.ofNat 32 (packExact fmt32 8 x sticky)

/-- The canonical NaNs (R40). -/
def nan32 : F32 := 0x7FC00000#32
/-- The canonical binary16 NaN (R40). -/
def nan16 : F16 := 0x7E00#16

/-- Signed significand. -/
def signedOf (neg : Bool) (m : Nat) : Int := if neg then -(m : Int) else m

/-- Builds an exact value from a signed integer and an exponent; an exact zero takes the sign given. -/
def ofInt (z : Int) (e : Int) (zeroNeg : Bool := false) : Exact :=
  if z = 0 then .fin zeroNeg 0 e else .fin (decide (z < 0)) z.natAbs e

/-- Exact sum of two values; the sign of an exact zero follows IEEE 754 round to nearest. -/
def Exact.add (x y : Exact) : Exact :=
  match x, y with
  | .nan, _ => .nan
  | _, .nan => .nan
  | .inf a, .inf b => if a = b then .inf a else .nan
  | .inf a, .fin .. => .inf a
  | .fin .., .inf b => .inf b
  | .fin a m e, .fin b n g =>
    let l := min e g
    ofInt (signedOf a (m * 2 ^ (e - l).toNat) + signedOf b (n * 2 ^ (g - l).toNat)) l (a && b)

/-- Exact negation. -/
def Exact.neg : Exact → Exact
  | .nan => .nan
  | .inf a => .inf (!a)
  | .fin a m e => .fin (!a) m e

/-- Exact product. -/
def Exact.mul (x y : Exact) : Exact :=
  match x, y with
  | .nan, _ => .nan
  | _, .nan => .nan
  | .inf a, .inf b => .inf (a != b)
  | .inf a, .fin b m _ => if m = 0 then .nan else .inf (a != b)
  | .fin a m _, .inf b => if m = 0 then .nan else .inf (a != b)
  | .fin a m e, .fin b n g => .fin (a != b) (m * n) (e + g)

/-- Is the value NaN or infinite (R57)? -/
def Exact.nonfinite : Exact → Bool
  | .fin .. => false
  | _ => true

/-- Is the value NaN? -/
def Exact.isNan : Exact → Bool
  | .nan => true
  | _ => false

/-- x < y for non-NaN values; false with a NaN operand (R60, quiet comparison). -/
def Exact.lt (x y : Exact) : Bool :=
  match x, y with
  | .nan, _ => false
  | _, .nan => false
  | .inf a, .inf b => a && !b
  | .inf a, .fin .. => a
  | .fin .., .inf b => !b
  | .fin a m e, .fin b n g =>
    let l := min e g
    decide (signedOf a (m * 2 ^ (e - l).toNat) < signedOf b (n * 2 ^ (g - l).toNat))

/-- x = y as numbers; false with a NaN operand. -/
def Exact.eq (x y : Exact) : Bool := !x.isNan && !y.isNan && !x.lt y && !y.lt x

/-- Is either encoding of zero? -/
def Exact.isZero : Exact → Bool
  | .fin _ m _ => m == 0
  | _ => false

/-- FP32 addition (R60). -/
def fp32Add (a b : F32) : F32 := toF32 ((val32 a).add (val32 b))
/-- FP32 subtraction (R60). -/
def fp32Sub (a b : F32) : F32 := toF32 ((val32 a).add (val32 b).neg)
/-- FP32 multiplication (R60). -/
def fp32Mul (a b : F32) : F32 := toF32 ((val32 a).mul (val32 b))

/-- Quotient of two exact values with enough bits for one rounding, and whether more remains. -/
def Exact.div (f : Fmt) (x y : Exact) : Exact × Bool :=
  match x, y with
  | .nan, _ => (.nan, false)
  | _, .nan => (.nan, false)
  | .inf _, .inf _ => (.nan, false)
  | .inf a, .fin b _ _ => (.inf (a != b), false)
  | .fin a _ _, .inf b => (.fin (a != b) 0 0, false)
  | .fin a m e, .fin b n g =>
    if n = 0 then (if m = 0 then (.nan, false) else (.inf (a != b), false))
    else
      let k := f.prec + 3 + Nat.log2 n - Nat.log2 m
      let num := m * 2 ^ k
      (.fin (a != b) (num / n) (e - g - (k : Int)), num % n != 0)

/-- FP32 division, correctly rounded (R76). -/
def fp32Div (a b : F32) : F32 :=
  let (q, s) := (val32 a).div fmt32 (val32 b)
  toF32 q s

/-- Integer square root by bits, `fuel` bits from the top: keeps r with r² ≤ n. -/
def isqrtLoop (n : Nat) : Nat → Nat → Nat
  | 0, r => r
  | k + 1, r => let c := r + 2 ^ k; isqrtLoop n k (if c * c ≤ n then c else r)

/-- ⌊√n⌋. -/
def isqrt (n : Nat) : Nat := isqrtLoop n (Nat.log2 n / 2 + 1) 0

/-- FP32 square root, correctly rounded (R76). -/
def fp32Sqrt (a : F32) : F32 :=
  match (val32 a) with
  | .nan => nan32
  | .inf neg => if neg then nan32 else a
  | .fin neg m e =>
    if m = 0 then a
    else if neg then nan32
    else
      let odd : Nat := (e % 2).toNat
      let n := m * 2 ^ (60 + odd)
      let r := isqrt n
      toF32 (.fin false r ((e - 60 - odd) / 2)) (r * r != n)

/-- Minimum and maximum of IEEE 754-2019, with -0 below +0 (R60). -/
def fp32Min (a b : F32) : F32 :=
  if (val32 a).isNan || (val32 b).isNan then nan32
  else if (val32 a).lt (val32 b) then a
  else if (val32 b).lt (val32 a) then b
  else if a.msb then a else b

/-- Maximum (R60). -/
def fp32Max (a b : F32) : F32 :=
  if (val32 a).isNan || (val32 b).isNan then nan32
  else if (val32 a).lt (val32 b) then b
  else if (val32 b).lt (val32 a) then a
  else if a.msb then b else a

/-- Exact conversion of a binary16 word to FP32 (a NaN becomes canonical). -/
def f16to32 (x : F16) : F32 := toF32 (val16 x)
/-- Conversion of FP32 to binary16, one rounding (R60). -/
def f32to16 (x : F32) : F16 := toF16 (val32 x)
/-- FP32 from an integer, one rounding (R53, step 1). -/
def intToF32 (z : Int) : F32 := toF32 (ofInt z 0)

/-- The integer nearest m × 2^e, ties to even. -/
def roundHalfEven (z : Int) (e : Int) : Int :=
  if e ≥ 0 then z * 2 ^ e.toNat
  else
    let d : Int := 2 ^ (-e).toNat
    let fl := z / d
    let r := z - fl * d
    if 2 * r > d then fl + 1 else if 2 * r < d then fl else if fl % 2 = 0 then fl else fl + 1

/-- Integer value of a finite exact value, ties to even; 0 for the others. -/
def Exact.roundEven : Exact → Int
  | .fin neg m e => roundHalfEven (signedOf neg m) e
  | _ => 0

/-- p × 2^n with one rounding (R76, scaling; R77, scale2). -/
def fp32Scale (p : F32) (n : Int) : F32 := toF32 ((val32 p).mul (.fin false 1 n))

/-- The exact product of two binary16 values (R58). -/
def prod16 (a b : F16) : Exact := (val16 a).mul (val16 b)

/-- Adds the terms of one block exactly; an exact zero sum is +0.0 (R59, R109). -/
def exactSum (ts : List Exact) : Exact :=
  match ts.foldl Exact.add (.fin false 0 0) with
  | .fin neg m e => if m = 0 then .fin false 0 e else .fin neg m e
  | x => x

/-- R59: blocks of 64 terms summed exactly, rounded once, and added in ascending order; `fuel` bounds the blocks. -/
def r59Blocks : Nat → F32 → List Exact → F32
  | 0, acc, _ => acc
  | fuel + 1, acc, ts =>
    if ts.isEmpty then acc
    else r59Blocks fuel (fp32Add acc (toF32 (exactSum (ts.take 64)))) (ts.drop 64)

/-- R59: the sum of the terms from a starting accumulator. -/
def r59Sum (init : F32) (ts : List Exact) : F32 := r59Blocks (ts.length / 64 + 1) init ts

/-- The R59 dot product of two binary16 vectors from a starting accumulator. -/
def r59Dot (init : F32) (a b : List F16) : F32 := r59Sum init (List.zipWith prod16 a b)

end Sys2Proof.Machine
end

