-- ==== Sys2Proof/Machine/Random.lean ====
section
/-!
DEFINITION. The counter-based random bits of the device (R190 to R199).
-/
namespace Sys2Proof.Machine

/-- The multiplier G of R190. -/
def drawG : W64 := 0x9E3779B97F4A7C15#64
/-- The multiplier M1 of R190. -/
def drawM1 : W64 := 0xBF58476D1CE4E5B9#64
/-- The multiplier M2 of R190. -/
def drawM2 : W64 := 0x94D049BB133111EB#64
/-- The datum spread D of R190. -/
def drawD : W64 := 0x0101010101010101#64

/-- The finaliser of R190. -/
def fmix (z : W64) : W64 :=
  let a := (z ^^^ (z >>> 30)) * drawM1
  let b := (a ^^^ (a >>> 27)) * drawM2
  b ^^^ (b >>> 31)

/-- One evaluation of the draw function (R190). -/
def draw (seed chi clo : W64) (datum : BitVec 8) : W64 :=
  let t := seed ^^^ chi ^^^ (datum.setWidth 64 * drawD)
  let h := fmix ((t + 1) * drawG)
  fmix (((h ^^^ clo) + 1) * drawG)

/-- The results of the four test vectors of R202. -/
def testVectors : List W64 := [0xE220A8397B1DCDAF#64, 0x6E789E6AA1B965F4#64, 0xF88BB8A8724C81EC#64, 0x06C45D188009454F#64]

/-- The consumers of random bits (R193). -/
inductive Purpose where
  | lane                     -- ROUND, unit 0: gated-step state writes
  | recurrence (k : Nat)     -- ROUND, unit 1 + k
  | mask (n : Nat)           -- MASK, mask instruction n
  | sampler                  -- SAMPLER
  deriving DecidableEq, Repr

/-- The 16-bit purpose field: kind in [15:12], unit in [11:0] (R192, R193). -/
def purposeField : Purpose → BitVec 16
  | .lane => 0x1000#16
  | .recurrence k => 0x1000#16 ||| BitVec.ofNat 16 ((1 + k) % 4096)
  | .mask n => 0x2000#16 ||| BitVec.ofNat 16 (n % 4096)
  | .sampler => 0x3000#16

/-- Upper counter half: the purpose above bits [63:16] of the stream identifier (R192). -/
def counterHigh (p : Purpose) (stream : W64) : W64 := purposeField p ++ stream.extractLsb' 16 48

/-- Lower counter half: bits [15:0] of the identifier above element and step modulo 2^32 (R192, R195). -/
def counterLow (stream : W64) (element step : Nat) : W64 :=
  stream.extractLsb' 0 16 ++ BitVec.ofNat 16 element ++ BitVec.ofNat 32 step

/-- A draw at a logical position of a stream (R192, R200). -/
def drawAt (seed stream : W64) (p : Purpose) (element step : Nat) (datum : BitVec 8) : W64 :=
  draw seed (counterHigh p stream) (counterLow stream element step) datum

/-- The rounding bits a state write takes: the top 4 or 3 bits (R191). -/
def roundBits (rbits : Nat) (z : W64) : Nat := (z >>> (64 - rbits)).toNat

/-- The 16 bits a mask takes (R191). -/
def maskBits (z : W64) : Nat := (z >>> 48).toNat

/-- A mask of probability m/65536 (R198); the datum of a mask draw is 0 (R194). -/
def maskYes (seed stream : W64) (p : Purpose) (element step m : Nat) : Bool :=
  decide (maskBits (drawAt seed stream p element step 0) < m)

/-- The binary16 result of a mask instruction: +1.0 for yes, +0.0 for no (R199). -/
def maskValue (yes : Bool) : F16 := if yes then 0x3C00#16 else 0x0000#16

end Sys2Proof.Machine
end

