-- ==== Sys2Proof/Machine/Arith.lean ====
section
/-!
DEFINITION. The quantised arithmetic of the Frame Engine arrays, the vector-unit functions, state writes, scans,
convolutions, attention, the sampler and the output shaper, as pure functions of their operands.
-/
namespace Sys2Proof.Machine

/-! ### Integer and small floating formats (R36 to R42) -/

/-- Sign extension of the low w bits of a number. -/
def signExt (w n : Nat) : Int :=
  let m := n % 2 ^ w
  if m < 2 ^ (w - 1) then (m : Int) else (m : Int) - 2 ^ w

/-- Weights of one group read from its bytes in ascending reduction index (R38). -/
def unpackWeights (f : WFmt) (bs : List Byte) : List Int :=
  match f with
  | .w8 => bs.map (fun b => signExt 8 b.toNat)
  | .w4 => bs.flatMap (fun b => [signExt 4 b.toNat, signExt 4 (b.toNat / 16)])
  | .w6 => unpack6 bs
where
  /-- Four values in each 24-bit little-endian word. -/
  unpack6 : List Byte → List Int
  | a :: b :: c :: rest =>
    let w := a.toNat + 256 * b.toNat + 65536 * c.toNat
    signExt 6 w :: signExt 6 (w / 64) :: signExt 6 (w / 4096) :: signExt 6 (w / 262144) :: unpack6 rest
  | _ => []

/-- Exact value of an E4M3 code; 0x7F and 0xFF are NaN (R41). -/
def valE4M3 (b : BitVec 8) : Exact :=
  let m := b.toNat % 8
  let e := b.toNat / 8 % 16
  let neg := b.toNat / 128 == 1
  if e = 15 ∧ m = 7 then .nan
  else if e = 0 then .fin neg m (-9)
  else .fin neg (8 + m) ((e : Int) - 10)

/-- Exact value of a GS8 scale (R42). -/
def valGS8 (b : BitVec 8) : Exact :=
  let m := b.toNat % 8
  let e := b.toNat / 8
  if e = 31 then (if m = 0 then .inf false else .nan)
  else if e = 0 then .fin false m (-17)
  else .fin false (8 + m) ((e : Int) - 18)

/-- The integer an activation code enters the array sum as; an E4M3 code counts in units of 2^-9, a NaN code as 0
(R39, R41, R52). -/
def codeInt (f : AFmt) (c : BitVec 8) : Int :=
  match f with
  | .int8 => signExt 8 c.toNat
  | .a4 => signExt 4 c.toNat
  | .e4m3 => match valE4M3 c with
    | .fin neg m e => signedOf neg (m * 2 ^ (e + 9).toNat)
    | _ => 0

/-- Is the code an E4M3 NaN code (R41)? -/
def codeNan (f : AFmt) (c : BitVec 8) : Bool :=
  match f with
  | .e4m3 => (valE4M3 c).isNan
  | _ => false

/-! ### Rotation and quantisation (R43 to R48) -/

/-- One butterfly stage of width h over a block (R44). -/
def butterfly (h : Nat) (x : List F32) : List F32 :=
  (List.range x.length).map (fun j =>
    if j / h % 2 = 0 then fp32Add (x.getD j 0) (x.getD (j + h) 0)
    else fp32Sub (x.getD (j - h) 0) (x.getD j 0))

/-- The butterfly stages h, 2h, 4h, ... (R44). -/
def butterflies : Nat → Nat → List F32 → List F32
  | 0, _, x => x
  | stages + 1, h, x => butterflies stages (2 * h) (butterfly h x)

/-- y = H_n x of one block of n values, n a power of two (R44). -/
def hadamard (x : List F32) : List F32 := butterflies (Nat.log2 x.length) 1 x

/-- Splits a list into pieces of n. -/
def piecesOf {α : Type} (n : Nat) : Nat → List α → List (List α)
  | 0, _ => []
  | fuel + 1, xs => if xs.isEmpty then [] else xs.take n :: piecesOf n fuel (xs.drop n)

/-- All pieces of n of a list. -/
def pieces {α : Type} (n : Nat) (xs : List α) : List (List α) := piecesOf n xs.length xs

/-- Smoothing (R45), then rotation in blocks of n (R43, R44). -/
def rotateRow (n : Nat) (smooth : Option (List F16)) (x : List F16) : List F32 :=
  let z := match smooth with
    | none => x.map f16to32
    | some s => List.zipWith (fun a b => fp32Mul (f16to32 a) (f16to32 b)) x s
  (pieces n z).flatMap hadamard

/-- Qmax of R46. -/
def qmax : AFmt → Nat
  | .int8 => 127 | .a4 => 7 | .e4m3 => 448

/-- The least GS8 encoding s in 1..0xF7 with value × Qmax ≥ amax, or none (R46); `fuel` counts the encodings left. -/
def leastScale (q : Nat) (amax : Exact) : Nat → Nat → Option (BitVec 8)
  | 0, _ => none
  | fuel + 1, c =>
    let s := BitVec.ofNat 8 c
    if ((valGS8 s).mul (.fin false q 0)).lt amax then leastScale q amax fuel (c + 1) else some s

/-- Largest magnitude of a group. -/
def amaxOf (y : List F32) : Exact :=
  y.foldl (fun a v => let m := (val32 (v &&& 0x7FFFFFFF#32)); if a.lt m then m else a) (.fin false 0 0)

/-- Nearest E4M3 code of an exact quotient with ties to even mantissa, clamped to 448 (R47). -/
def e4m3Code (neg : Bool) (q : Exact) (sticky : Bool) : BitVec 8 :=
  match q with
  | .fin _ m e =>
    match roundNearest { prec := 4, qmin := -9, qmax := 5 } m e sticky with
    | none => if neg then 0xFE#8 else 0x7E#8
    | some (m', q') =>
      if m' = 0 then 0x00#8
      else
        let mag := min (packMag { prec := 4, qmin := -9, qmax := 5 } m' q') 0x7E
        BitVec.ofNat 8 (mag + (if neg then 128 else 0))
  | _ => 0x00#8

/-- The code of one value under a finite scale (R47). -/
def quantCode (f : AFmt) (s : BitVec 8) (y : F32) : BitVec 8 :=
  match val32 y, valGS8 s with
  | .fin neg m e, .fin _ n g =>
    match f with
    | .e4m3 =>
      let (q, st) := Exact.div fmt32 (.fin false m e) (.fin false n g)
      e4m3Code neg q st
    | _ =>
      -- round(m·2^e ÷ (n·2^g)) half even, exactly: as a ratio of integers
      let l := min e g
      let a := m * 2 ^ (e - l).toNat
      let b := n * 2 ^ (g - l).toNat
      let fl := a / b
      let r := 2 * (a % b)
      let mag := if r > b then fl + 1 else if r < b then fl else if fl % 2 = 0 then fl else fl + 1
      let c := signedOf neg (min mag (qmax f))
      BitVec.ofInt 8 c
  | _, _ => 0x00#8

/-- Quantises one group (R46, R47). -/
def quantiseGroup (f : AFmt) (y : List F32) : QuantGroup :=
  if y.any (fun v => (val32 v).nonfinite) then { scale := 0xFF#8, codes := y.map (fun _ => 0), saturated := false }
  else
    let a := amaxOf y
    if a.isZero then { scale := 0x00#8, codes := y.map (fun _ => 0), saturated := false }
    else match leastScale (qmax f) a 247 1 with
      | some s => { scale := s, codes := y.map (quantCode f s), saturated := false }
      | none => { scale := 0xF7#8, codes := y.map (quantCode f 0xF7#8), saturated := true }

/-! ### Residue check and group rescale (R52 to R56, R70) -/

/-- Exact integer sum P of the products of a group (R52). -/
def groupSum (f : AFmt) (w : List Int) (c : List (BitVec 8)) : Int :=
  (List.zipWith (fun a b => a * codeInt f b) w c).foldl (· + ·) 0

/-- The residue test of R70: P mod 3 against the sum of the residues. -/
def residueOk (f : AFmt) (w : List Int) (c : List (BitVec 8)) (formed : Int) : Bool :=
  formed % 3 == (List.zipWith (fun a b => (a % 3) * (codeInt f b % 3)) w c).foldl (· + ·) 0 % 3

/-- The rescale of one group onto the accumulator (R53, R56); an E4M3 NaN code makes v the canonical NaN (R41). -/
def rescale (f : AFmt) (k : Int) (sw sa : BitVec 8) (hasNan : Bool) (p : Int) (acc : F32) : F32 :=
  let k' := match f with | .e4m3 => k - 9 | _ => k
  let u := ((valGS8 sw).mul (valGS8 sa)).mul (.fin false 1 k')
  let v := if hasNan then nan32 else toF32 ((val32 (intToF32 p)).mul u)
  fp32Add acc v

/-- One group of one column: weights, weight scale, codes, activation scale and the sum the array formed. -/
structure GroupTerm where
  w : List Int
  sw : BitVec 8
  codes : List (BitVec 8)
  sa : BitVec 8
  formed : Int
  deriving DecidableEq, Repr

/-- Accumulates the groups of one output element in ascending order (R54, R55). -/
def accumulate (f : AFmt) (k : Int) (acc : F32) (gs : List GroupTerm) : F32 :=
  gs.foldl (fun a g => rescale f k g.sw g.sa (g.codes.any (codeNan f)) g.formed a) acc

/-! ### Vector-unit functions (R76 to R78) -/

/-- FP32 1.0. -/
def one32 : F32 := 0x3F800000#32
/-- FP32 2.0. -/
def two32 : F32 := 0x40000000#32
/-- FP32 negation. -/
def fp32Neg (x : F32) : F32 := if (val32 x).isNan then nan32 else x ^^^ 0x80000000#32

/-- The coefficients C1 to C6 of R77: the FP32 values nearest the decimals, each given as an exact ratio n ÷ 10^11. -/
def expCoeff (n : Nat) : F32 :=
  let (q, s) := Exact.div fmt32 (.fin false n 0) (.fin false (10 ^ 11) 0)
  toF32 q s

/-- Rounding to an integer value, ties to even (R76). -/
def fp32Round (x : F32) : F32 :=
  match val32 x with
  | .fin neg m e => toF32 (ofInt (roundHalfEven (signedOf neg m) e) 0 neg)
  | _ => toF32 (val32 x)

/-- exp (R77). -/
def fp32Exp (x : F32) : F32 :=
  if (val32 x).isNan then nan32
  else
    let t := fp32Mul x 0x3FB8AA3B#32
    let t := fp32Min (fp32Max t 0xC3160000#32) 0x43000000#32
    let n := fp32Round t
    let f := fp32Sub t n
    let p := expCoeff 15403530
    let p := fp32Add (fp32Mul p f) (expCoeff 133335581)
    let p := fp32Add (fp32Mul p f) (expCoeff 961812911)
    let p := fp32Add (fp32Mul p f) (expCoeff 5550410866)
    let p := fp32Add (fp32Mul p f) (expCoeff 24022650695)
    let p := fp32Add (fp32Mul p f) (expCoeff 69314718056)
    let p := fp32Add (fp32Mul p f) one32
    fp32Scale p (val32 n).roundEven

/-- sigmoid (R78). -/
def fp32Sigmoid (x : F32) : F32 := fp32Div one32 (fp32Add one32 (fp32Exp (fp32Neg x)))
/-- silu (R78). -/
def fp32Silu (x : F32) : F32 := fp32Mul x (fp32Sigmoid x)
/-- tanh (R78). -/
def fp32Tanh (x : F32) : F32 := fp32Sub (fp32Mul two32 (fp32Sigmoid (fp32Mul two32 x))) one32
/-- recip (R78). -/
def fp32Recip (x : F32) : F32 := fp32Div one32 x
/-- rsqrt (R78). -/
def fp32Rsqrt (x : F32) : F32 := fp32Div one32 (fp32Sqrt x)

/-- rmsnorm over d values (R78): a product of two values that are not both binary16 is rounded before it is a term
(R59). -/
def rmsnorm (x g : List F32) (eps : F32) : List F32 :=
  let s := r59Sum 0 (x.map (fun v => val32 (fp32Mul v v)))
  let r := fp32Rsqrt (fp32Add (fp32Div s (intToF32 x.length)) eps)
  List.zipWith (fun v w => fp32Mul (fp32Mul v r) w) x g

/-- The chain maximum in ascending index (R60). -/
def fp32MaxOf : List F32 → F32
  | [] => nan32
  | x :: xs => xs.foldl fp32Max x

/-- softmax (R78). -/
def softmax (z : List F32) : List F32 :=
  let m := fp32MaxOf z
  let e := z.map (fun v => fp32Exp (fp32Sub v m))
  let s := r59Sum 0 (e.map val32)
  e.map (fun v => fp32Div v s)

/-- Applies an output function (R110, step 1): relu is max with +0.0, leaky relu is select(y ≥ 0, y, y × α). -/
def applyFn (fn : OutFn) (y : F32) : F32 :=
  match fn with
  | .identity => y
  | .relu => fp32Max y 0
  | .leaky a => if !(val32 y).isNan && !((val32 y).lt (.fin false 0 0)) then y else fp32Mul y (f16to32 a)
  | .sigmoid => fp32Sigmoid y
  | .silu => fp32Silu y
  | .tanh => fp32Tanh y

/-! ### State writes and the drift monitor (R61 to R63, R147, R148) -/

/-- What a state write stores and the flags it sets (R62, R63). -/
structure StateWrite where
  word : W32
  sat : Bool
  nonfinite : Bool
  deriving DecidableEq, Repr

/-- The stochastic write of R62 of a finite x of magnitude at most 65,504: truncation, then one unit away from zero
when r < F. -/
def roundAway (rbits r : Nat) (neg : Bool) (m : Nat) (e : Int) : F16 :=
  let q : Int := if m = 0 then -24 else max (e + (Nat.log2 m : Int) + 1 - 11) (-24)
  let sh := q - e
  let (a, num, den) :=
    if sh ≤ 0 then (m * 2 ^ (-sh).toNat, 0, 1)
    else (m / 2 ^ sh.toNat, m % 2 ^ sh.toNat, 2 ^ sh.toNat)
  let F := (num * 2 ^ rbits * 2 + den) / (2 * den)
  let a' := if num ≠ 0 ∧ r < F then a + 1 else a
  let (a'', q') := if a' = 2 ^ 11 then (2 ^ 10, q + 1) else (a', q)
  BitVec.ofNat 16 (packMag fmt16 a'' q' + (if neg then 32768 else 0))

/-- The R62 write of x with random bits r. -/
def writeS16 (rbits r : Nat) (x : F32) : F16 × Bool × Bool :=
  match val32 x with
  | .nan => (nan16, false, true)
  | .inf neg => (if neg then 0xFBFF#16 else 0x7BFF#16, true, true)
  | .fin neg m e =>
    if (Exact.fin false 65504 0).lt (.fin false m e) then (if neg then 0xFBFF#16 else 0x7BFF#16, true, false)
    else (roundAway rbits r neg m e, false, false)

/-- A state write under either precision. `bits d` are the random bits drawn with datum byte d (R194); under S16C only
lo draws them (R63, R130). -/
def stateWrite (prec : Prec) (rbits : Nat) (bits : BitVec 8 → W64) (x : F32) : StateWrite :=
  match prec with
  | .s16 =>
    let (w, sat, nf) := writeS16 rbits (roundBits rbits (bits (x.extractLsb' 0 8))) x
    { word := w.setWidth 32, sat := sat, nonfinite := nf }
  | .s16c =>
    match val32 x with
    | .nan => { word := 0x7E007E00#32, sat := false, nonfinite := true }
    | .inf neg => { word := if neg then 0x0000FBFF#32 else 0x00007BFF#32, sat := true, nonfinite := true }
    | .fin neg _ _ =>
      let hi := f32to16 x
      if (val16 hi).nonfinite then
        { word := if neg then 0x0000FBFF#32 else 0x00007BFF#32, sat := true, nonfinite := false }
      else
        let d := fp32Sub x (f16to32 hi)
        let (lo, _, _) := writeS16 rbits (roundBits rbits (bits (d.extractLsb' 0 8))) d
        { word := lo ++ hi, sat := false, nonfinite := false }

/-- The value a stored word stands for (R61). -/
def stateValue (prec : Prec) (w : W32) : F32 :=
  match prec with
  | .s16 => f16to32 (w.extractLsb' 0 16)
  | .s16c => fp32Add (f16to32 (w.extractLsb' 0 16)) (f16to32 (w.extractLsb' 16 16))

/-- Term of the drift norm: exact under S16, rounded first under S16C (R59, R148). -/
def driftTerm (prec : Prec) (w : W32) : Exact :=
  match prec with
  | .s16 => prod16 (w.extractLsb' 0 16) (w.extractLsb' 0 16)
  | .s16c => val32 (fp32Mul (stateValue prec w) (stateValue prec w))

/-- Does the drift monitor trip at a check point (R148)? θ = 0 turns it off (R147). -/
def driftTrips (prec : Prec) (theta : F16) (ws : List W32) (saturated : Bool) : Bool :=
  if (val16 theta).isZero then false
  else
    let n2 := r59Sum 0 (ws.map (driftTerm prec))
    saturated || (val32 n2).nonfinite || (val32 (fp32Mul (f16to32 theta) (f16to32 theta))).lt (val32 n2)

/-! ### Linear scans (R83, R121 to R123, R150, R151) -/

/-- An FP32 product whose exact significand the network forms with an error of `d` units, and whether its residue shows none
(R124). -/
def mulChecked (d : Int) (x y : F32) : F32 × Bool :=
  match val32 x, val32 y with
  | .fin n m _, .fin k l _ =>
    match (val32 x).mul (val32 y) with
    | .fin s p e =>
      let formed := signedOf s p + d
      (if d = 0 then fp32Mul x y else toF32 (ofInt formed e), (formed - signedOf n m % 3 * (signedOf k l % 3)) % 3 == 0)
    | _ => (fp32Mul x y, true)
  | _, _ => (fp32Mul x y, true)

/-- A position of the scan: its pair (a, b), and whether every product formed for it has passed its residue check. -/
structure ScanCell where
  a : F32
  b : F32
  ok : Bool
  deriving DecidableEq, Repr

/-- The combine operator of R83, the later pair first; `e` gives the errors of its two products. -/
def comb (e : Nat → Int) (l r : ScanCell) : ScanCell :=
  let x := mulChecked (e 0) l.a r.a
  let y := mulChecked (e 1) l.a r.b
  { a := x.1, b := fp32Add y.1 l.b, ok := l.ok && x.2 && y.2 }

/-- One level of the section scan: position t combines with t − k, both as they stand before the level (R150). `err` gives
the errors of a position's products: two a level, two of the join, one of the last step. -/
def scanLevel (err : Nat → Nat → Int) (lev k : Nat) (xs : List ScanCell) : List ScanCell :=
  xs.zipIdx.map (fun x => if x.2 < k then x.1 else match xs[x.2 - k]? with | some y => comb (fun n => err x.2 (2 * lev + n)) x.1 y | none => x.1)

/-- The levels 1, 2, 4, ... below the section length (R150, step 1). -/
def scanLevels (err : Nat → Nat → Int) : Nat → Nat → Nat → List ScanCell → List ScanCell
  | 0, _, _, xs => xs
  | fuel + 1, lev, k, xs => if k < xs.length then scanLevels err fuel (lev + 1) (2 * k) (scanLevel err lev k xs) else xs

/-- Joins scanned sections in ascending order (R150, step 2); `at0` is the position of the first of them. -/
def joinSections (err : Nat → Nat → Int) : Nat → Option ScanCell → List (List ScanCell) → List ScanCell
  | _, _, [] => []
  | at0, none, sec :: rest => sec ++ joinSections err (at0 + sec.length) sec.getLast? rest
  | at0, some p, sec :: rest =>
    let j := sec.zipIdx.map (fun x => comb (fun n => err (at0 + x.2) (12 + n)) x.1 p)
    j ++ joinSections err (at0 + sec.length) j.getLast? rest

/-- h at every position of a chunk (R150, step 3), and whether the products of the position have passed their checks. -/
def chunkScanWith (err : Nat → Nat → Int) (h0 : F32) (au : List (F16 × F16)) : List (F32 × Bool) :=
  let xs := au.map (fun p => ({ a := f16to32 p.1, b := f16to32 p.2, ok := true } : ScanCell))
  let secs := (pieces 64 xs).zipIdx.map (fun s => scanLevels (fun t n => err (64 * s.2 + t) n) 6 0 1 s.1)
  (joinSections err 0 none secs).zipIdx.map (fun p =>
    let y := mulChecked (err p.2 14) p.1.a h0
    (fp32Add y.1 p.1.b, p.1.ok && y.2))

/-- h at every position of a chunk. -/
def chunkScan (h0 : F32) (au : List (F16 × F16)) : List F32 := (chunkScanWith (fun _ _ => 0) h0 au).map Prod.fst

/-! ### Convolutions (R108 to R113) -/

/-- The value a tap reads at an input position given as an offset from the segment start; `x` lists the samples held,
the first at offset `x0` (R112). A tap before the segment reads the padding. -/
def tapValue (pad : Padding) (x0 : Int) (x : List F16) (first : F16) (pos : Int) : F16 :=
  if pos < 0 then
    match pad with
    | .zero => 0
    | .constant p => p
    | .replicate => first
  else x.getD (pos - x0).toNat 0

/-- One output of a regular layer for one channel's weights: terms in the order i × K + j (R108). -/
def convTerms (K d : Nat) (w : List F16) (read : Nat → Int → F16) (g : Nat) (t : Int) : List Exact :=
  (List.range g).flatMap (fun i => (List.range K).map (fun j =>
    prod16 (w.getD (i * K + j) 0) (read i (t - (d : Int) * ((K : Int) - 1 - j)))))

/-- One output of a transposed layer of stride s (R111). -/
def transTerms (K s : Nat) (w : List F16) (read : Nat → Int → F16) (g : Nat) (t : Int) : List Exact :=
  (List.range g).flatMap (fun (i : Nat) => (List.range K).filterMap (fun (j : Nat) =>
    if (t - (j : Int)) % (s : Int) = 0 then
      some (prod16 (w.getD (i * K + j) 0) (read i ((t - (j : Int)) / (s : Int))))
    else none))

/-- The output stage: function, residual, conversion (R110). -/
def outputStage (fn : OutFn) (residual : Option F16) (acc : F32) : F16 :=
  let y := applyFn fn acc
  let y := match residual with
    | none => y
    | some r => fp32Add y (f16to32 r)
  f32to16 y

/-- The block residue checker of R124 for binary16 products: the sum in units of 2^-48 against the residues. A NaN or
infinite product has no fixed-point sum and counts as 0 on both sides; a padded term of a value other than zero counts
with its own residue, as it counts in the sum of R113 (DESIGN CHOICE, log 84). -/
def blockResidueOk (ts : List Exact) (formed : Int) : Bool :=
  let r : Int := (ts.map (fun (t : Exact) => match t with
    | .fin neg m e => signedOf neg m % 3 * (if (e + 48).toNat % 2 = 0 then 1 else -1)
    | _ => 0)).foldl (· + ·) 0
  (formed - r) % 3 == 0

/-- A sum of products as a fixed-point integer in units of 2^-48 (R124). -/
def fixed48 (ts : List Exact) : Int :=
  (ts.map (fun (t : Exact) => match t with
    | .fin neg m e => signedOf neg (m * 2 ^ (e + 48).toNat)
    | _ => 0)).foldl (· + ·) 0

/-! ### Attention (R86, R87) -/

/-- Codes and scales of one key or value head: groups of 64 along the head dimension, INT8, no rotation (R86). -/
def packHead (v : List F16) : List QuantGroup := (pieces 64 (v.map f16to32)).map (quantiseGroup .int8)

/-- Dequantised elements as binary16 (R87, step 1). -/
def unpackHead (gs : List QuantGroup) : List F16 :=
  gs.flatMap (fun g => g.codes.map (fun c => toF16 ((ofInt (codeInt .int8 c) 0).mul (valGS8 g.scale))))

/-- One query head over the window: keys and values in ascending frame order (R87). -/
def attendHead (q : List F16) (keys vals : List (List QuantGroup)) : List F16 :=
  let ks := keys.map unpackHead
  let vs := vals.map unpackHead
  let scores := ks.map (fun k => fp32Mul (r59Dot 0 q k) 0x3DB504F3#32)
  let ps := (softmax scores).map f32to16
  (List.range q.length).map (fun j => f32to16 (r59Dot 0 ps (vs.map (fun v => v.getD j 0))))

/-- Whether a value that the vector unit forms for the head is not finite: a dequantised element, a score or an output
(R57, R87). -/
def attendNonfinite (q : List F16) (keys vals : List (List QuantGroup)) : Bool :=
  let bad (l : List F16) : Bool := l.any (fun v => (val16 v).nonfinite)
  (keys ++ vals).any (fun g => bad (unpackHead g))
  || keys.any (fun k => (val32 (fp32Mul (r59Dot 0 q (unpackHead k)) 0x3DB504F3#32)).nonfinite)
  || bad (attendHead q keys vals)

/-! ### Router and sampler (R88, R95 to R98) -/

/-- The index of the largest score: NaN never wins, the lowest index wins a tie (R88). -/
def bestScore (scores : List (Nat × F32)) : Option Nat :=
  (scores.foldl (fun (b : Option (Nat × F32)) s =>
    if (val32 s.2).isNan then b
    else match b with
      | none => some s
      | some p => if (val32 p.2).lt (val32 s.2) then some s else b) none).map (·.1)

/-- mask_prob of R96: the probability and whether the quotient was NaN. -/
def maskProb (l t : F32) : Nat × Bool :=
  if (val32 t).isZero then (0, false)
  else
    let q := fp32Mul (fp32Div l t) 0x47800000#32
    match val32 q with
    | .nan => (0, true)
    | .inf neg => (if neg then 0 else 65536, false)
    | x => (min x.roundEven.toNat 65536, false)

/-- Tree masses from the leaves up: each list is one level, the root level first (R96). -/
def massLevels : Nat → List F32 → List (List F32)
  | 0, w => [w]
  | d + 1, w => massLevels d ((List.range (w.length / 2)).map (fun i => fp32Add (w.getD (2 * i) 0) (w.getD (2 * i + 1) 0))) ++ [w]

/-- The descent of R96 over the levels below the root: returns the leaf index and whether a quotient was NaN. -/
def descend (seed stream : W64) (cb frame : Nat) : Nat → Nat → F32 → List (List F32) → Nat × Bool
  | _, n, _, [] => (n, false)
  | lev, n, mass, level :: rest =>
    let l := level.getD (2 * n) 0
    let (m, bad) := maskProb l mass
    let yes := maskYes seed stream .sampler (cb * 16 + lev) frame m
    let n' := if yes then 2 * n else 2 * n + 1
    let (tok, bad') := descend seed stream cb frame (lev + 1) n' (level.getD n' 0) rest
    (tok, bad || bad')

/-- Rank of token i: how many tokens come before it by value, lower index first on a tie (R95). -/
def rankOf (z : List F32) (i : Nat) : Nat :=
  let v := val32 (z.getD i 0)
  ((List.range z.length).filter (fun j =>
    let w := val32 (z.getD j 0)
    v.lt w || (v.eq w && decide (j < i)))).length

/-- The weights of R95. -/
def samplerWeights (tau : F16) (topk : Nat) (z : List F32) : List F32 :=
  let zmax := fp32MaxOf z
  (List.range z.length).map (fun i =>
    if topk > 0 ∧ rankOf z i ≥ topk then 0
    else fp32Exp (fp32Mul (fp32Sub (z.getD i 0) zmax) (fp32Recip (f16to32 tau))))

/-- Draws one codebook's token (R95 to R98): the token and whether arith_nonfinite is set. -/
def sampleToken (seed stream : W64) (cb frame : Nat) (tau : F16) (topk : Nat) (z : List F32) : Nat × Bool :=
  if z.any (fun v => (val32 v).nonfinite) then (0, true)
  else if (val16 tau).isZero then
    let zmax := fp32MaxOf z
    (((List.range z.length).find? (fun i => (val32 (z.getD i 0)).eq (val32 zmax))).getD 0, false)
  else
    let w := samplerWeights tau topk z
    let levels := massLevels (Nat.log2 z.length) w
    let root := (levels.getD 0 []).getD 0 0
    let (tok, bad) := descend seed stream cb frame 0 0 root (levels.drop 1)
    if bad || levels.any (fun l => l.any (fun v => (val32 v).nonfinite)) then (0, true) else (tok, false)

/-! ### Output shaper (R65, R171, R180, R268, R294) -/

/-- The integer PCM code of N bits (R65) and whether the sample was NaN or infinite. -/
def toPcm (N : Nat) (x : F32) : Int × Bool :=
  let hi : Int := 2 ^ (N - 1) - 1
  let lo : Int := -(2 ^ (N - 1))
  match val32 x with
  | .nan => (0, true)
  | .inf neg => (if neg then lo else hi, true)
  | .fin neg m e => (max lo (min hi (roundHalfEven (signedOf neg m) (e + (N : Int) - 1))), false)

/-- The b low bytes of an integer, little-endian. -/
def intBytes (b : Nat) (z : Int) : List Byte :=
  (List.range b).map (fun i => BitVec.ofInt 8 (z / 2 ^ (8 * i)))

/-- Bytes of one sample in an output format (R294) and whether it set arith_nonfinite. -/
def sampleBytes (fmt : Nat) (x : F32) : List Byte × Bool :=
  match fmt with
  | 0 => let (c, b) := toPcm 16 x; (intBytes 2 c, b)
  | 1 => let (c, b) := toPcm 24 x; (intBytes 4 c, b)
  | 2 => let (c, b) := toPcm 24 x; (intBytes 3 c, b)
  | 3 => let (c, b) := toPcm 32 x; (intBytes 4 c, b)
  | _ =>
    let v := if (val32 x).isNan then nan32 else x
    (intBytes 4 v.toNat, (val32 x).isNan)

/-- Bytes per sample of an output format (R294). -/
def bytesPerSample : Nat → Nat
  | 0 => 2 | 2 => 3 | _ => 4

/-- n fill samples (R180): silence, or the fade of 32 samples from `last` then zeros. -/
def fillRun (fade : Bool) : Nat → Shaper → List F32 × Shaper
  | 0, sh => ([], sh)
  | n + 1, sh =>
    if fade then
      let y := if sh.k < 32 then fp32Mul sh.last (fp32Scale (intToF32 (31 - sh.k)) (-5)) else 0
      let (ys, sh') := fillRun fade n { sh with k := min 65535 (sh.k + 1) }
      (y :: ys, sh')
    else
      let (ys, sh') := fillRun fade n { sh with last := 0, k := min 65535 (sh.k + 1) }
      (0 :: ys, sh')

/-- Shapes synthesised samples: gain, then the fade-in while fewer than 32 samples have resumed (R180, R268). -/
def shapeRun (fade : Bool) : List F32 → Shaper → List F32 × Shaper
  | [], sh => ([], sh)
  | x :: xs, sh =>
    let y := fp32Mul x (f16to32 sh.gain)
    let y := if fade ∧ sh.j < 32 then fp32Mul y (fp32Scale (intToF32 (sh.j + 1)) (-5)) else y
    let (ys, sh') := shapeRun fade xs { sh with last := y, k := 0, j := min 32 (sh.j + 1) }
    (y :: ys, sh')

/-- The feature extractor of R171: 32 features from the samples of a run. -/
def extract (m : List (List F16)) (b : List F16) (fn : OutFn) (s : List F16) : List F16 :=
  (List.range 32).map (fun k => f32to16 (applyFn fn (r59Dot (f16to32 (b.getD k 0)) (m.getD k []) s)))

/-- A reference sample code as binary16 (R171, R312): 16- and 24-bit codes as they are, 32-bit shifted right by 8. -/
def refSample (bits : Nat) (c : Int) : F16 :=
  let (c', b) := if bits = 32 then (c / 256, 24) else (c, bits)
  f32to16 (toF32 (ofInt c' (-((b : Int) - 1))))

/-- The port word of a slot: the exact sum of the routed samples, one rounding, then R65 with N = W (R309). -/
def slotWord (W : Nat) (xs : List F32) : Int := (toPcm W (toF32 (exactSum (xs.map val32)))).1

/-- The conversion of a slot's sum meets a NaN or an infinity (R65, R309). -/
def slotNonfinite (W : Nat) (xs : List F32) : Bool := (toPcm W (toF32 (exactSum (xs.map val32)))).2

end Sys2Proof.Machine
end

