-- ==== Sys2Proof/Machine/Crypto.lean ====
section
/-!
DEFINITION. SHA-512 and the verification half of ECDSA on curve P-521 (R157, R386): public algorithms the spec names.
-/
namespace Sys2Proof.Machine

/-- Round constants of SHA-512, part 0. -/
def shaK0 : List W64 :=
  [0x428A2F98D728AE22#64, 0x7137449123EF65CD#64, 0xB5C0FBCFEC4D3B2F#64, 0xE9B5DBA58189DBBC#64,
   0x3956C25BF348B538#64, 0x59F111F1B605D019#64, 0x923F82A4AF194F9B#64, 0xAB1C5ED5DA6D8118#64,
   0xD807AA98A3030242#64, 0x12835B0145706FBE#64, 0x243185BE4EE4B28C#64, 0x550C7DC3D5FFB4E2#64,
   0x72BE5D74F27B896F#64, 0x80DEB1FE3B1696B1#64, 0x9BDC06A725C71235#64, 0xC19BF174CF692694#64]

/-- Round constants of SHA-512, part 1. -/
def shaK1 : List W64 :=
  [0xE49B69C19EF14AD2#64, 0xEFBE4786384F25E3#64, 0x0FC19DC68B8CD5B5#64, 0x240CA1CC77AC9C65#64,
   0x2DE92C6F592B0275#64, 0x4A7484AA6EA6E483#64, 0x5CB0A9DCBD41FBD4#64, 0x76F988DA831153B5#64,
   0x983E5152EE66DFAB#64, 0xA831C66D2DB43210#64, 0xB00327C898FB213F#64, 0xBF597FC7BEEF0EE4#64,
   0xC6E00BF33DA88FC2#64, 0xD5A79147930AA725#64, 0x06CA6351E003826F#64, 0x142929670A0E6E70#64]

/-- Round constants of SHA-512, part 2. -/
def shaK2 : List W64 :=
  [0x27B70A8546D22FFC#64, 0x2E1B21385C26C926#64, 0x4D2C6DFC5AC42AED#64, 0x53380D139D95B3DF#64,
   0x650A73548BAF63DE#64, 0x766A0ABB3C77B2A8#64, 0x81C2C92E47EDAEE6#64, 0x92722C851482353B#64,
   0xA2BFE8A14CF10364#64, 0xA81A664BBC423001#64, 0xC24B8B70D0F89791#64, 0xC76C51A30654BE30#64,
   0xD192E819D6EF5218#64, 0xD69906245565A910#64, 0xF40E35855771202A#64, 0x106AA07032BBD1B8#64]

/-- Round constants of SHA-512, part 3. -/
def shaK3 : List W64 :=
  [0x19A4C116B8D2D0C8#64, 0x1E376C085141AB53#64, 0x2748774CDF8EEB99#64, 0x34B0BCB5E19B48A8#64,
   0x391C0CB3C5C95A63#64, 0x4ED8AA4AE3418ACB#64, 0x5B9CCA4F7763E373#64, 0x682E6FF3D6B2B8A3#64,
   0x748F82EE5DEFB2FC#64, 0x78A5636F43172F60#64, 0x84C87814A1F0AB72#64, 0x8CC702081A6439EC#64,
   0x90BEFFFA23631E28#64, 0xA4506CEBDE82BDE9#64, 0xBEF9A3F7B2C67915#64, 0xC67178F2E372532B#64]

/-- Round constants of SHA-512, part 4. -/
def shaK4 : List W64 :=
  [0xCA273ECEEA26619C#64, 0xD186B8C721C0C207#64, 0xEADA7DD6CDE0EB1E#64, 0xF57D4F7FEE6ED178#64,
   0x06F067AA72176FBA#64, 0x0A637DC5A2C898A6#64, 0x113F9804BEF90DAE#64, 0x1B710B35131C471B#64,
   0x28DB77F523047D84#64, 0x32CAAB7B40C72493#64, 0x3C9EBE0A15C9BEBC#64, 0x431D67C49C100D4C#64,
   0x4CC5D4BECB3E42B6#64, 0x597F299CFC657E2A#64, 0x5FCB6FAB3AD6FAEC#64, 0x6C44198C4A475817#64]

/-- Round constants of SHA-512. -/
def shaK : List W64 := shaK0 ++ shaK1 ++ shaK2 ++ shaK3 ++ shaK4

/-- Initial hash words of SHA-512. -/
def shaInit : List W64 :=
  [0x6A09E667F3BCC908#64, 0xBB67AE8584CAA73B#64, 0x3C6EF372FE94F82B#64, 0xA54FF53A5F1D36F1#64,
   0x510E527FADE682D1#64, 0x9B05688C2B3E6C1F#64, 0x1F83D9ABFB41BD6B#64, 0x5BE0CD19137E2179#64]

/-- Rotate right of a 64-bit word. -/
def rotr (n : Nat) (x : W64) : W64 := (x >>> n) ||| (x <<< (64 - n))

/-- Big-endian number of a byte list. -/
def bytesToNat (bs : List Byte) : Nat := bs.foldl (fun a b => a * 256 + b.toNat) 0

/-- Little-endian number of a byte list. -/
def bytesToNatLE (bs : List Byte) : Nat := bytesToNat bs.reverse

/-- The n low bytes of a number, little-endian. -/
def natBytesLE (n z : Nat) : List Byte := (List.range n).map (fun i => BitVec.ofNat 8 (z / 2 ^ (8 * i)))

/-- The n low bytes of a number, big-endian. -/
def natBytesBE (n z : Nat) : List Byte := (natBytesLE n z).reverse

/-- Message schedule: extends 16 words to 80, newest first. -/
def shaExpand : Nat → List W64 → List W64
  | 0, w => w
  | n + 1, w =>
    let a := w.getD 1 0
    let b := w.getD 14 0
    let s1 := rotr 19 a ^^^ rotr 61 a ^^^ (a >>> 6)
    let s0 := rotr 1 b ^^^ rotr 8 b ^^^ (b >>> 7)
    shaExpand n ((s1 + w.getD 6 0 + s0 + w.getD 15 0) :: w)

/-- One round of SHA-512 over the eight working words. -/
def shaRound (st : List W64) (kw : W64) : List W64 :=
  match st with
  | [a, b, c, d, e, f, g, h] =>
    let t1 := h + (rotr 14 e ^^^ rotr 18 e ^^^ rotr 41 e) + ((e &&& f) ^^^ (~~~e &&& g)) + kw
    let t2 := (rotr 28 a ^^^ rotr 34 a ^^^ rotr 39 a) + ((a &&& b) ^^^ (a &&& c) ^^^ (b &&& c))
    [t1 + t2, a, b, c, d + t1, e, f, g]
  | x => x

/-- One block of 128 bytes. -/
def shaBlock (st : List W64) (blk : List Byte) : List W64 :=
  let w := (List.range 16).map (fun i => BitVec.ofNat 64 (bytesToNat ((blk.drop (8 * i)).take 8)))
  let ws := (shaExpand 64 w.reverse).reverse
  List.zipWith (· + ·) st ((List.zipWith (· + ·) shaK ws).foldl shaRound st)

/-- The blocks of a padded message; `fuel` counts them. -/
def shaBlocks : Nat → List W64 → List Byte → List W64
  | 0, st, _ => st
  | fuel + 1, st, m => shaBlocks fuel (shaBlock st (m.take 128)) (m.drop 128)

/-- SHA-512 of a byte list; byte 0 of the digest stands in bits 7..0 of the result. -/
def sha512 (m : List Byte) : Hash :=
  let padded := m ++ [0x80#8] ++ List.replicate ((239 - m.length % 128) % 128) 0x00#8 ++ natBytesBE 16 (8 * m.length)
  let st := shaBlocks (padded.length / 128) shaInit padded
  BitVec.ofNat 512 (bytesToNatLE (st.flatMap (fun x => natBytesBE 8 x.toNat)))

/-- The bytes of a hash, byte 0 first. -/
def hashBytes (h : Hash) : List Byte := natBytesLE 64 h.toNat

/-- HMAC-SHA-512 of a message under a key of at most one block of 128 bytes (R399). -/
def hmac512 (key m : List Byte) : Hash :=
  let k := key ++ List.replicate (128 - key.length) 0
  sha512 (k.map (fun b => b ^^^ 0x5C#8) ++ hashBytes (sha512 (k.map (fun b => b ^^^ 0x36#8) ++ m)))

/-- The first `n` ≤ 64 bytes of HKDF-SHA-512 (RFC 5869) of a secret, with no salt (R399). -/
def hkdf512 (n : Nat) (secret info : List Byte) : List Byte :=
  let prk := hashBytes (hmac512 (List.replicate 64 0) secret)
  (hashBytes (hmac512 prk (info ++ [0x01#8]))).take n

/-- The prime of P-521. -/
def p521 : Nat := 2 ^ 521 - 1
/-- The order of the base point of P-521. -/
def n521 : Nat := 0x1FFFFFFFFFFFFFFFFFFFFFFFFFFFFFFFFFFFFFFFFFFFFFFFFFFFFFFFFFFFFFFFFFFFA51868783BF2F966B7FCC0148F709A5D03BB5C9B8899C47AEBB6FB71E91386409
/-- The coefficient b of P-521; a = -3. -/
def b521 : Nat := 0x51953EB9618E1C9A1F929A21A0B68540EEA2DA725B99B315F3B8B489918EF109E156193951EC7E937B1652C0BD3BB1BF073573DF883D2C34F1EF451FD46B503F00
/-- The base point of P-521. -/
def g521 : Nat × Nat := (0xC6858E06B70404E9CD9E3ECB662395B4429C648139053FB521F828AF606B4D3DBAA14B5E77EFE75928FE1DC127A2FFA8DE3348B3C1856A429BF97E7E31C2E5BD66, 0x11839296A789A3BC0045C8A5FB42C7D1BD998F54449579B446817AFBD17273E662C97EE72995EF42640C550B9013FAD0761353C7086A272C24088BE94769FD16650)

/-- b^e mod m by the bits of e, `fuel` bits. -/
def powMod (m : Nat) : Nat → Nat → Nat → Nat
  | 0, _, _ => 1 % m
  | fuel + 1, b, e =>
    let r := powMod m fuel (b * b % m) (e / 2)
    if e % 2 = 1 then b * r % m else r

/-- Inverse modulo a prime (Fermat). -/
def invMod (m x : Nat) : Nat := powMod m 522 (x % m) (m - 2)

/-- A point of the curve, or the point at infinity. -/
abbrev Point := Option (Nat × Nat)

/-- Point addition on P-521. -/
def pointAdd (p q : Point) : Point :=
  match p, q with
  | none, q => q
  | p, none => p
  | some (x1, y1), some (x2, y2) =>
    if x1 = x2 ∧ (y1 + y2) % p521 = 0 then none
    else
      let l :=
        if x1 = x2 then (3 * x1 * x1 + (p521 - 3)) * invMod p521 (2 * y1) % p521
        else (y2 + p521 - y1) * invMod p521 (x2 + p521 - x1) % p521
      let x3 := (l * l + 2 * p521 - x1 - x2) % p521
      some (x3, (l * (x1 + p521 - x3) + (p521 - y1)) % p521)

/-- k × p by doubling, `fuel` bits of k. -/
def pointMul : Nat → Nat → Point → Point
  | 0, _, _ => none
  | fuel + 1, k, p =>
    let r := pointMul fuel (k / 2) (pointAdd p p)
    if k % 2 = 1 then pointAdd p r else r

/-- Is (x, y) on the curve? -/
def onCurve (x y : Nat) : Bool :=
  decide (x < p521) && decide (y < p521) && (y * y % p521 == (x * x * x + (p521 - 3) * x + b521) % p521)

/-- ECDSA verification of a hash under a public key; r, s outside [1, n - 1] and a key off the curve are rejected
(R386). -/
def ecdsaVerify (h : Hash) (r s x y : Nat) : Bool :=
  if r = 0 ∨ r ≥ n521 ∨ s = 0 ∨ s ≥ n521 ∨ !onCurve x y then false
  else
    let e := bytesToNat (hashBytes h)
    let w := invMod n521 s
    match pointAdd (pointMul 521 (e * w % n521) (some g521)) (pointMul 521 (r * w % n521) (some (x, y))) with
    | none => false
    | some (px, _) => px % n521 == r

/-- Verification of a 132-byte signature (r, s, each 66 bytes big-endian) under a 133-byte SEC 1 uncompressed key
(R385, R386). -/
def verifySig (h : Hash) (sig key : List Byte) : Bool :=
  sig.length == 132 && key.length == 133 && key.headD 0 == 0x04#8 &&
    ecdsaVerify h (bytesToNat (sig.take 66)) (bytesToNat (sig.drop 66))
      (bytesToNat ((key.drop 1).take 66)) (bytesToNat (key.drop 67))

end Sys2Proof.Machine
end

