-- ==== Sys2Proof/Config.lean ====
section
/-!
DEFINITION. What one module fixes and the spec leaves to it. Every constant here is opaque: no proof can see a value.
-/
namespace Sys2Proof.Config

/-- Far-memory capacity of this module's order code: 0 = 750 GB, 1 = 1,500 GB, 2 = 3,000 GB (R1, R204). -/
opaque farClass : Fin 3
/-- Far-memory capacity in bytes (R1, R204, R413 word 4). -/
def farCapacity : Nat := [750000000000, 1500000000000, 3000000000000].getD farClass.val 0
/-- Hardware revision, reported by CAP_ID and COMPAT_VEC (R406, R412). -/
opaque hwRev : BitVec 8
/-- The levels that the board straps SMB_ADDR1 and SMB_ADDR0 to (R440). -/
opaque smbStraps : BitVec 2
/-- SHA-512 of signer key `i` held in the boot ROM, i = 0 to 3 (R386). -/
opaque rootKeyHash : Nat → Hash
/-- SHA-512 of the boot ROM, the first value that extends M0 (R400). -/
opaque bootRomHash : Hash
/-- Identity public key of the module, 133 bytes SEC 1 (R399, R402). -/
opaque identityKey : List Byte
/-- Identity certificate of the module, X.509 DER (R399, R402). -/
opaque identityCert : List Byte
/-- The root secret that the physically unclonable circuit gives on the n-th run of phase M (R399). -/
opaque rootSecret : Nat → BitVec 256
/-- Whether the identity area opens under a sealing key; the spec gives the area no layout (R399). -/
opaque opens : BitVec 256 → Bool
/-- Codes of ERR_LOG details that the spec names without numbering (R383): the cause of a change of DEV_STATE. -/
opaque causeCode : Nat → W64
/-- An event of the link, a refused request that is no register write, a rule's trip or clear (R383). -/
opaque eventCode : Nat → W64
/-- The owner of a line that an uncorrectable read lies in (R383). -/
opaque ownerCode : Nat → W64
/-- A free value: word `n` of whatever the spec leaves undefined. -/
opaque freeValue : Nat → W64

/-- Darnonex's vendor identifier, and the device, revision and subsystem identifiers, which the spec leaves open (R231). -/
opaque vendorId : BitVec 16
opaque deviceId : BitVec 16
opaque revisionId : BitVec 8
opaque subsystemId : BitVec 32

end Sys2Proof.Config
end

