-- ==== Sys2Proof/Machine/State.lean ====
section
/-!
DEFINITION. Everything the spec gives the block, as plain data, and the state at reset. Each field's comment gives its
width, the rule that names it and its reset value.
-/
namespace Sys2Proof.Machine

/-- Addressed memory: (address, byte) pairs in canonical form. -/
abbrev Memory := List Host.Cell

/-! ### Power, clocks and pins -/

/-- Function power states (R254). -/
inductive DState where
  | d0 | d3hot | d3cold
  deriving DecidableEq, Repr

/-- REFCLK as the missing-edge detector leaves it (R332, R333). -/
inductive RefclkState where
  | running | holdover | stopped
  deriving DecidableEq, Repr

/-- Supplies, resets and clocks. -/
structure Power where
  auxUp : Bool          -- 1 bit; 3V3_AUX in range (R438, file 17); reset false
  wDone : Bool          -- 1 bit; phase W has run since 3V3_AUX rose (R388, file 15); reset false
  smbAddr : BitVec 2    -- 2 bits; SMB_ADDR1 and SMB_ADDR0 as read when 3V3_AUX rose (R440, R442, file 17); reset DESIGN CHOICE 0 (log 3)
  inputCut : Bool       -- 1 bit; the input stage is disconnected above 62 V (R361, file 13); reset false
  railsOn : Bool        -- 1 bit; main rails on (R439, file 17); reset false
  pgood : Bool          -- 1 bit; MOD_PGOOD released high (R439, file 17); reset false
  perst : Bool          -- 1 bit; PERST# asserted (R254, file 09); reset true
  booted : Bool         -- 1 bit; phase M has ended, the function answers (R389, file 15); reset false
  dstate : DState       -- 2 bits; function power state (R254, file 09); reset D0
  refclk : RefclkState  -- 2 bits; REFCLK running, in holdover or stopped (R333, file 12); reset running
  pllsLocked : Bool     -- 1 bit; PLLs locked (R322, R335, file 12); reset false
  syncTimeout : Bool    -- 1 bit; a returning follower waits for a TICKSYNC_IN edge (R335, file 12); reset false
  tickPulse : Bool      -- 1 bit; TICKSYNC_OUT pulses of this tick are given (R186, file 06); reset false
  masterBclk : Bool     -- 1 bit; master port clocks run (R333, R335, file 12); reset false
  forcedSafe : Bool     -- 1 bit; the output states of R333 are forced (R376, file 14); reset false
  deriving DecidableEq, Repr

/-! ### Executive -/

/-- The state field of DEV_STATE (R414). -/
inductive DevMode where
  | holding | ready | running | degraded | safe | asleep
  deriving DecidableEq, Repr

/-- The window of the tick (R10). -/
inductive Window where
  | stopped | work | reserve | commit
  deriving DecidableEq, Repr

/-- Where the start sequence of R418 stands. -/
inductive StartPhase where
  | none | testing | waitEdge | scheduled
  deriving DecidableEq, Repr

/-- Device state and the tick executive. -/
structure Exec where
  mode : DevMode          -- 3 bits; DEV_STATE.state (R414, file 16); reset HOLDING (boot)
  fault : BitVec 8        -- 8 bits; DEV_STATE.fault (R414, file 16); reset 0
  fencedAny : Bool        -- 1 bit; DEV_STATE.fenced (R414, file 16); reset 0
  perm : Bool             -- 1 bit; DEV_STATE.perm (R414, file 16); reset 0
  running : Bool          -- 1 bit; DEV_STATE.exec, TICK_CTL.running (R414, R416, file 16); reset 0
  start : StartPhase      -- 2 bits; start sequence, TICK_CTL.starting (R418, file 16); reset none
  stopping : Option Nat   -- TICK_CTL.stopping: boundaries until the latched stop acts (R419, file 16); reset none
  loadState : BitVec 2    -- 2 bits; TICK_CTL.load_state (R416, file 16); reset 0
  failedCheck : BitVec 8  -- 8 bits; TICK_CTL.failed_check (R416, file 16); reset 0
  image : Option ImageFile  -- the schedule image in force (R159, R160, file 06); reset none
  window : Window         -- 2 bits; window of the tick (R10, file 01); reset stopped
  tick : W64              -- 64 bits; number of the tick that runs or runs next (R25, file 01); reset 0
  last : Option W64       -- 64 bits; last published epoch since the start, none before (R25, R275, file 01); reset none
  linkLost : Bool         -- 1 bit; the link is lost or reset: the tick commits internally and the executive stops (R253, R254, file 09); reset false
  rerun : Bool            -- 1 bit; the next tick is the re-run of an interrupted one (R31, file 01); reset false
  gap : Bool              -- 1 bit; the tick follows an outage (R31, R430, file 01); reset 0
  gapCount : W32          -- 32 bits; outages since the executive started (R430, file 16); reset 0
  overrun : Option Nat    -- ACLK by which the tick's work overran (R11, file 01); reset none
  safePlan : Option (BitVec 8)  -- SAFE is entered at the next boundary, with its fault class (R358, R370, file 13); reset none
  safeTick : Bool         -- 1 bit; the tick that runs is the eviction tick of R358 (file 13); reset false
  hold : Bool             -- 1 bit; admission hold in force (R360, file 13); reset 0
  coolCap : Bool          -- 1 bit; the cap in force is lowered one step (R362, file 13); reset 0
  seq : Nat               -- sequence number the next decoded descriptor takes (R273, file 10); reset 0
  deriving DecidableEq, Repr

/-! ### Latched registers -/

/-- A register write or trigger that waits for its boundary (R14, R410). -/
inductive LatchItem where
  | pwrCap (w : W32) | ticksync (w : W32) | policy (off : Nat) (w : W32)
  | aportCtl (p : Nat) (w : W32) | aportFmt (p : Nat) (w : W32) | aportMask (p : Nat) (w : W32) | retry (p : Nat)
  | credit (q : Nat) (w : W16) | eccClear | logClear
  deriving DecidableEq, Repr

/-! ### Rings, records and host writes -/

/-- A 32-byte record of a completion queue (R270). The submission head is filled in at publication. -/
structure Record where
  kind : BitVec 8
  status : BitVec 8
  event : Bool
  tag : W32
  handle : W32
  head : W16
  detail0 : W16
  epoch : W64
  detail1 : W64
  deriving DecidableEq, Repr

/-- A posted write of the device to host memory (R248, R26). -/
inductive HostWrite where
  | bytes (addr : W64) (data : List Byte) (relaxed : Bool)
  | image (addr : W64) (length : Nat) (data : Bytes) (relaxed : Bool)
  | msix (vector : Nat) (addr : W64) (data : W32)
  deriving DecidableEq, Repr

/-- A record composed for queue q: its descriptor's sequence number, or 0, and its context (R274). -/
structure Pending where
  q : Nat
  seq : Nat
  ctx : Nat
  module : Bool
  r : Record
  deriving DecidableEq, Repr

/-- Queue pair q (R255, R423). -/
structure QueuePair where
  sqBase : W64      -- 64 bits; SQ_BASE (R423, file 16); reset 0
  sqLog : BitVec 5  -- 5 bits; SQ_SIZE.size_log2 (R423, file 16); reset 4
  sqOn : Bool       -- 1 bit; SQ_SIZE.enable (R423, file 16); reset 0
  fault : Bool      -- 1 bit; SQ_SIZE.fault (R423, R252, file 16); reset 0
  fetch : W16       -- 16 bits; SQ_SIZE.fetch (R423, R260, file 16); reset 0
  tail : W16        -- 16 bits; last announced tail (R258, R260, file 10); reset 0
  head : W16        -- 16 bits; SQ_SIZE.head, last reported (R423, R257, file 16); reset 0
  urgent : Nat      -- announced descriptors left in the urgent class, at most 8 a write (R261, file 10); reset 0
  retried : Bool    -- 1 bit; the fetch has failed once (R252, file 09); reset 0
  credit : W16      -- 16 bits; SQ_CREDIT.credit as written (R423, R244, file 16); reset 0
  creditNow : W16   -- 16 bits; the credit in force (R244, R14, file 09); reset 0
  outstanding : W16 -- 16 bits; SQ_CREDIT.outstanding (R423, file 16); reset 0
  owner : W16       -- 16 bits; SQ_OWNER.owner (R423, R239, file 16); reset 0
  cqBase : W64      -- 64 bits; CQ_BASE (R423, file 16); reset 0
  cqLog : BitVec 5  -- 5 bits; CQ_SIZE.size_log2 (R423, file 16); reset 4
  cqOn : Bool       -- 1 bit; CQ_SIZE.enable (R423, file 16); reset 0
  overflow : Bool   -- 1 bit; CQ_SIZE.overflow (R423, R262, file 16); reset 0
  cqTail : W16      -- 16 bits; CQ_SIZE.tail, published tail (R423, R256, file 16); reset 0
  cqHead : W16      -- 16 bits; CQ_SIZE.cq_head (R423, R262, file 16); reset 0
  waiting : List Pending  -- records held back, oldest first; CQ_SIZE.waiting is its length (R262, file 10); reset empty
  dropped : W32     -- 32 bits; events dropped since the queue was enabled (R256, file 10); reset 0
  vector : BitVec 9 -- 9 bits; CQ_VECTOR.vector (R423, R241, file 16); reset 0
  deriving DecidableEq, Repr

/-- An MSI-X table entry (R241, R411). -/
structure MsixEntry where
  addr : W64        -- 64 bits; message address (R411, file 16); reset 0
  data : W32        -- 32 bits; message data (R411, file 16); reset 0
  masked : Bool     -- 1 bit; vector mask (R242, file 09); reset 1
  pending : Bool    -- 1 bit; pending bit (R242, file 09); reset 0
  deriving DecidableEq, Repr

/-- Configuration space: BARs, Device Control, and Advanced Error Reporting (R231, R233, R252). Reset values are the
standard's (PRESUMED, log 89). -/
structure PciConfig where
  bar0 : W64            -- 64 bits; BAR0 and BAR1, 64 MiB, non-prefetchable (R233, file 09); reset PRESUMED 0 (log 89)
  bar2 : W64            -- 64 bits; BAR2 and BAR3, 4 MiB, non-prefetchable (R233, file 09); reset PRESUMED 0 (log 89)
  maxPayload : BitVec 3 -- 3 bits; Max_Payload_Size, 128 B × 2^n (R231, file 09); reset PRESUMED 0 (log 89)
  maxRead : BitVec 3    -- 3 bits; Max_Read_Request_Size, 128 B × 2^n (R231, file 09); reset PRESUMED 2 (log 89)
  relaxed : Bool        -- 1 bit; Relaxed Ordering enable (R231, R248, file 09); reset PRESUMED 1 (log 89)
  timeout : BitVec 4    -- 4 bits; completion timeout range (R231, file 09); reset PRESUMED 0, 50 ms (log 89)
  timeoutOff : Bool     -- 1 bit; completion timeout disable (R231, file 09); reset PRESUMED 0 (log 89)
  ecrcGen : Bool        -- 1 bit; ECRC generation (R231, file 09); reset PRESUMED 0 (log 89)
  ecrcCheck : Bool      -- 1 bit; ECRC checking (R231, file 09); reset PRESUMED 0 (log 89)
  uncStatus : W32       -- 32 bits; AER uncorrectable status (R252, file 09); reset PRESUMED 0 (log 89)
  uncMask : W32         -- 32 bits; AER uncorrectable mask (R252, file 09); reset PRESUMED 0 (log 89)
  uncFatal : W32        -- 32 bits; AER uncorrectable severity (R252, file 09); reset PRESUMED 0x0046_2030 (log 89)
  corStatus : W32       -- 32 bits; AER correctable status (R252, file 09); reset PRESUMED 0 (log 89)
  corMask : W32         -- 32 bits; AER correctable mask (R252, file 09); reset PRESUMED 0xE000 (log 89)
  aspmL1 : Bool         -- 1 bit; ASPM L1 enable (R231, file 09); reset PRESUMED 0 (log 89)
  header : BitVec 128   -- 128 bits; AER header log (R231, R252, file 09); reset PRESUMED 0 (log 89)
  deriving DecidableEq, Repr

/-- The link, the transfer mode, MSI-X and SMBus access. -/
structure LinkState where
  up : Bool             -- 1 bit; data link up (R253, file 09); reset false
  rate : BitVec 4       -- 4 bits; DEV_STATE.link_rate (R414, R232, file 16); reset 0
  width : BitVec 4      -- 4 bits; DEV_STATE.link_width (R414, file 16); reset 0
  legacy : Bool         -- 1 bit; XFER_MODE.mode (R421, file 16); reset 0
  tags : BitVec 2       -- 2 bits; XFER_MODE.tags (R421, R243, file 16); reset 0
  msixOn : Bool         -- 1 bit; MSI-X Enable (R242, file 09); reset 0
  funcMask : Bool       -- 1 bit; MSI-X Function Mask (R242, file 09); reset 0
  raise : List Nat      -- vectors to raise at the next publication (R241, R242, file 09); reset empty
  posted : List HostWrite  -- host writes released, oldest first (R26, R248, R334, file 09); reset empty
  dropCount : W16       -- 16 bits; dropped writes of the tick, saturating (R238, file 09); reset 0
  dropFirst : W32       -- 32 bits; BAR offset of the first of them (R238, file 09); reset 0
  smPtr : W32           -- 32 bits; SMBus access pointer (R442, file 17); reset DESIGN CHOICE 0 (log 3)
  smStat : BitVec 8     -- 8 bits; SMBus access status (R442, file 17); reset DESIGN CHOICE 0 (log 3)
  smNack : Bool         -- 1 bit; the last SMBus transaction to the module was answered with NACK (R442, file 17); reset DESIGN CHOICE 0 (log 3)
  smData : W32          -- 32 bits; data of the last SMBus read (R442, file 17); reset DESIGN CHOICE 0 (log 3)
  urgentWait : List (Nat × Nat) -- urgent reads that wait for a reserved tag, in order of receipt: queue, descriptors left of it (R261, R246, files 09, 10); reset empty
  urgentOut : List (Nat × Nat)  -- urgent reads that hold a reserved tag, at most 64 (R243, R246, file 09); reset empty
  turn : Nat            -- queue that issued the last ordinary read (R244, R245, file 09); reset DESIGN CHOICE 0 (log 3)
  pci : PciConfig       -- configuration space (R231, R233, R252, file 09)
  deriving DecidableEq, Repr

/-- What the host memory gave a descriptor, with the descriptor (R252). -/
inductive Payload where
  | none
  | feed (r : HostRead FeedData)
  | style (r : HostRead (List F16))
  | record (r : HostRead Bytes)
  | package (r : HostRead PackageData)
  | members (r : HostRead (List W32))
  | audio (r : HostRead AudioData)
  | ring (r : HostRead Segments)
  deriving DecidableEq, Repr

/-- A decoded descriptor that has not taken effect (R13). -/
structure Admitted where
  seq : Nat          -- decode order
  q : Nat            -- queue pair
  owner : W16        -- owner of the queue at decode (R425)
  due : W64          -- tick at whose boundary it takes effect
  desc : Desc
  payload : Payload
  urgent : Bool      -- an urgent STOP
  unread : Bool      -- fetched on a reserved tag without credit: its blocks wait for an ordinary tag (R246)
  pin : Option (Nat × Nat)  -- the selection made at decode: catalogue index and slot, pinned until it takes effect (R89, R91)
  deriving DecidableEq, Repr

/-- A descriptor decoded and not yet completed: what a FENCE waits for (R290). -/
structure OpenDesc where
  seq : Nat
  q : Nat
  owner : W16
  tag : W32
  op : Nat           -- opcode
  handle : W32       -- stream handle that it names
  barrier : Bool     -- a barrier FENCE (R291)
  applied : Option Nat  -- place in the order of application, once it has been applied (R274)
  deriving DecidableEq, Repr

/-- A FENCE that has taken effect (R290, R291). -/
structure FenceWait where
  seq : Nat
  q : Nat
  tag : W32
  scope : List Nat   -- sequence numbers it waits for
  count : Nat        -- descriptors waited for (detail0)
  deriving DecidableEq, Repr

/-- Descriptors and records between decode and publication. -/
structure Rings where
  admitted : List Admitted    -- decoded, not in effect, in decode order (R13, R273, file 10); reset empty
  openDescs : List OpenDesc   -- decoded, not completed (R290, file 10); reset empty
  fences : List FenceWait     -- FENCEs in effect (R290, file 10); reset empty
  done : List Pending         -- completions of the tick in order of application (R274, file 10); reset empty
  events : List Pending       -- events of the tick (R274, file 10); reset empty
  trailers : List HostWrite   -- block trailers that the commit writes (R26, R293, file 10); reset empty
  laneWait : List Admitted    -- OPENs and IMPORTs that wait for a lane slot (R136, file 05); reset empty
  deriving DecidableEq, Repr

/-! ### Streams -/

/-- Life of an allocated context (R276). -/
inductive Life where
  | idle | speaking | exported | lost
  deriving DecidableEq, Repr

/-- A reference binding (R172, R267). -/
inductive RefBind where
  | none | port (p s : Nat) | audio
  deriving DecidableEq, Repr

/-- State of a lane slot (R135). -/
inductive SlotMode where
  | transition | issuing | leaving
  deriving DecidableEq, Repr

/-- The lane slot a context holds (R135, R136). -/
structure LaneSlot where
  lane : Nat
  slot : Nat
  mode : SlotMode
  deriving DecidableEq, Repr

/-- Versions an utterance has bound (R286). -/
structure Bound where
  trunk : Nat        -- trunk slot
  idx : Nat          -- catalogue index
  slot : Nat         -- version slot of the variant
  deriving DecidableEq, Repr

/-- A RING_OUT that supplies blocks (R292, R293): its queue, tag, sequence number and block (address, length) list. -/
structure RingDesc where
  seq : Nat
  q : Nat
  tag : W32
  blocks : List (W64 × Nat)
  used : Nat
  lastIndex : Option W64
  deriving DecidableEq, Repr

/-- The open output block (R292, R293). -/
structure OpenBlock where
  addr : W64
  length : Nat
  index : Nat
  offset : Nat
  runs : Nat
  firstSample : W64
  firstEpoch : W64
  lastEpoch : W64
  fill : Bool
  begins : Bool
  ends : Bool
  gap : Bool
  deriving DecidableEq, Repr

/-- The output ring of a stream (R292). -/
structure OutRing where
  descs : List RingDesc      -- RING_OUTs outstanding, oldest first; the first holds the current block
  block : Option OpenBlock   -- the open block
  gap : Bool                 -- a run was not written since the last one
  deriving DecidableEq, Repr

/-- A FEED that waits for room or for the state lock (R214, R282). -/
structure WaitFeed where
  a : Admitted
  deriving DecidableEq, Repr

/-- An AUDIO_IN in effect: first sample index, codes, format width and late samples so far (R173). -/
structure WaitAudio where
  seq : Nat
  q : Nat
  tag : W32
  handle : W32
  chanB : Bool
  start0 : W64
  bits : Nat
  data : HostRead AudioData
  expect : Nat
  opened : Bool      -- its first window has come
  lenFirst : Nat     -- length of the first list segment
  lost : List (Nat × Nat)  -- samples of blocks whose read failed: first and count (R252)
  deriving DecidableEq, Repr

/-- How a stream's run of the tick is spilled (R177 to R179). -/
inductive Spill where
  | noFrame          -- no frame available: fifths stays at 5
  | lostFifth        -- a frame was available: its fifth is lost
  deriving DecidableEq, Repr

/-- One operand file of a lane slot during a tick (R127): the step in progress and what it has produced. -/
structure LaneWork where
  sample : Nat               -- samples of the run written back
  step : Nat                 -- next step of the loop
  outs : List (List F16)     -- outputs of the steps of this sample
  inFlight : Bool
  saturated : List Nat       -- state areas with a saturated write since the last check (R148)
  deriving DecidableEq, Repr

/-- What the tick does for a stream, and what its engines have produced so far. -/
structure TickWork where
  advance : Bool             -- the Frame Engine advances it (R15, R85)
  begins : Bool              -- its utterance begins in this tick (R278)
  row : Nat                  -- its row among the streams that the Frame Engine advances (R80)
  trunkRank : Nat            -- rank of its trunk version among those of the tick (R94)
  expertRank : Nat           -- rank of its expert among the distinct experts of the tick (R92)
  switched : Nat             -- parts whose new version this tick's frame is the first to use: 1 trunk, 2 expert, 3 both (R287, R451)
  run : Bool                 -- it has an output run
  spill : Option Spill       -- its run is a spillway run
  ringLate : Bool            -- RING_LATE was decided
  chunk : Option (Nat × Nat) -- chunk admitted: first position and length (R84)
  chunkRank : Nat            -- rank of the trunk version that runs its chunk (R94, R286)
  chunkRow : Nat             -- row of the chunk's first frame among the chunks admitted (R80, stage 1)
  chunkOuts : List (Nat × List F16)  -- its outputs so far
  chunkRecs : List Nat       -- feature recurrences written
  layers : Table Bytes       -- CSU layer output polders of the run, planar (R107)
  cover : Table (List (Nat × Nat))  -- per tick-program step, the positions its passes have done: first and count
  scanOuts : Table Bytes     -- sample-rate recurrence outputs of the run, planar
  lane : LaneWork
  samples : List F32         -- head samples of the run (sample polder)
  copied : Bool              -- the planned eviction copy has completed (R373)
  cancelled : Bool           -- a STOP has cancelled its planned eviction in this tick (R374)
  drift : Option (Nat × Nat) -- lowest tripping recurrence and trips (R149)
  checks : List Nat          -- frame recurrences whose new state has been checked (R147)
  ssm : Table (List F32)     -- their new states in FP32, which stage 7 writes to the shadow (R80)
  deriving DecidableEq, Repr

/-- A stream context (R276). -/
structure Stream where
  life : Life               -- state (R276, R432)
  incarnation : BitVec 15   -- incarnation of the handle (R264)
  owner : W16               -- owner (R425)
  home : Nat                -- home queue pair (R255)
  phase : Nat               -- phase group 0 to 4 (R18)
  ident : W64               -- logical stream identifier (R35)
  seed : W64                -- generator seed (R140)
  rate : Nat                -- rate code (R140)
  fmt : Nat                 -- output format (R294)
  fade : Bool               -- fill by fade (R180)
  immediate : Bool          -- immediate weight switch (R287)
  ringAddr : W64            -- position record address, 0 = no ring (R266)
  evictAddr : W64           -- eviction buffer address, 0 = none (R266)
  route : Option (Nat × Nat)  -- port routing (R267)
  refA : RefBind            -- reference A (R172)
  refB : RefBind            -- reference B (R172)
  arithSat : Bool           -- sticky arith_sat (R48)
  arithNonfinite : Bool     -- sticky arith_nonfinite (R57)
  stateDrift : Bool         -- sticky state_drift (R149)
  stateLost : Bool          -- sticky state_lost (R227)
  locked : Bool             -- state lock held (R282)
  advised : Bool            -- MIGRATE_ADVISED posted (R432)
  adviceClass : Nat         -- fault class of its last MIGRATE_ADVISED (R272)
  adviseAgain : Bool        -- it is advised again at the next commit (R374)
  gated : Bool              -- output gate closed (R281, R310)
  gatedCount : Nat          -- samples the gate kept from playing (R310)
  plan : Option W64         -- tick T + 1 of the planned eviction (R373)
  group : Option Nat        -- group (R183)
  lane : Option LaneSlot    -- lane slot (R136)
  firstOut : W64            -- first tick in which it may have an output run (R136, R453)
  selected : Option Nat     -- catalogue index selected for the next utterance (R91)
  pinnedSel : Option (Nat × Nat)  -- reference counted by that selection: index and slot (R223)
  bound : Option Bound      -- versions bound to the utterance (R286)
  toTrunk : Option Nat     -- a trunk switch waits (R287)
  toExpert : Option (Nat × Nat)  -- an expert switch waits: index and slot (R287)
  delivered : W64           -- index after the last delivered sample (R271)
  bank : Bank               -- committed state bank (R143)
  wbank : Bank              -- written state bank (R143)
  work : TickWork           -- the tick's work
  area : FeatArea           -- feature area (R212)
  history : CondHistory     -- conditioning history (R155)
  ring : OutRing            -- output ring (R292)
  queued : List WaitFeed    -- FEEDs queued for room (R214, R458)
  held : List WaitFeed      -- FEEDs held by the state lock (R282)
  audio : List WaitAudio    -- AUDIO_INs in effect (R173)
  window : Option (List F16) × Option (List F16) -- the capture window committed last (R165, R169)
  voiceNext : Option (BitVec 24)  -- voice bound for the next utterance (R88, R277)
  heldRec : Option StateRecord  -- the record written by the export that took the lock (R277, R283)
  refLate : Option W64      -- REFERENCE_LATE is due: sample index at the start of the window (R173, R177)
  ready : List (Nat × W64)  -- ready feature chunks: first position, and the boundary at which each became ready (R84)
  windowKind : BitVec 2 × BitVec 2  -- source kinds of that window (R170)
  importSeq : Option (Nat × Nat × W32) -- an IMPORT not yet completed: sequence, queue, tag (R271)
  rebuilding : Bool         -- a rebuild runs (R151, R153)
  deriving DecidableEq, Repr

/-- An aligned group (R182). -/
structure Group where
  hold : Bool
  members : List Nat
  owner : W16
  deriving DecidableEq, Repr

/-! ### Catalogue (R215 to R225) -/

/-- State of a version slot (R222); DAMAGED is the flag of the slot beside the state it remembers. -/
inductive VState where
  | free | staging | staged | current | retiring
  deriving DecidableEq, Repr

/-- A version slot (R217, R222). -/
structure VSlot where
  state : VState          -- state, or the state a DAMAGED version remembers (R222, R456)
  damaged : Bool          -- DAMAGED (R222)
  hash : Hash             -- version hash (R217)
  length : Nat            -- payload length (R217)
  refs : Nat              -- reference count (R223)
  epoch : W64             -- epoch of commit, or 0 (R217)
  resident : Bool         -- near copy exists (R217)
  usable : Bool           -- the near copy is usable from this tick (R89)
  nearSlot : Option Nat   -- near trunk slot (R224)
  lastUse : Int           -- epoch of its last use, counted from the present start (R91)
  key : List F16          -- key that came with the version (R221)
  restoring : Bool        -- a restore writes fresh granules (R456)
  granules : List Nat     -- granules of the weight store that hold its payload, in order (R209, R217)
  mapAddr : W64           -- far address of its granule map (R217); open: a free value (log 88)
  nearGranules : List Nat -- granules of the expert cache that hold its near copy (R212)
  blocks : List (Nat × Nat) -- cluster and bytes of each block of its payload, from the manifest entry it was staged under (R212)
  nearMap : W64           -- near address of the near granule map, 0 when not resident (R217); open: a free value (log 88)
  deriving DecidableEq, Repr

/-- A variant record of the directory (R216). -/
structure Variant where
  present : Bool
  current : Nat
  key : List F16
  slot0 : VSlot
  slot1 : VSlot
  deriving DecidableEq, Repr

/-- A WEIGHT_STAGE in progress (R224, R456). -/
structure Staging where
  seq : Nat
  q : Nat
  tag : W32
  trunk : Bool
  idx : Nat
  slot : Nat
  entry : Nat
  hash : Hash
  length : Nat
  key : List F16
  restore : Bool
  copying : Bool          -- the trunk copy of step 4 waits or runs
  fed : List Byte         -- payload bytes that Pumps have fed to the staging hash (R220, R224)
  granules : List Nat     -- the granules that take the payload (R224)
  verified : Bool         -- a restore whose hash has verified: it takes effect at the commit (R456)
  deriving DecidableEq, Repr

/-- A page-in request (R89, R219). -/
structure PageIn where
  idx : Nat
  slot : Nat
  admitted : Bool
  deriving DecidableEq, Repr

/-- The catalogue, the near copies and the page-ins. -/
structure Catalogue where
  trunk0 : VSlot          -- trunk table, version slot 0 (R216, file 08); reset FREE
  trunk1 : VSlot          -- trunk table, version slot 1 (R216, file 08); reset FREE
  trunk2 : VSlot          -- trunk table, version slot 2 (R216, file 08); reset FREE
  voices : Table Variant  -- directory, by catalogue index (R215, R216, file 08); reset no voice
  pageIns : List PageIn   -- page-ins requested, in decode order (R89, R219, file 08); reset empty
  pagesTick : Nat         -- page-ins admitted in the tick, at most 24 (R89, file 03); reset 0
  staging : List Staging  -- WEIGHT_STAGEs in progress (R224, file 08); reset empty
  switches : List (Bool × Nat × Nat)  -- commits served while stopped, due at the next start: trunk, index, slot (R225, file 08); reset empty
  deriving DecidableEq, Repr

/-! ### Memories -/

/-- ECC counters (R229, R429). -/
structure EccStat where
  nearCorr : Table W32   -- 8 × 32 bits; near_corr (R429, file 16); reset 0
  nearUnc : Table W32    -- 8 × 32 bits; near_unc (R429, file 16); reset 0
  farCorr : Table W32    -- 48 × 32 bits; far_corr (R429, file 16); reset 0
  farUnc : Table W32     -- 48 × 32 bits; far_unc (R429, file 16); reset 0
  refetch : W32          -- 32 bits; refetch (R429, file 16); reset 0
  lastSpace : BitVec 3   -- 3 bits; last_space (R429, file 16); reset 0
  lastAddr : W64         -- 64 bits; last_addr (R429, file 16); reset 0
  sramCorr : W32         -- 32 bits; sram_corr (R429, file 16); reset 0
  sramDbl : W32          -- 32 bits; sram_dbl (R429, file 16); reset 0
  deriving DecidableEq, Repr

/-- The memories, their controller and MEM_CFG. -/
structure MemState where
  near : Memory          -- 128 GiB of bytes; near memory (R203, R207, file 08); reset nothing listed
  far : Memory           -- far capacity of bytes; far memory (R203, R207, file 08); reset nothing listed
  tile : Memory          -- 320 MiB of bytes; tile SRAM, tile t at t × 0x28_0000 (R72, R207, files 03, 08); reset nothing listed
  se : Memory            -- 64 MiB of bytes; SE SRAM (R207, file 08); reset nothing listed
  ctl : Memory           -- 16 MiB of bytes; control SRAM (R207, file 08); reset nothing listed
  nearSelf : Bool        -- 1 bit; near memory is in self-refresh (R230, R333, files 08, 12); reset false
  farSelf : Bool         -- 1 bit; far memory is in self-refresh (R205, R230, file 08); reset false
  trained : Bool         -- 1 bit; far memory is initialised and trained (R206, file 08); reset false
  trainFail : Option (Nat × Nat)  -- channel and step of a training failure (R206, file 08); reset none
  polled : W16           -- 16 bits; hottest DRAM temperature as last polled (R205, R345 channel 0x48, files 08, 13); reset DESIGN CHOICE 0 (log 3)
  multiplier : Nat       -- refresh multiplier followed (R205, file 08); reset DESIGN CHOICE 1 (log 3)
  allBank : Table Nat    -- all-bank refreshes issued, by channel (R205, file 08); reset 0
  retrained : Nat        -- data re-trainings at exits from self-refresh (R205, file 08); reset 0
  refreshes : Table Nat  -- per-bank refreshes issued, by channel × 64 + bank (R205, file 08); reset 0
  zq : Nat               -- ZQ calibrations performed (R205, file 08); reset 0
  rfm : Table Nat        -- refresh management commands issued, by channel (R205, file 08); reset 0
  imageSize : BitVec 5   -- 5 bits; MEM_CFG.image_size (R426, file 16); reset 4
  voiceMax : BitVec 21   -- 21 bits; MEM_CFG.voice_max (R426, file 16); reset 0x8000
  loadAddr : W64         -- 64 bits; MEM_CFG.load_addr (R426, file 16); reset 0
  loadLen : BitVec 40    -- 40 bits; MEM_CFG.load_len (R426, file 16); reset 0
  loadDone : Bool        -- 1 bit; MEM_CFG.load_done (R426, file 16); reset 0
  loadErr : Bool         -- 1 bit; MEM_CFG.load_err (R426, file 16); reset 0
  loadBusy : Bool        -- 1 bit; MEM_CFG.load_busy (R426, file 16); reset 0
  region : Option ImageFile  -- the image region (R209, R210, file 08); reset none
  regionBad : Bool       -- 1 bit; the image region holds an uncorrectable line (R227, file 08); reset false
  wsRetry : List (BitVec 256)  -- Pump operations whose working-space read has failed once (R227, file 08); reset empty
  ecc : EccStat          -- ECC_STAT (R229, R429, files 08, 16)
  deriving DecidableEq, Repr

/-! ### Engines -/

/-- A pass that has begun and waits for a scale or an accumulator (R50, R71): the tile that runs it, step, excess of scales,
errors, verdict. -/
structure WaitPass where
  runner : Nat
  step : Nat
  slip : Int
  errs : List SumError
  chk : PassCheck
  deriving DecidableEq, Repr

/-- Tensor Tile state (R67, R71, R51, R72) beside its addressed SRAM. -/
structure Tile where
  front : List Byte      -- front weight plane: the block that the array computes with (R67, R68)
  back : List Byte       -- back weight plane, which the next block is loaded into (R67, R68)
  loaded : Option Nat    -- the step whose block the front plane holds, loaded while the pass before it ran (R68)
  outs : Table (List (List F32))  -- accumulators that a pass hands on, by step: per row, per column (R55)
  accs : Table (List (List F32))  -- accumulators handed over by the tile below, by step (R55, R71)
  scales : Nat           -- scale entries of the scale lock's chamber in use (R49, R50)
  idle : Nat             -- scale entries that have arrived in its idle chamber (R49, R73)
  due : Nat              -- entries of that fill that have not arrived (R49, R50)
  lead : Nat             -- entries that the stream may bring before more weights: 8 groups ahead of them (R49)
  shelf : Nat            -- scale entries that the idle chamber held when it was in use (R163)
  used : Int             -- scales consumed since the layer began (R51)
  summed : Nat           -- groups summed since the layer began (R51)
  waits : Option WaitPass  -- the pass that waits (R50, R71)
  records : Nat          -- residue and fault records of the tick in its control mailbox (R72)
  deriving DecidableEq, Repr

/-- A finished berm: the unit that it goes to, its tag, its stream's context and its samples (R119). -/
structure Berm where
  goes : Nat
  tag : BitVec 32
  ctx : Nat
  samples : List (List F16)
  deriving DecidableEq, Repr

/-- Conv-Scan Unit state (R119): the berm buffer's flag and the waits. -/
structure CsuUnit where
  flag : Option (BitVec 32)  -- ready flag: tag of epoch mod 2^16 and step
  waiting : Option (BitVec 32)  -- tag the consumer waits for
  reading : Bool         -- a consumer pass reads the berm
  released : Bool        -- the producer may write the next berm
  berm : List (List F16) -- berm samples per channel, oldest first
  ctx : Nat              -- context of the stream whose berm it is (R114)
  held : Option Berm     -- a finished berm that waits for the consumer's release (R119)
  deriving DecidableEq, Repr

/-- Sample Lane state (R134). -/
structure LaneUnit where
  lastSlot : Nat         -- slot that issued last
  flight : List (Nat × Nat)  -- contexts and steps in the pipeline, oldest first
  slots : Nat            -- issue slots offered since the boundary
  reissues : Nat         -- reissues of the tick (R133)
  lo : Option Nat        -- context whose S16C step presents its lo columns in the next slot (R132)
  deriving DecidableEq, Repr

/-- A faulted replay unit (R163): the unit that failed, the replay unit, consecutive failures, and the context it
serves. -/
structure Replay where
  who : UnitId
  unit : Nat
  fails : Nat
  ctx : Option Nat
  running : Bool
  refetch : Bool         -- waits for a granule refetch (R227)
  owner : Option (Bool × Nat × Nat)  -- the version that the refetched granule belongs to: trunk, index, slot
  deriving DecidableEq, Repr

/-- Fault record of a unit (R365, R366). -/
structure FaultHist where
  who : UnitId
  ticks : List Int       -- ticks with compute faults, newest first, counted from the present start (R366)
  count : Nat            -- transient faults in this tick
  tries : Nat            -- replay attempts of those faults
  sram : List (W64 × Int)  -- addresses of double-bit errors, each with the tick of the first
  unit : Nat             -- replay unit of the last transient fault of this tick
  deriving DecidableEq, Repr

/-- The engines. -/
structure Engines where
  tiles : Table Tile       -- 128 tiles (R67, file 03); reset idle
  csus : Table CsuUnit     -- 32 Conv-Scan Units (R102, R119, file 04); reset flags clear
  lanes : Table LaneUnit   -- 24 Sample Lanes (R125, R134, file 05); reset idle
  locks : Table Nat        -- swaps made since the boundary, by lock; chamber B while odd (R73, R166, file 06); reset 0
  filled : Table Bool      -- the idle chamber of the lock is filled (R73, file 03); reset false
  swapWait : List Nat      -- locks whose swap waits for the fill (R73, file 03); reset empty
  steps : List Nat         -- Frame Engine steps of the tick program that have passed their checks (R80, R163, file 03); reset empty
  leaving : List (Nat × Nat)  -- lane slots being emptied, free from the next boundary (R135, R137, file 05); reset empty
  replays : List Replay    -- faulted replay units in order of detection (R163, file 06); reset empty
  fenced : List UnitId     -- fenced units (R366, file 14); reset empty
  fenceNew : List (UnitId × Nat)  -- units fenced since the last commit, with the case of R366 (R371, file 14); reset empty
  fenceDue : List (UnitId × Nat)  -- units to fence at the next boundary (R366, file 14); reset empty
  hist : List FaultHist    -- compute-fault history (R366, file 14); reset empty
  dirLost : Bool           -- 1 bit; directory lost (R227, class 0x08, file 08); reset false
  deriving DecidableEq, Repr

/-! ### Audio ports -/

/-- The state field of APORT_STAT (R303). -/
inductive PortState where
  | off | running | muted | faultDisabled
  deriving DecidableEq, Repr

/-- Serial audio port p (R296, R300 to R303). -/
structure Port where
  ctl : W32              -- 32 bits; APORT_CTL as written (R300, file 11); reset 0x20
  ctlNow : W32           -- 32 bits; APORT_CTL in force (R300, R14, file 11); reset 0x20
  fmt : W32              -- 32 bits; APORT_FMT as written (R301, file 11); reset 2
  fmtNow : W32           -- 32 bits; APORT_FMT in force (R301, file 11); reset 2
  mask : W32             -- 32 bits; APORT_SLOTMASK as written (R302, file 11); reset 3
  maskNow : W32          -- 32 bits; APORT_SLOTMASK in force (R302, file 11); reset 3
  state : PortState      -- 2 bits; APORT_STAT.state (R303, file 11); reset off
  locked : Bool          -- 1 bit; APORT_STAT.locked (R303, file 11); reset 0
  nonaudio : Bool        -- 1 bit; APORT_STAT.nonaudio (R303, R313, file 11); reset 0
  cause : BitVec 9       -- 9 bits; APORT_STAT.cause (R303, R319, file 11); reset 0
  drift : W16            -- 16 bits; APORT_STAT.drift (R303, file 11); reset 0
  guarded : W16          -- 16 bits; APORT_STAT.guarded (R303, R311, file 11); reset 0
  frames : List (Int × Int)  -- captured frames of the window (R306, R308, file 11); reset empty
  windowBad : Bool       -- 1 bit; the window holds a muted frame or a frame before the start (R306, R316, file 11); reset true
  audioWord : Option W16 -- 16 bits; upper half of the last word seen by the detector (R313, file 11); reset none
  holdLeft : Nat         -- frames until a non-audio hold ends (R313, file 11); reset 0
  fifo : List (Nat × Nat × List F32) -- the run that plays: context, slot and final samples, formed into words at play (R165, R309, file 11); reset empty
  fifoNext : List (Nat × Nat × List F32) -- the run committed last, which plays from the next boundary (R165, R305, file 11); reset empty
  frameNo : Nat          -- frame j of the run that plays (R305, file 11); reset 0
  outQueue : List (Nat × Int)  -- words past the gate: slot and word, at most 4 (R310, file 11); reset empty
  lastOut : W16          -- 16 bits; upper half of the last word sent (R311, file 11); reset 0
  word : Int             -- slot 1's word of the last frame sent on APp_SD (R298, R309, file 11); reset 0
  word0 : Int            -- slot 0's word of the last frame sent (R298, file 11); reset 0
  prevWord : Int         -- slot 1's word of the frame before it (R298, file 11); reset 0
  periods : List Nat     -- recent frame periods, newest first, ACLK (R314, R315, file 11); reset empty
  tracked : Nat          -- tracked period, 0 before lock (R315, file 11); reset 0
  stable : Nat           -- consecutive stable frames (R316, file 11); reset 0
  ratioBad : Nat         -- consecutive frames with a wrong bit-clock count (R315, file 11); reset 0
  edges : Nat × Nat × Nat  -- WS edges, BCLK edges and ACLK counted in the current span of 8 nominal frame periods (R315, file 11); reset 0, 0, 0
  swap : Bool            -- 1 bit; the last such span had more WS than BCLK edges (R315, file 11); reset false
  clockless : Bool       -- 1 bit; no frame has come since the clock was found stopped (R315, file 11); reset false
  ramp : Nat             -- pin frames of the output ramp left after lock (R316, file 11); reset 0
  newCauses : List Nat   -- causes of the tick, to post at commit (R320, file 11); reset empty
  recover : Bool         -- 1 bit; RECOVERED is due at the first normal commit (R320, file 11); reset false
  draining : Bool        -- 1 bit; plays out its FIFO after a link loss, then mutes (R253, file 09); reset false
  openLine : Bool        -- 1 bit; the data line reads open (R318, file 11); reset false
  openClear : Nat        -- frames in which the data line has not followed the bias (R318, file 11); reset 0
  openClock : Bool       -- 1 bit; a clock line reads open (R318, file 11); reset false
  clockClear : Nat       -- frames in which the clock line has not followed the bias (R318, file 11); reset 0
  deriving DecidableEq, Repr

/-! ### Warden -/

/-- A Warden channel (R345, R348, R353). -/
structure Channel where
  raw : Int              -- last raw code
  filtered : Int         -- filtered value
  y : Int                -- low-pass state, 8 fractional bits
  win : List Int         -- last codes, newest first
  sampled : Bool         -- sampled since it was enabled
  fault : Bool           -- sensor faulted (R362)
  bad : Nat              -- consecutive scans out of range (R362)
  good : Nat             -- consecutive scans in range (R362)
  deriving DecidableEq, Repr

/-- A rule's persistence counts (R352). -/
structure RuleRun where
  tripped : Bool
  count : Nat
  off : Bool             -- disabled by a faulted coolant channel (R362)
  held : Bool            -- tripped while the engines were off: its action waits for the first scan after READY (R363)
  deriving DecidableEq, Repr

/-- The Warden (R345 to R363). -/
structure Warden where
  on : Bool              -- 1 bit; the Warden runs (R347, R388, files 13, 15); reset false
  scans : W32            -- 32 bits; WARDEN_STAT scans (R353, file 13); reset 0
  policy : Table W32     -- 416 words; WARDEN_POLICY as written, by block offset ÷ 4 (R349, file 13); reset cfg (0 before phase W)
  policyNow : Table W32  -- 416 words; WARDEN_POLICY in force (R349, file 13); reset cfg (0 before phase W)
  policyEpoch : W64      -- 64 bits; policy_epoch (R430, file 16); reset 0
  chans : Table Channel  -- 160 channels (R345, R353, file 13); reset 0, not sampled
  rules : Table RuleRun  -- 64 rules' run state (R352, file 13); reset clear
  m : Table Nat          -- 8 × 5 bits; m of cluster c (R323, R353, files 12, 13); reset 16
  hwTrip : Bool          -- 1 bit; hw_trip (R353, R357, file 13); reset 0
  safe : Bool            -- 1 bit; the Warden holds DEV_STATE in SAFE (R353, file 13); reset 0
  safeClear : Nat        -- scans with every cause of SAFE clear (R358, file 13); reset 0
  stuckSafe : Bool       -- 1 bit; SAFE left only through PERST# or power loss (R370, R376, file 14); reset 0
  hold : Bool            -- 1 bit; an admission hold has arisen (R354, R353, file 13); reset 0
  reversed : Bool        -- 1 bit; reversed (R353, R361, file 13); reset 0
  inputLow : Bool        -- 1 bit; input_low (R353, R361, file 13); reset 0
  lowScans : Nat         -- consecutive scans with filtered input below 38.00 V (R361, file 13); reset 0
  lowSafe : Bool         -- 1 bit; the input undervoltage holds SAFE (R361, file 13); reset 0
  wake : Bool            -- 1 bit; WAKE_N asserted (R353, R363, file 13); reset 0
  overCap : Bool         -- 1 bit; PWR_STAT.over_cap (R344, file 12); reset 0
  capOver : Nat          -- consecutive scans above the cap with every cluster at the floor (R359, file 13); reset 0
  capUnder : Nat         -- consecutive scans 20 W or more under the cap (R359, file 13); reset 0
  capActive : Bool       -- 1 bit; the power-cap loop acts (R359, file 13); reset 0
  capHold : Bool         -- 1 bit; the loop holds admission (R359, file 13); reset 0
  inletFault : Bool      -- 1 bit; inlet_fault (R353, R362, file 13); reset 0
  outletFault : Bool     -- 1 bit; outlet_fault (R353, R362, file 13); reset 0
  coolPending : Bool     -- 1 bit; the cap and thresholds change at the next boundary (R362, file 13); reset 0
  refEvents : W16        -- 16 bits; detector events since the previous scan (R345, channel 0x7C, file 13); reset 0
  deriving DecidableEq, Repr

/-! ### Error log and snapshot -/

/-- An ERR_LOG entry (R382). -/
structure LogEntry where
  seq : W64
  epoch : W64
  kind : W16
  severity : BitVec 8
  cls : BitVec 8
  unit : W32
  merged : W32
  d0 : W64
  d1 : W64
  d2 : W64
  d3 : W64
  deriving DecidableEq, Repr

/-- ERR_LOG (R381). -/
structure ErrLog where
  writeSlot : BitVec 14  -- 14 bits; write_slot (R381, file 14); reset 1
  overwritten : W32      -- 32 bits; overwritten (R381, file 14); reset 0
  newest : W64           -- 64 bits; newest_seq (R381, file 14); reset 0
  slots : Table LogEntry -- 16,383 entry slots of 64 B (R381, R382, file 14); reset empty
  pending : List LogEntry  -- entries of the tick, written at commit (R381, file 14); reset empty
  deriving DecidableEq, Repr

/-- A stream summary entry of the snapshot (R432). -/
structure Summary where
  handle : W32
  state : BitVec 8
  phase : BitVec 8
  flags : BitVec 8
  sample : W64
  frame : W32
  home : BitVec 8
  group : BitVec 8
  fifths : BitVec 8
  deriving DecidableEq, Repr

/-- The port words of the snapshot (R430). -/
structure SnapPort where
  ctl : W32
  fmt : W32
  mask : W32
  state : BitVec 8
  deriving DecidableEq, Repr

/-- The counters of R431. -/
structure Counters where
  saturated : W64        -- 64 bits; saturated activation groups (R431, R48, file 16); reset 0
  audioLate : W64        -- 64 bits; AUDIO_IN samples late (R431, file 16); reset 0
  exhausted : W64        -- 64 bits; ticks with REPLAY_EXHAUSTED (R431, file 16); reset 0
  transient : W64        -- 64 bits; transient compute faults (R431, file 16); reset 0
  syncMissing : W64      -- 64 bits; TICKSYNC ticks with no edge (R431, file 16); reset 0
  rephases : W64         -- 64 bits; TICKSYNC re-phases (R431, file 16); reset 0
  bar2Dropped : W64      -- 64 bits; BAR2 writes dropped since PERST# (R431, file 16); reset 0
  misses : W64           -- 64 bits; DEADLINE_MISS events posted (R431, file 16); reset 0
  dropped : W64          -- 64 bits; event records dropped (R431, file 16); reset 0
  selftests : W64        -- 64 bits; self-tests passed since PERST# (R431, file 16); reset 0
  deriving DecidableEq, Repr

/-- SNAP_PAGE as last published (R430). -/
structure Snapshot where
  epoch : W64            -- 64 bits; SNAP_EPOCH (R430, file 16); reset all ones
  pubCount : W64         -- 64 bits; pub_count (R430, file 16); reset 0
  gap : Bool             -- 1 bit; gap (R430, file 16); reset 0
  gapCount : W32         -- 32 bits; gap_count (R430, file 16); reset 0
  devState : W64         -- 64 bits; dev_state (R430, file 16); reset 0
  streamLimit : BitVec 11  -- 11 bits; stream_limit (R430, file 16); reset 0
  overCap : Bool         -- 1 bit; over_cap (R430, file 16); reset 0
  pwrCap : BitVec 2      -- 2 bits; pwr_cap (R430, file 16); reset 0
  ticksync : W32         -- 32 bits; ticksync (R430, file 16); reset 0
  policyEpoch : W64      -- 64 bits; policy_epoch (R430, file 16); reset 0
  ports : Table SnapPort -- 16 × 16 B; port p (R430, file 16); reset 0
  waitSpace : W64        -- 64 bits; page-ins waiting for space (R431, file 16); reset 0
  counters : Counters    -- R431 (file 16); reset 0
  ecc : EccStat          -- copy of ECC_STAT (R429, R430, file 16); reset 0
  streams : Table Summary  -- 1,024 × 32 B; stream k (R432, file 16); reset 0
  deriving DecidableEq, Repr

/-! ### FMEAS, TICKSYNC, caps -/

/-- The frequency-measuring counter (R328 to R331). -/
structure Fmeas where
  ctl : W32              -- 32 bits; FMEAS_CTL (R329, file 12); reset 0x0018_0000
  count : BitVec 40      -- 40 bits; FMEAS_COUNT.count (R330, file 12); reset 0
  done : Bool            -- 1 bit; done (R330, file 12); reset 0
  aborted : Bool         -- 1 bit; aborted (R330, file 12); reset 0
  overflow : Bool        -- 1 bit; overflow (R330, file 12); reset 0
  armed : Bool           -- 1 bit; a start waits for its gate edge (R331, file 12); reset false
  gate : Bool            -- 1 bit; the gate is open (R331, file 12); reset false
  deriving DecidableEq, Repr

/-- TICKSYNC (R186 to R188, R420). -/
structure Ticksync where
  ctl : W32              -- 32 bits; role and delay as written (R420, file 16); reset 0
  ctlNow : W32           -- 32 bits; role and delay in force (R420, R14, file 16); reset 0
  sync : BitVec 2        -- 2 bits; sync (R420, file 16); reset 0
  missing : Bool         -- 1 bit; tsync_missing (R420, file 16); reset 0
  slip : Bool            -- 1 bit; tsync_slip (R420, file 16); reset 0
  e : W16                -- 16 bits; e (R420, file 16); reset 0
  slips : List Int       -- e of the consecutive slipped ticks, newest first (R188, file 06); reset empty
  rephase : Int          -- ACLK by which this tick's boundary moves (R188, file 06); reset 0
  own : Bool             -- 1 bit; the follower took this tick's boundary without an edge, and measures none in it (R335, file 12); reset false
  deriving DecidableEq, Repr

/-! ### Flash, boot and attestation -/

/-- A flash slot pair of one kind and its update state (R384, R390, R405). -/
structure FwSlot where
  a : List Byte          -- slot A: header and payload (R384, file 15); reset DESIGN CHOICE empty (log 4)
  b : List Byte          -- slot B (R384, file 15); reset DESIGN CHOICE empty (log 4)
  activeB : Bool         -- 1 bit; FW_SLOT_STAT active, from the boot record (R390, R405, file 15); reset boot (A)
  aValid : Bool          -- 1 bit; a_valid (R405, file 15); reset boot (0)
  bValid : Bool          -- 1 bit; b_valid (R405, file 15); reset boot (0)
  fallback : Bool        -- 1 bit; fallback (R405, file 15); reset boot (0)
  staged : Bool          -- 1 bit; staged (R405, file 15); reset boot (0)
  trial : Bool           -- 1 bit; trial (R405, R396, file 15); reset boot (0)
  trialTicks : Nat       -- committed ticks of the trial (R396, file 15); reset 0
  update : BitVec 3      -- 3 bits; update_state (R405, file 15); reset 0
  err : BitVec 8         -- 8 bits; last_error (R405, file 15); reset 0
  floor : W32            -- 32 bits; sv_floor, replay-protected (R387, R405, file 15); reset boot (DESIGN CHOICE 0, log 4)
  runs : Option (List Byte)  -- the object in use (R388, R389, file 15); reset none
  deriving DecidableEq, Repr

/-- An entry of the measurement log (R401). -/
structure MeasEntry where
  seq : W64
  reg : Nat
  kind : BitVec 8
  version : W32
  value : Hash
  epoch : W64
  deriving DecidableEq, Repr

/-- A captured attestation report (R404), before its signature. -/
structure Report where
  nonce : Hash
  epoch : W64
  devState : W32
  hwRev : BitVec 8
  serial : BitVec 128
  meas : List Hash
  logCount : BitVec 10
  overflow : Bool
  versions : List W32
  imageHash : Hash
  deriving DecidableEq, Repr

/-- A copy of the boot record, in the replay-protected area: for each kind the active slot and the trial flag (R390). Of its
MAC the model holds whether it is valid (DESIGN CHOICE, log 128). -/
structure FwRecord where
  counter : Nat          -- write counter (R390, file 15); reset DESIGN CHOICE 0 (log 4)
  active : List Bool     -- 4 × 1 bit; slot B is the active one, by kind (R390, file 15); reset DESIGN CHOICE slot A (log 4)
  trial : List Bool      -- 4 × 1 bit; trial flag, by kind (R390, R396, file 15); reset DESIGN CHOICE none (log 4)
  sound : Bool           -- 1 bit; the MAC is valid (R390, file 15); reset DESIGN CHOICE true (log 4)
  deriving DecidableEq, Repr

/-- Flash, boot, measurement and attestation. -/
structure Security where
  fw : Table FwSlot       -- four kinds, by kind number minus 1 (R384, file 15)
  window : Memory         -- 16 MiB; staging window (R395, file 15); reset DESIGN CHOICE nothing listed (log 2)
  revoked : BitVec 4      -- 4 bits; revoked key indices, permanent (R392, file 15); reset DESIGN CHOICE 0 (log 4)
  listed : Bool           -- 1 bit; COMPAT_VEC.listed (R406, file 15); reset boot (0)
  abi : W64               -- 64 bits; COMPAT_VEC.abi_majors (R406, file 15); reset boot (0)
  live : Option (Nat × W64)  -- a switch pending: kind and boundary (R397, file 15); reset none
  pendingKind : Option Nat   -- kind of the STAGE in progress (R395, file 15); reset none
  pendingObj : List Byte  -- the object that STAGE verified (R395, file 15); reset empty
  meas : Table Hash       -- 8 × 512 bits; M0 to M7 (R400, file 15); reset 0
  mlog : List MeasEntry   -- measurement log, at most 512 entries (R401, file 15); reset empty
  mseq : W64              -- 64 bits; sequence number of the last extension (R401, file 15); reset 0
  mover : Bool            -- 1 bit; log_overflow (R401, R403, file 15); reset 0
  boots : Nat             -- runs of phase M so far (R389, file 15); reset 0
  keyOk : Bool            -- 1 bit; the identity key is unsealed (R399, file 15); reset false
  root : Option (BitVec 256)  -- root secret in the security block, erased at PERST# (R399, file 15); reset none
  recA : FwRecord         -- first copy of the boot record (R390, file 15)
  recB : FwRecord         -- second copy of the boot record (R390, file 15)
  ctlHigh : Bool          -- 1 bit; the running Sequencer lies in the upper half of control SRAM (R397, file 15); reset false
  fwLength : W32          -- 32 bits; FW_SLOT_STAT word 8, length (R405, R408, file 15); reset 0
  nonce : Hash            -- 512 bits; ATTEST_WIN nonce (R402, file 15); reset DESIGN CHOICE 0 (log 3)
  busy : Bool             -- 1 bit; busy (R403, file 15); reset 0
  done : Bool             -- 1 bit; done (R403, file 15); reset 0
  error : BitVec 3        -- 3 bits; error (R403, file 15); reset 0
  capture : Option Report -- fields captured at go (R403, file 15); reset none
  report : List Byte      -- 900 B; last report (R404, file 15); reset DESIGN CHOICE empty, reads 0 (log 3)
  wHashes : List (Nat × W32 × Hash)  -- kept by W5: kind minus 1, version and hash of table, blob and Warden (R388, file 15); reset empty
  wFailed : Bool          -- 1 bit; phase W did not start the Warden (R388, file 15); reset false
  deriving DecidableEq, Repr

/-! ### The whole block -/

/-- Everything the block holds but the queue of waiting commands. -/
structure Hw where
  pwr : Power              -- supplies, resets, clocks
  ex : Exec                -- device state and executive
  latches : List (Nat × LatchItem)  -- latched writes and the boundaries each still waits (R14, file 01); reset empty
  pwrCap : W32             -- 32 bits; PWR_CAP as written (R343, file 12); reset 0
  pwrCapNow : W32          -- 32 bits; PWR_CAP in force (R343, R14, file 12); reset 0
  qs : Table QueuePair     -- 256 queue pairs (R255, R423, files 10, 16)
  msix : Table MsixEntry   -- 512 MSI-X entries (R241, file 09)
  link : LinkState         -- link, transfer mode, SMBus
  rings : Rings            -- descriptors and records in progress
  streams : Table (Option Stream)  -- 1,024 contexts (R276, R413, file 10); reset none allocated
  incs : Table (BitVec 15) -- 1,024 × 15 bits; incarnation of each context (R264, file 10); reset DESIGN CHOICE 0 (log 3)
  groups : Table (Option Group)    -- 64 aligned groups (R182, R457, file 06); reset none
  cat : Catalogue          -- catalogue and near copies
  mem : MemState           -- memories and MEM_CFG
  eng : Engines            -- engines
  ports : Table Port       -- 16 ports (R296, file 11)
  war : Warden             -- the Warden
  log : ErrLog             -- ERR_LOG
  snap : Snapshot          -- SNAP_PAGE
  cnt : Counters           -- live counters of R431
  fm : Fmeas               -- FMEAS
  ts : Ticksync            -- TICKSYNC
  sec : Security           -- flash, boot, attestation
  free : Nat               -- the model's own counter of free values; reset DESIGN CHOICE 0 (log 5)
  picks : List Nat         -- the model's own choices among free contexts and slots, next first; reset DESIGN CHOICE empty (log 59)
  deriving DecidableEq, Repr

/-- The state of the model: the queue of waiting commands, first in, first out, and the block. -/
structure State where
  pending : List Instr     -- the commands that wait, oldest first; reset empty
  hw : Hw
  deriving DecidableEq, Repr

/-- Reasons a step can stop with a fault. No command of this block faults: the spec gives every command an effect. -/
inductive Fault where
  /-- Raised by nothing; safe. It keeps the type inhabited. -/
  | unreachable
  deriving DecidableEq, Repr

/-- Reasons a command can have no meaning. -/
inductive Refusal where
  /-- Raised by an arm that has no meaning yet; safe. -/
  | notModelled (mnemonic : String)
  deriving DecidableEq, Repr

/-! ### Reset values -/

def Power.reset : Power :=
  { auxUp := false, wDone := false, smbAddr := 0, inputCut := false, railsOn := false, pgood := false, perst := true, booted := false, dstate := .d0,
    refclk := .running, pllsLocked := false, syncTimeout := false, tickPulse := false, masterBclk := false,
    forcedSafe := false }

def Exec.reset : Exec :=
  { mode := .holding, fault := 0, fencedAny := false, perm := false, running := false, start := .none,
    stopping := none, loadState := 0, failedCheck := 0, image := none, window := .stopped, tick := 0, last := none, linkLost := false,
    rerun := false, gap := false, gapCount := 0, overrun := none, safePlan := none, safeTick := false, hold := false,
    coolCap := false, seq := 0 }

def QueuePair.reset : QueuePair :=
  { sqBase := 0, sqLog := 4, sqOn := false, fault := false, fetch := 0, tail := 0, head := 0, urgent := 0,
    retried := false, credit := 0, creditNow := 0, outstanding := 0, owner := 0, cqBase := 0, cqLog := 4,
    cqOn := false, overflow := false, cqTail := 0, cqHead := 0, waiting := [], dropped := 0, vector := 0 }

def MsixEntry.reset : MsixEntry := { addr := 0, data := 0, masked := true, pending := false }

def PciConfig.reset : PciConfig :=
  { bar0 := 0, bar2 := 0, maxPayload := 0, maxRead := 2, relaxed := true, timeout := 0, timeoutOff := false, ecrcGen := false,
    ecrcCheck := false, uncStatus := 0, uncMask := 0, uncFatal := 0x00462030, corStatus := 0, corMask := 0xE000,
    aspmL1 := false, header := 0 }

def LinkState.reset : LinkState :=
  { up := false, rate := 0, width := 0, legacy := false, tags := 0, msixOn := false, funcMask := false,
    raise := [], posted := [], dropCount := 0, dropFirst := 0, smPtr := 0, smStat := 0, smNack := false, smData := 0, urgentWait := [],
    urgentOut := [], turn := 0, pci := .reset }

def Rings.reset : Rings := { admitted := [], openDescs := [], fences := [], done := [], events := [], trailers := [], laneWait := [] }

def VSlot.reset : VSlot :=
  { state := .free, damaged := false, hash := 0, length := 0, refs := 0, epoch := 0, resident := false,
    usable := false, nearSlot := none, lastUse := 0, key := [], restoring := false, granules := [], mapAddr := 0, nearGranules := [],
    blocks := [], nearMap := 0 }

def Variant.reset : Variant :=
  { present := false, current := 0, key := [], slot0 := .reset, slot1 := .reset }

def Catalogue.reset : Catalogue :=
  { trunk0 := .reset, trunk1 := .reset, trunk2 := .reset, voices := [], pageIns := [], pagesTick := 0,
    staging := [], switches := [] }

def EccStat.reset : EccStat :=
  { nearCorr := [], nearUnc := [], farCorr := [], farUnc := [], refetch := 0, lastSpace := 0, lastAddr := 0,
    sramCorr := 0, sramDbl := 0 }

def MemState.reset : MemState :=
  { near := [], far := [], tile := [], se := [], ctl := [], nearSelf := false, farSelf := false, trained := false, trainFail := none,
    polled := 0, multiplier := 1, allBank := [], retrained := 0, refreshes := [], zq := 0, rfm := [], imageSize := 4, voiceMax := 0x8000, loadAddr := 0,
    loadLen := 0, loadDone := false, loadErr := false, loadBusy := false, region := none, regionBad := false,
    wsRetry := [], ecc := .reset }

def Tile.reset : Tile :=
  { front := [], back := [], loaded := none, outs := [], accs := [], scales := 0, idle := 0, due := 0, lead := 8, shelf := 0, used := 0
    summed := 0, waits := none, records := 0 }
def CsuUnit.reset : CsuUnit := { flag := none, waiting := none, reading := false, released := true, berm := [], ctx := 0, held := none }
def LaneUnit.reset : LaneUnit := { lastSlot := 47, flight := [], slots := 0, reissues := 0, lo := none }

def Engines.reset : Engines :=
  { tiles := [], csus := [], lanes := [], locks := [], filled := [], swapWait := [], steps := [], leaving := [], replays := [], fenced := [],
    fenceNew := [], fenceDue := [], hist := [], dirLost := false }

def Port.reset : Port :=
  { ctl := 0x20, ctlNow := 0x20, fmt := 2, fmtNow := 2, mask := 3, maskNow := 3, state := .off, locked := false,
    nonaudio := false, cause := 0, drift := 0, guarded := 0, frames := [], windowBad := true, audioWord := none,
    holdLeft := 0, fifo := [], fifoNext := [], frameNo := 0, outQueue := [], lastOut := 0, word := 0, word0 := 0, prevWord := 0,
    periods := [], tracked := 0, stable := 0, ratioBad := 0, edges := (0, 0, 0), swap := false, clockless := false, ramp := 0,
    newCauses := [], recover := false, draining := false, openLine := false, openClear := 0, openClock := false, clockClear := 0 }

def Channel.reset : Channel :=
  { raw := 0, filtered := 0, y := 0, win := [], sampled := false, fault := false, bad := 0, good := 0 }

def RuleRun.reset : RuleRun := { tripped := false, count := 0, off := false, held := false }

def Warden.reset : Warden :=
  { on := false, scans := 0, policy := [], policyNow := [], policyEpoch := 0, chans := [], rules := [], m := [],
    hwTrip := false, safe := false, safeClear := 0, stuckSafe := false, hold := false, reversed := false,
    inputLow := false, lowScans := 0, lowSafe := false, wake := false, overCap := false, capOver := 0, capUnder := 0,
    capActive := false, capHold := false, inletFault := false, outletFault := false, coolPending := false,
    refEvents := 0 }

def LogEntry.reset : LogEntry :=
  { seq := 0, epoch := 0, kind := 0, severity := 0, cls := 0, unit := 0, merged := 0, d0 := 0, d1 := 0, d2 := 0, d3 := 0 }

def ErrLog.reset : ErrLog := { writeSlot := 1, overwritten := 0, newest := 0, slots := [], pending := [] }

def Counters.reset : Counters :=
  { saturated := 0, audioLate := 0, exhausted := 0, transient := 0, syncMissing := 0, rephases := 0, bar2Dropped := 0,
    misses := 0, dropped := 0, selftests := 0 }

def Summary.reset : Summary :=
  { handle := 0, state := 0, phase := 0, flags := 0, sample := 0, frame := 0, home := 0, group := 0, fifths := 0 }

def SnapPort.reset : SnapPort := { ctl := 0, fmt := 0, mask := 0, state := 0 }

def Snapshot.reset : Snapshot :=
  { epoch := 0xFFFFFFFFFFFFFFFF, pubCount := 0, gap := false, gapCount := 0, devState := 0, streamLimit := 0,
    overCap := false, pwrCap := 0, ticksync := 0, policyEpoch := 0, ports := [], waitSpace := 0, counters := .reset,
    ecc := .reset, streams := [] }

def Fmeas.reset : Fmeas :=
  { ctl := 0x00180000, count := 0, done := false, aborted := false, overflow := false, armed := false, gate := false }

def Ticksync.reset : Ticksync :=
  { ctl := 0, ctlNow := 0, sync := 0, missing := false, slip := false, e := 0, slips := [], rephase := 0, own := false }

def FwSlot.reset : FwSlot :=
  { a := [], b := [], activeB := false, aValid := false, bValid := false, fallback := false, staged := false,
    trial := false, trialTicks := 0, update := 0, err := 0, floor := 0, runs := none }

def FwRecord.reset : FwRecord := { counter := 0, active := [], trial := [], sound := true }

def Security.reset : Security :=
  { fw := [], window := [], revoked := 0, listed := false, abi := 0, live := none, pendingKind := none,
    pendingObj := [], meas := [], mlog := [], mseq := 0, mover := false, boots := 0, keyOk := false, root := none,
    recA := .reset, recB := .reset, ctlHigh := false, fwLength := 0, nonce := 0,
    busy := false, done := false, error := 0, capture := none, report := [], wHashes := [], wFailed := false }

/-- The block as power-up finds it: supplies down, PERST# asserted, every register at its Reset value. -/
def Hw.reset : Hw :=
  { pwr := .reset, ex := .reset, latches := [], pwrCap := 0, pwrCapNow := 0, qs := [], msix := [], link := .reset,
    rings := .reset, streams := [], incs := [], groups := [], cat := .reset, mem := .reset, eng := .reset,
    ports := [], war := .reset, log := .reset, snap := .reset, cnt := .reset, fm := .reset, ts := .reset,
    sec := .reset, free := 0, picks := [] }

/-- The state right after reset: no command waits. -/
def State.reset : State := { pending := [], hw := Hw.reset }

end Sys2Proof.Machine
end

