-- ==== Sys2Proof/Machine/Ops.lean ====
section
/-!
DEFINITION. The named operations over tables, memory, the error log, the records and the streams.
-/
namespace Sys2Proof.Machine

/-! ### Tables and memory -/

/-- The value of key `k`, `d` where it is not listed. -/
def tget {α : Type} (d : α) : Table α → Nat → α
  | [], _ => d
  | (j, v) :: r, k => if j = k then v else tget d r k

/-- The table without key `k`. -/
def tdel {α : Type} : Table α → Nat → Table α
  | [], _ => []
  | (j, v) :: r, k => if j = k then tdel r k else (j, v) :: tdel r k

/-- Insert an unlisted key before the first larger one. -/
def tins {α : Type} : Table α → Nat → α → Table α
  | [], k, v => [(k, v)]
  | (j, w) :: r, k, v => if k < j then (k, v) :: (j, w) :: r else (j, w) :: tins r k v

/-- Set key `k`; setting the value an unlisted key reads as removes the entry. -/
def tput {α : Type} [DecidableEq α] (d : α) (t : Table α) (k : Nat) (v : α) : Table α :=
  match tdel t k with
  | [] => if v = d then [] else [(k, v)]
  | e :: r => if v = d then e :: r else tins (e :: r) k v

/-- Canonical form: keys strictly rising and no entry equal to the default. -/
def twf {α : Type} [DecidableEq α] (d : α) : Table α → Bool
  | [] => true
  | [(_, v)] => decide (v ≠ d)
  | (j, v) :: (k, w) :: r => decide (v ≠ d) && decide (j < k) && twf d ((k, w) :: r)

/-- Canonical form of a memory; an unlisted byte reads 0 (DESIGN CHOICE, log 2). -/
def Memory.wf (m : Memory) : Bool := twf (0 : Byte) m

/-- Read one byte. -/
def read8 (m : Memory) (a : Nat) : Byte := tget 0 m a

/-- Write one byte. -/
def write8 (m : Memory) (a : Nat) (b : Byte) : Memory := tput 0 m a b

/-- Read `n` bytes from address `a` upward. -/
def readN (m : Memory) (a n : Nat) : List Byte := (List.range n).map (fun i => read8 m (a + i))

/-- Write bytes from address `a` upward. -/
def writeN (m : Memory) (a : Nat) : List Byte → Memory
  | [] => m
  | b :: bs => writeN (write8 m a b) (a + 1) bs

/-- Little-endian bytes of binary16 and FP32 lists. -/
def f16Bytes (xs : List F16) : List Byte := xs.flatMap (fun x => natBytesLE 2 x.toNat)

def f32Bytes (xs : List F32) : List Byte := xs.flatMap (fun x => natBytesLE 4 x.toNat)

/-- Pad a byte list with zeros up to `n` bytes, or cut it there. -/
def padTo (n : Nat) (bs : List Byte) : List Byte := (bs ++ List.replicate (n - bs.length) 0).take n

/-- ⌈a ÷ b⌉. -/
def ceilDiv (a b : Nat) : Nat := (a + b - 1) / b

/-- Saturating increment of an n-bit counter. -/
def satAdd {n : Nat} (x : BitVec n) (k : Nat) : BitVec n := BitVec.ofNat n (min (x.toNat + k) (2 ^ n - 1))

/-- The element at an index, or a default. -/
def nth {α : Type} (d : α) (xs : List α) (i : Nat) : α := xs.getD i d

/-- Insert into a list kept in ascending order of `key`, after equal keys. -/
def insertBy {α : Type} (key : α → Nat) (x : α) : List α → List α
  | [] => [x]
  | y :: r => if key x < key y then x :: y :: r else y :: insertBy key x r

/-- Sort by `key`, keeping the order of equal keys. -/
def sortBy {α : Type} (key : α → Nat) (xs : List α) : List α := xs.foldl (fun a x => insertBy key x a) []

/-! ### Parts of the block by number -/

def Hw.queue (h : Hw) (q : Nat) : QueuePair := tget QueuePair.reset h.qs q
def Hw.setQueue (h : Hw) (q : Nat) (p : QueuePair) : Hw := { h with qs := tput QueuePair.reset h.qs q p }
def Hw.modQueue (h : Hw) (q : Nat) (f : QueuePair → QueuePair) : Hw := h.setQueue q (f (h.queue q))

def Hw.port (h : Hw) (p : Nat) : Port := tget Port.reset h.ports p
def Hw.setPort (h : Hw) (p : Nat) (x : Port) : Hw := { h with ports := tput Port.reset h.ports p x }
def Hw.modPort (h : Hw) (p : Nat) (f : Port → Port) : Hw := h.setPort p (f (h.port p))

def Hw.stream (h : Hw) (c : Nat) : Option Stream := tget none h.streams c
def Hw.setStream (h : Hw) (c : Nat) (s : Stream) : Hw := { h with streams := tput none h.streams c (some s) }
def Hw.dropStream (h : Hw) (c : Nat) : Hw := { h with streams := tput none h.streams c none }

/-- Change the stream of a context; nothing where the context is not allocated. -/
def Hw.modStream (h : Hw) (c : Nat) (f : Stream → Stream) : Hw :=
  match h.stream c with
  | some s => h.setStream c (f s)
  | none => h

/-- The allocated contexts, in ascending context number. -/
def Hw.ctxs (h : Hw) : List (Nat × Stream) := h.streams.filterMap (fun e => e.2.map (fun s => (e.1, s)))

/-- Change every allocated stream. -/
def Hw.mapStreams (h : Hw) (f : Nat → Stream → Stream) : Hw :=
  h.ctxs.foldl (fun a e => a.modStream e.1 (f e.1)) h

def Hw.group (h : Hw) (g : Nat) : Option Group := tget none h.groups g
def Hw.setGroup (h : Hw) (g : Nat) (x : Option Group) : Hw := { h with groups := tput none h.groups g x }

def Hw.voice (h : Hw) (i : Nat) : Variant := tget Variant.reset h.cat.voices i
def Hw.setVoice (h : Hw) (i : Nat) (v : Variant) : Hw :=
  { h with cat := { h.cat with voices := tput Variant.reset h.cat.voices i v } }

def Hw.tileU (h : Hw) (t : Nat) : Tile := tget Tile.reset h.eng.tiles t
def Hw.setTile (h : Hw) (t : Nat) (x : Tile) : Hw :=
  { h with eng := { h.eng with tiles := tput Tile.reset h.eng.tiles t x } }

def Hw.csu (h : Hw) (c : Nat) : CsuUnit := tget CsuUnit.reset h.eng.csus c
def Hw.setCsu (h : Hw) (c : Nat) (x : CsuUnit) : Hw :=
  { h with eng := { h.eng with csus := tput CsuUnit.reset h.eng.csus c x } }

def Hw.lane (h : Hw) (l : Nat) : LaneUnit := tget LaneUnit.reset h.eng.lanes l
def Hw.setLane (h : Hw) (l : Nat) (x : LaneUnit) : Hw :=
  { h with eng := { h.eng with lanes := tput LaneUnit.reset h.eng.lanes l x } }

/-- The m of cluster c; 16 is full rate (R323). -/
def Hw.mOf (h : Hw) (c : Nat) : Nat := tget 16 h.war.m c
def Hw.setM (h : Hw) (c m : Nat) : Hw := { h with war := { h.war with m := tput 16 h.war.m c m } }

/-! ### Rings -/

/-- Entries of a queue of a size field. -/
def ringSize (l : BitVec 5) : Nat := 2 ^ l.toNat

/-- (a − b) mod size. -/
def ringSub (size a b : Nat) : Nat := (a + size - b % size) % size

/-! ### Free values -/

/-- A choice that the spec leaves open among some numbers: the next of `picks` says which, and the first where none is
given (log 59). -/
def Hw.pickOf (h : Hw) (l : List Nat) : Option Nat := l[h.picks.headD 0 % l.length]?
def Hw.picked (h : Hw) : Hw := { h with picks := h.picks.drop 1 }

/-- Take the next free value (log 5). -/
def Hw.takeFree (h : Hw) : W64 × Hw := (Config.freeValue h.free, { h with free := h.free + 1 })

/-! ### Vectors, host writes and the error log -/

/-- Vector `v` is to be raised at the next publication (R242). -/
def Hw.raise (h : Hw) (v : Nat) : Hw :=
  if v ∈ h.link.raise then h else { h with link := { h.link with raise := insertBy id v h.link.raise } }

/-- Device Control enables Relaxed Ordering, or no write carries it (R231, R248). -/
def HostWrite.ordered (enable : Bool) : HostWrite → HostWrite
  | .bytes a d r => .bytes a d (r && enable)
  | .image a n d r => .image a n d (r && enable)
  | .msix v a d => .msix v a d

/-- Release a posted write; with the link down, or once a link loss ends the tick, it is discarded (R253). -/
def Hw.post (h : Hw) (w : HostWrite) : Hw :=
  if h.link.up && !h.ex.linkLost then { h with link := { h.link with posted := h.link.posted ++ [w.ordered h.link.pci.relaxed] } } else h

/-- The epoch that records carry while the executive is stopped (R275, R382). -/
def stoppedEpoch : W64 := 0xFFFFFFFFFFFFFFFF#64

/-- Epoch of what is recorded now. -/
def Hw.epoch (h : Hw) : W64 := if h.ex.running then h.ex.tick else stoppedEpoch

/-- Write one entry: the next sequence number, the slot of write_slot, wrapping from 16,383 to 1 (R381, R382). -/
def appendLog (l : ErrLog) (e : LogEntry) : ErrLog :=
  let slot := l.writeSlot.toNat
  let full := decide (tget LogEntry.reset l.slots slot ≠ LogEntry.reset)
  { l with
    slots := tput LogEntry.reset l.slots slot { e with seq := l.newest + 1 }
    newest := l.newest + 1
    overwritten := if full then satAdd l.overwritten 1 else l.overwritten
    writeSlot := if slot = 16383 then 1 else BitVec.ofNat 14 (slot + 1) }

/-- The kind code of a unit in an entry's unit field (R382). -/
def unitCode : UnitKind → Nat
  | .tile => 1
  | .csu => 2
  | .lane => 3
  | .sampler => 4
  | .router => 5
  | .pump => 6
  | .nearStack => 7
  | .farChannel => 8
  | .port => 9
  | .queue => 10
  | .rule => 11
  | .module => 12

/-- The unit field: index in [15:0], kind in [23:16]. -/
def unitWord (u : UnitId) : W32 := BitVec.ofNat 32 (u.index % 65536 + unitCode u.kind * 65536)

def moduleUnit : UnitId := { kind := .module, index := 0 }

/-- Record an entry: while the executive runs it is written at commit, otherwise at once (R381). A new entry raises
vector 511 (R241). -/
def Hw.note (h : Hw) (e : LogEntry) : Hw :=
  let e := { e with epoch := h.epoch }
  let h := if h.ex.running then { h with log := { h.log with pending := h.log.pending ++ [e] } }
           else { h with log := appendLog h.log e }
  h.raise 511

/-- An entry of a kind with its details (R383). -/
def entry (kind sev cls : Nat) (u : UnitId) (d0 d1 : Nat) (d2 : Nat := 0) : LogEntry :=
  { LogEntry.reset with
    kind := BitVec.ofNat 16 kind, severity := BitVec.ofNat 8 sev, cls := BitVec.ofNat 8 cls, unit := unitWord u,
    merged := 1, d0 := BitVec.ofNat 64 d0, d1 := BitVec.ofNat 64 d1, d2 := BitVec.ofNat 64 d2 }

/-- REFUSED: a register offset or a request code (R383). -/
def Hw.refused (h : Hw) (what : Nat) : Hw := h.note (entry 0x0021 0 0 moduleUnit what 0)

/-- A dropped write counts in the tick's one DROPPED_WRITE entry, with the offset of the first (R238, R409). -/
def Hw.dropWrite (h : Hw) (off : Nat) : Hw :=
  { h with link := { h.link with
      dropCount := satAdd h.link.dropCount 1
      dropFirst := if h.link.dropCount = 0 then BitVec.ofNat 32 off else h.link.dropFirst } }

/-- The DROPPED_WRITE entry of the tick, when a write was dropped in it, which merges them all (R238, R382). -/
def Hw.flushDrops (h : Hw) : Hw :=
  if h.link.dropCount = 0 then h
  else
    let h' := h.note { entry 0x0022 0 0 moduleUnit h.link.dropCount.toNat h.link.dropFirst.toNat with merged := h.link.dropCount.setWidth 32 }
    { h' with link := { h'.link with dropCount := 0, dropFirst := 0 } }

/-! ### Device state -/

/-- The code of the state field (R414). -/
def DevMode.code : DevMode → Nat
  | .holding => 0
  | .ready => 1
  | .running => 2
  | .degraded => 3
  | .safe => 4
  | .asleep => 5

/-- Change the state field: vector 511 and a STATE entry at each change (R415, R383; its cause code is open, log 16). -/
def Hw.setMode (h : Hw) (m : DevMode) (cause : Nat) : Hw :=
  if h.ex.mode = m then h
  else
    let old := h.ex.mode
    let h := { h with ex := { h.ex with mode := m } }
    h.note (entry 0x0070 (match m with | .safe => 3 | .degraded => 2 | _ => 0) 0 moduleUnit old.code m.code (Config.causeCode cause).toNat)

/-! ### Completions and events -/

/-- Status codes (R270). -/
def stDone : Nat := 0x00
def stAborted : Nat := 0x01
def stAlready : Nat := 0x02
def stStale : Nat := 0x03
def stMiss : Nat := 0x04
def stFormat : Nat := 0x05
def stNoContext : Nat := 0x06
def stVersion : Nat := 0x07
def stMigrate : Nat := 0x08
def stDegraded : Nat := 0x09
def stPort : Nat := 0x0A

/-- The handle of a context (R264). -/
def handleOf (c : Nat) (inc : BitVec 15) : W32 := BitVec.ofNat 32 (c % 1024 + inc.toNat * 65536 + 0x80000000)

def Stream.handle (c : Nat) (s : Stream) : W32 := handleOf c s.incarnation

/-- Compose the completion of a descriptor (R270, R271). Head and epoch are filled in at publication. -/
def Hw.complete (h : Hw) (q seq : Nat) (kind : Nat) (tag handle : W32) (status d0 : Nat) (d1 : W64) : Hw :=
  let r : Record := { kind := BitVec.ofNat 8 kind, status := BitVec.ofNat 8 status, event := false, tag := tag,
                      handle := handle, head := 0, detail0 := BitVec.ofNat 16 d0, epoch := 0, detail1 := d1 }
  { h with rings := { h.rings with
      done := h.rings.done ++ [{ q := q, seq := seq, ctx := 0, module := false, r := r }] } }

/-- The descriptor is applied in this tick, in a class of R273: its place in the order of completions (R274). While the
executive is stopped the order of decode stands alone. -/
def Hw.markApplied (h : Hw) (seq cls : Nat) : Hw :=
  let key := if h.ex.running then some (h.ex.tick.toNat * 16 + cls) else none
  { h with rings := { h.rings with openDescs := h.rings.openDescs.map (fun o => if o.seq = seq then { o with applied := key } else o) } }

/-- Compose a stream event for the stream's home pair (R255, R272). -/
def Hw.event (h : Hw) (c : Nat) (s : Stream) (code status d0 : Nat) (d1 : W64) : Hw :=
  let r : Record := { kind := BitVec.ofNat 8 code, status := BitVec.ofNat 8 status, event := true, tag := 0,
                      handle := s.handle c, head := 0, detail0 := BitVec.ofNat 16 d0, epoch := 0, detail1 := d1 }
  { h with rings := { h.rings with
      events := h.rings.events ++ [{ q := s.home, seq := 0, ctx := c, module := false, r := r }] } }

/-- The queue pairs whose completion queue is enabled, in ascending number. -/
def Hw.enabledCqs (h : Hw) : List Nat := (h.qs.filter (fun e => e.2.cqOn)).map Prod.fst

/-- Compose a module event: the publication writes it to every completion queue then enabled (R255). -/
def Hw.moduleEvent (h : Hw) (code status : Nat) (d1 : W64) : Hw :=
  let r : Record := { kind := BitVec.ofNat 8 code, status := BitVec.ofNat 8 status, event := true, tag := 0,
                      handle := 0, head := 0, detail0 := 0, epoch := 0, detail1 := d1 }
  { h with rings := { h.rings with events := h.rings.events ++ [{ q := 0, seq := 0, ctx := 0, module := true, r := r }] } }

/-- The first-tick offset as a 4-bit signed field at [15:12], beside reason and count (R272). -/
def missDetail (reason count : Nat) (offset : Int) : Nat := reason + count * 256 + (offset % 16).toNat * 4096

/-- Post DEADLINE_MISS, at most one per reason and tick (R177, R272), and count it (R431). -/
def Hw.miss (h : Hw) (c : Nat) (s : Stream) (reason count : Nat) (offset : Int) (index : W64) : Hw :=
  let same := h.rings.events.any (fun p => p.ctx == c && !p.module && p.r.kind == 0x82#8 && p.r.handle == s.handle c
                && p.r.detail0.toNat % 256 == reason)
  if same then h
  else
    let h := h.event c s 0x82 stMiss (missDetail reason count offset) index
    { h with cnt := { h.cnt with misses := h.cnt.misses + 1 } }

/-! ### Rates -/

/-- Sample rate in Hz of a rate code (R140). -/
def rateHz : Nat → Nat
  | 0 => 8000
  | 1 => 16000
  | 2 => 24000
  | 3 => 32000
  | _ => 48000

/-- N, the samples of a tick: rate × 2.5 ms (R16, R138). -/
def rateN : Nat → Nat
  | 0 => 20
  | 1 => 40
  | 2 => 60
  | 3 => 80
  | _ => 120

def Stream.n (s : Stream) : Nat := rateN s.rate

/-- The stream's next sample index. -/
def Stream.idx (s : Stream) : W64 := s.bank.sample.nextSample

/-- The stream is inside an utterance: its frame model runs (SPEAKING). -/
def Stream.speaking (s : Stream) : Bool := s.life == .speaking

/-! ### Versions -/

/-- A variant's version slot. -/
def Variant.slot (v : Variant) (i : Nat) : VSlot := if i = 0 then v.slot0 else v.slot1
def Variant.setSlot (v : Variant) (i : Nat) (x : VSlot) : Variant :=
  if i = 0 then { v with slot0 := x } else { v with slot1 := x }

def Hw.trunk (h : Hw) (i : Nat) : VSlot := if i = 0 then h.cat.trunk0 else if i = 1 then h.cat.trunk1 else h.cat.trunk2
def Hw.setTrunk (h : Hw) (i : Nat) (x : VSlot) : Hw :=
  { h with cat := if i = 0 then { h.cat with trunk0 := x } else if i = 1 then { h.cat with trunk1 := x }
                  else { h.cat with trunk2 := x } }

/-- Version slot of the trunk table or of a variant. -/
def Hw.vslot (h : Hw) (trunk : Bool) (idx slot : Nat) : VSlot :=
  if trunk then h.trunk slot else (h.voice idx).slot slot
def Hw.setVslot (h : Hw) (trunk : Bool) (idx slot : Nat) (x : VSlot) : Hw :=
  if trunk then h.setTrunk slot x else h.setVoice idx ((h.voice idx).setSlot slot x)

/-- The version is CURRENT; a DAMAGED one acts as the state it remembers (R456). -/
def VSlot.isCurrent (v : VSlot) : Bool := v.state == .current

/-- The trunk slot that is CURRENT. -/
def Hw.currentTrunk (h : Hw) : Option Nat := [0, 1, 2].find? (fun i => (h.trunk i).isCurrent)

/-- The slot of a variant's CURRENT version. -/
def Variant.currentSlot (v : Variant) : Option Nat := [0, 1].find? (fun i => (v.slot i).isCurrent)

/-- Take and drop a reference (R223). -/
def Hw.addRef (h : Hw) (trunk : Bool) (idx slot : Nat) : Hw :=
  let v := h.vslot trunk idx slot
  h.setVslot trunk idx slot { v with refs := v.refs + 1 }
def Hw.dropRef (h : Hw) (trunk : Bool) (idx slot : Nat) : Hw :=
  let v := h.vslot trunk idx slot
  h.setVslot trunk idx slot { v with refs := v.refs - 1 }

/-- The first 16 bytes of a hash as a number (R217). -/
def hash16 (x : Hash) : BitVec 128 := x.setWidth 128

/-! ### Measurement (R400, R401) -/

/-- Extend measurement register `i`: Mi becomes SHA-512(Mi ‖ v), with one log entry while fewer than 512 are kept. -/
def Hw.extend (h : Hw) (i kind : Nat) (version : W32) (v : Hash) : Hw :=
  let m := tget (0 : Hash) h.sec.meas i
  let e : MeasEntry := { seq := h.sec.mseq + 1, reg := i, kind := BitVec.ofNat 8 kind, version := version, value := v, epoch := h.epoch }
  { h with sec := { h.sec with
      meas := tput (0 : Hash) h.sec.meas i (sha512 (hashBytes m ++ hashBytes v))
      mseq := h.sec.mseq + 1
      mlog := if h.sec.mlog.length < 512 then h.sec.mlog ++ [e] else h.sec.mlog
      mover := h.sec.mover || decide (512 ≤ h.sec.mlog.length) } }

end Sys2Proof.Machine
end

