-- ==== Sys2Proof/Machine/Image.lean ====
section
/-!
DEFINITION. What the device reads from a schedule image's bytes (R157, R158) and derives from its sections.
-/
namespace Sys2Proof.Machine

/-- A little-endian field of a byte list; absent bytes read 0. -/
def leField (bs : List Byte) (off n : Nat) : Nat := bytesToNatLE (padTo n (bs.drop off))

def imgMagic (i : ImageFile) : Nat := leField i.file 0x000 4
def imgMajor (i : ImageFile) : Nat := leField i.file 0x004 2
def imgMinor (i : ImageFile) : Nat := leField i.file 0x006 2
/-- The image hash (R159), byte 0 in bits 7..0. -/
def imgHash (i : ImageFile) : Hash := BitVec.ofNat 512 (leField i.file 0x008 64)
def imgUnits (i : ImageFile) : Nat := leField i.file 0x048 4
/-- The stream limit S. -/
def imgS (i : ImageFile) : Nat := leField i.file 0x04C 2
def imgGroupLimit (i : ImageFile) : Nat := leField i.file 0x04E 2
/-- Active trunk parameters, in millions. -/
def imgTrunk (i : ImageFile) : Nat := leField i.file 0x050 4
def imgRates (i : ImageFile) : Nat := leField i.file 0x054 1
def imgFills (i : ImageFile) : Nat := leField i.file 0x055 1
def imgAlign (i : ImageFile) : Nat := leField i.file 0x056 1
def imgRbits (i : ImageFile) : Nat := leField i.file 0x057 1
def imgWork (i : ImageFile) : Nat := leField i.file 0x058 4
def imgSlack (i : ImageFile) : Nat := leField i.file 0x05C 4
def imgCd (i : ImageFile) : Nat := leField i.file 0x060 2
def imgFw (i : ImageFile) : Nat := leField i.file 0x062 2
def imgNSec (i : ImageFile) : Nat := leField i.file 0x064 4
def imgDir (i : ImageFile) : Nat := leField i.file 0x068 4

/-! ### Sections (R158) -/

/-- An entry of the section directory. -/
structure Section where
  kind : Nat
  off : Nat
  len : Nat
  spare : Nat
  deriving DecidableEq, Repr

/-- The section directory. -/
def sections (i : ImageFile) : List Section :=
  (List.range (imgNSec i)).map (fun k =>
    let a := imgDir i + 16 * k
    { kind := leField i.file a 4, off := leField i.file (a + 4) 4, len := leField i.file (a + 8) 4, spare := leField i.file (a + 12) 4 })

/-- The bytes of the section of a type. -/
def sectionBytes (i : ImageFile) (k : Nat) : List Byte :=
  match (sections i).find? (fun s => s.kind == k) with
  | some s => (i.file.drop s.off).take s.len
  | none => []

/-- Section 0x0B: the CSU and lane weights and biases, binary16 (R103, R125). It stands at the foot of SE SRAM (DESIGN
CHOICE, log 74). -/
def seWeights (i : ImageFile) : List Byte := sectionBytes i 0x0B

/-! ### Tick program (R80, R163, R166) -/

/-- The step of a number. -/
def tickStep (i : ImageFile) (p : Nat) : Option TickStep := i.parts.tick.steps[p]?

/-- The replay unit that holds a step. -/
def unitOf (i : ImageFile) (p : Nat) : Option Nat :=
  i.parts.tick.units.findIdx? (fun u => decide (u.first ≤ p) && decide (p < u.first + u.count))

/-- The steps that swap a lock, in order. -/
def swapSteps (i : ImageFile) (l : Nat) : List Nat :=
  (i.parts.tick.steps.zipIdx.filter (fun e => e.1.op == .swap l)).map Prod.snd

/-- Swaps of a lock that the steps before step `p` make: the lock's count at that step (R166). -/
def swapsBefore (i : ImageFile) (l p : Nat) : Nat := ((swapSteps i l).filter (fun q => decide (q < p))).length

/-- Values of one feature-section output: the width that the tick program keeps (R83, R284). -/
def outWidth (i : ImageFile) : Nat :=
  i.parts.tick.steps.foldl (fun a x => match x.op with | .tile _ _ _ _ (.featureOut _ w) => max a w | _ => a) 0

/-- The bit of a byte field. -/
def bitOf (x k : Nat) : Bool := decide (x / 2 ^ k % 2 = 1)

/-- A 64 B image carries no second trunk (R94): more than 32 × 10⁹ active trunk parameters (DEDUCED, log 6). -/
def imgOneTrunk (i : ImageFile) : Bool := decide (imgTrunk i > 32000)

/-- Bytes of a feature frame: Fw binary16 values padded to a multiple of 64 B (R176). -/
def frameBytes (i : ImageFile) : Nat := ceilDiv (2 * imgFw i) 64 * 64

/-- Round up to a multiple of 64 B. -/
def up64 (n : Nat) : Nat := ceilDiv n 64 * 64

/-- Bytes of a conditioning frame in a conditioning record: Cd binary16 values padded to 64 B (R181). -/
def condBytes (i : ImageFile) : Nat := up64 (2 * imgCd i)

/-- Bytes of a kept feature-section output (R284). -/
def outBytes (i : ImageFile) : Nat := up64 (2 * outWidth i)

/-- Round up to a multiple of 4 KiB. -/
def up4k (n : Nat) : Nat := ceilDiv n 4096 * 4096

/-- Record length in bytes (R139). -/
def recordBytes (i : ImageFile) : Nat :=
  let d := i.parts.dir
  4096 + up4k d.f + 8192 + up4k d.hc + up4k d.hs + 4096

/-- Bytes of a conditioning record of `n` frames (R181). -/
def condRecordBytes (i : ImageFile) (n : Nat) : Nat := 0x1440 + n * condBytes i

/-- Record length in rebuild form (R154). -/
def rebuildBytes (i : ImageFile) (n : Nat) : Nat :=
  let d := i.parts.dir
  4096 + up4k d.f + 8192 + up4k d.hf + up4k (condRecordBytes i n) + 4096

/-- Every Conv-Scan Unit layer and every sample-rate recurrence has utterance scope (R153, R155). -/
def imgUttScope (i : ImageFile) : Bool :=
  i.parts.csu.all (fun l => l.utterance) && i.parts.recs.all (fun r => r.kind != .sample || r.utterance)

/-- Frames the conditioning history can hold in its part of the feature area, beside its spill map (R155, R181). -/
def historyMax (i : ImageFile) : Nat := min 4096 ((i.parts.dir.historyArea - 5120) / condBytes i)

/-- Bytes of the feature area that the conditioning history takes: none where no history is kept (R155). -/
def historyPart (i : ImageFile) : Nat := if imgUttScope i then i.parts.dir.historyArea else 0

/-- The recurrences of a kind, with their index in the recurrence table. -/
def recsOf (i : ImageFile) (k : RecKind) : List (Nat × Recurrence) :=
  (i.parts.recs.zipIdx.map (fun e => (e.2, e.1))).filter (fun e => e.2.kind == k)

/-- The extractor of a rate (R171). -/
def extractorOf (i : ImageFile) (rate : Nat) : Option Extractor := i.parts.extractors.find? (fun x => x.rate == rate)

/-- Lane steps with their loop position. -/
def laneStep (i : ImageFile) (p : Nat) : Option LaneStep := i.parts.lane[p]?

/-- The manifest entry of a number, when it is of the kind (R224). -/
def manifestOf (i : ImageFile) (expert : Bool) (n : Nat) : Option ManifestEntry :=
  match i.parts.manifest[n]? with
  | some e => if e.expert == expert then some e else none
  | none => none

/-- Largest trunk of the manifest in bytes (R160, R212). -/
def largestTrunk (i : ImageFile) : Nat := (i.parts.manifest.filter (fun e => !e.expert)).foldl (fun a e => max a e.length) 0

/-! ### Near-memory placement (R212)

The weights of cluster c lie on stack c. On every stack the areas stand one above the other: the trunk slots, the pages of the
state banks and feature areas, the reserved area, and the expert cache, whose granule of 2 MiB has an eighth on each stack
(the order and the split of a granule are a DESIGN CHOICE, log 114). -/

/-- Bytes of a stack. -/
def stackBytes : Nat := 0x400000000

/-- Bytes of a payload that go to the stack of cluster `c`. -/
def shareOf (bs : List (Nat × Nat)) (c : Nat) : Nat := ((bs.filter (fun b => b.1 == c)).map Prod.snd).foldl (· + ·) 0

/-- The largest share that one stack has of a payload. -/
def shareMax (bs : List (Nat × Nat)) : Nat := (List.range 8).foldl (fun a c => max a (shareOf bs c)) 0

/-- Stack and offset in its share of byte `o` of a payload. -/
def placeOf : List (Nat × Nat) → (Nat → Nat) → Nat → Option (Nat × Nat)
  | [], _, _ => none
  | (c, n) :: r, used, o => if o < n then some (c, used c + o) else placeOf r (fun k => if k = c then used k + n else used k) (o - n)

/-- Bytes of a near trunk slot on one stack: sized to the largest trunk version (R212). -/
def trunkShare (i : ImageFile) : Nat := up4k ((i.parts.manifest.filter (fun e => !e.expert)).foldl (fun a e => max a (max (shareMax e.blocks) (ceilDiv e.length 8))) 0)

/-- Near trunk slots (R94, R212). -/
def trunkSlots (i : ImageFile) : Nat := if imgOneTrunk i then 1 else 2

/-- Offset on its stack of the pages, and the near address of page `p`: on stack p mod 8. -/
def pageBase (i : ImageFile) : Nat := trunkSlots i * trunkShare i
def pageAddr (i : ImageFile) (p : Nat) : Nat := p % 8 * stackBytes + pageBase i + p / 8 * 4096

/-- Pages of the state banks, and of the feature areas after them. -/
def bankPages (i : ImageFile) : Nat := imgS i * 2 * (recordBytes i / 4096)
def areaPages (i : ImageFile) : Nat := imgS i * ceilDiv i.parts.dir.featureArea 4096

/-- Offset on its stack of the reserved area, and of the expert cache above its eighth of 1 GiB. -/
def reservedBase (i : ImageFile) : Nat := pageBase i + ceilDiv (bankPages i + areaPages i) 8 * 4096
def cacheBase (i : ImageFile) : Nat := ceilDiv (reservedBase i + 0x8000000) 0x40000 * 0x40000

/-- A near address lies in the pages of the banks and feature areas, or in the reserved area. -/
def inPages (i : ImageFile) (a : Nat) : Bool := decide (pageBase i ≤ a % stackBytes) && decide (a % stackBytes < reservedBase i)
def inReserved (i : ImageFile) (a : Nat) : Bool := decide (reservedBase i ≤ a % stackBytes) && decide (a % stackBytes < cacheBase i)

/-- Near address of offset `o` of stack `c`'s share in trunk slot `n`, and in the cache granules `gs`. -/
def trunkAddr (i : ImageFile) (n c o : Nat) : Nat := c * stackBytes + n * trunkShare i + o
def cacheAddr (i : ImageFile) (gs : List Nat) (c o : Nat) : Option Nat :=
  (gs[o / 0x40000]?).map (fun g => c * stackBytes + cacheBase i + g * 0x40000 + o % 0x40000)

/-- Granules of 2 MiB that a length takes. -/
def granulesOf (n : Nat) : Nat := ceilDiv n 0x200000

/-- Cache granules that a near copy takes: what its length needs, and what its largest share of a stack needs (R212, R219). -/
def nearNeed (n : Nat) (bs : List (Nat × Nat)) : Nat := max (granulesOf n) (ceilDiv (shareMax bs) 0x40000)

/-- Near-memory granules of the expert cache: what the trunk slots, the state banks, the feature areas and the
reserved 1 GiB leave (R212). -/
def cacheGranules (i : ImageFile) : Nat := (stackBytes - cacheBase i) / 0x40000

/-! ### Tile locks and Pump descriptors (R72, R166, R218, R220) -/

/-- Bytes of a tile's SRAM. -/
def tileSize : Nat := 0x280000

/-- The three locks of a tile: weights, scales, carried state. -/
inductive TileLock where
  | weight | scale | state
  deriving DecidableEq, Repr

/-- Base of a lock's chamber A, and the size of a chamber (R72). -/
def TileLock.base : TileLock → Nat
  | .weight => 0x180000
  | .scale => 0x1C0000
  | .state => 0x1C8000
def TileLock.size : TileLock → Nat
  | .weight => 0x20000
  | .scale => 0x4000
  | .state => 0x30000

/-- Number of a lock of tile `t` (log 20). -/
def tileLock (t : Nat) : TileLock → Nat
  | .weight => 3 * t
  | .scale => 3 * t + 1
  | .state => 3 * t + 2

/-- A field of a Pump descriptor. -/
def pumpField (d : BitVec 256) (lo w : Nat) : Nat := d.toNat / 2 ^ lo % 2 ^ w

def pumpSrc (d : BitVec 256) : Nat := pumpField d 0 64
def pumpDstField (d : BitVec 256) : Nat := pumpField d 64 64
def pumpLen (d : BitVec 256) : Nat := pumpField d 128 32
def pumpSrcSpace (d : BitVec 256) : Nat := pumpField d 160 3
def pumpDstSpace (d : BitVec 256) : Nat := pumpField d 163 3
def pumpClass (d : BitVec 256) : Nat := pumpField d 166 3
def pumpIdle (d : BitVec 256) : Bool := decide (pumpField d 169 1 = 1)
def pumpHash (d : BitVec 256) : Bool := decide (pumpField d 170 1 = 1)
def pumpMap (d : BitVec 256) : Bool := decide (pumpField d 171 1 = 1)
def pumpRows (d : BitVec 256) : Nat := pumpField d 192 16
def pumpSrcPitch (d : BitVec 256) : Nat := pumpField d 208 16 * 64
def pumpDstPitch (d : BitVec 256) : Nat := pumpField d 224 16 * 64

/-- A descriptor in the form of R220: reserved bits 0, a row length that is a multiple of 64 B up to 256 MiB, at least one
row, a class and two spaces that exist. -/
def pumpForm (d : BitVec 256) : Bool :=
  decide (pumpField d 172 20 = 0) && decide (pumpField d 240 16 = 0) && decide (pumpLen d % 64 = 0) && decide (pumpLen d ≤ 0x10000000)
  && decide (1 ≤ pumpRows d) && decide (pumpClass d < 6) && decide (pumpSrcSpace d < 6) && decide (pumpDstSpace d < 6)

/-- A lock by number, space, base and chamber size: those of a tile (R72), and those that an image has in SE SRAM (R166). -/
structure LockPlace where
  num : Nat
  space : Nat
  base : Nat
  size : Nat

/-- The tile locks with a byte in [a, a + n) of tile SRAM, and the SE SRAM locks of the image. -/
def locksNear (aux : List (Nat × Nat)) (sp a n : Nat) : List LockPlace :=
  if sp = 2 then (List.range (n / tileSize + 2)).flatMap (fun d => [TileLock.weight, .scale, .state].map (fun k =>
    let t := a / tileSize + d
    { num := tileLock t k, space := 2, base := t * tileSize + k.base, size := k.size }))
  else if sp = 3 then aux.zipIdx.map (fun e => { num := 384 + e.2, space := 3, base := e.1.1, size := e.1.2 })
  else []

/-- The lock whose base stands at an address. -/
def lockAt (aux : List (Nat × Nat)) (sp a : Nat) : Option LockPlace := (locksNear aux sp a 0).find? (fun k => k.base == a && decide (0 < k.size))

/-- The lock that a transfer names with idle_chamber (R220). -/
def pumpLock (aux : List (Nat × Nat)) (d : BitVec 256) : Option LockPlace :=
  if pumpIdle d then lockAt aux (pumpDstSpace d) (pumpDstField d) else none

end Sys2Proof.Machine
end

