-- ==== Sys2Proof/Machine/Flags.lean ====
section
/-!
DEFINITION. The limits the module admits by, the status words that registers and the snapshot show, and the sticky flags.
-/
namespace Sys2Proof.Machine

/-! ### Limits -/

/-- The redistribution domain of a unit (R368). -/
def unitDomain (u : UnitId) : Nat :=
  match u.kind with
  | .tile => u.index / 16
  | .csu => u.index / 4
  | .sampler => u.index / 2
  | .pump => if u.index < 8 then u.index / 2 else 4
  | _ => 0

/-- Fenced units of a unit's kind and domain. -/
def Hw.fencedLike (h : Hw) (u : UnitId) : Nat :=
  (h.eng.fenced.filter (fun v => v.kind == u.kind && unitDomain v == unitDomain u)).length

/-- The limit that the degraded table gives for `f` fenced units of a kind; 0 with no valid entry (R369). -/
def degradedEntry (i : ImageFile) (k : UnitKind) (f : Nat) : Nat :=
  match i.parts.proof.degraded.find? (fun e => e.kind == k && e.count == f) with
  | some e => if e.proven && decide (f ≤ 2) then e.limit else 0
  | none => 0

/-- S_D: the smallest limit over the domains that hold fenced units; S with none (R369). -/
def Hw.degradedLimit (h : Hw) : Nat :=
  match h.ex.image with
  | none => 0
  | some i => h.eng.fenced.foldl (fun a u => min a (degradedEntry i u.kind (h.fencedLike u))) (imgS i)

/-- Every fence is covered by a valid entry (R370). -/
def Hw.fencesCovered (h : Hw) : Bool :=
  match h.ex.image with
  | none => true
  | some i => h.eng.fenced.all (fun u => decide (0 < degradedEntry i u.kind (h.fencedLike u)))

/-- Watts of a cap code (R343). -/
def capWatts : Nat → Nat
  | 0 => 1150
  | 1 => 900
  | _ => 700

/-- The cap code in force, one step lower after a coolant fault (R343, R362). -/
def Hw.capCode (h : Hw) : Nat :=
  let c := h.pwrCapNow.toNat % 4
  if h.ex.coolCap then min 2 (c + 1) else c

/-- S_C = ⌊S × (C − 140) ÷ 1,010⌋ (R341); 0 with no image. -/
def Hw.capLimit (h : Hw) : Nat :=
  match h.ex.image with
  | none => 0
  | some i => imgS i * (capWatts h.capCode - 140) / 1010

/-- Contexts the device admits now: min(S_D, S_C) (R369, R414). -/
def Hw.admitLimit (h : Hw) : Nat := min h.degradedLimit h.capLimit

/-- Contexts a phase group admits now (R17, R341, R369). -/
def Hw.groupLimit (h : Hw) : Nat := ceilDiv h.admitLimit 5

/-- Streams of a phase group. -/
def Hw.phaseCount (h : Hw) (g : Nat) : Nat := (h.ctxs.filter (fun e => e.2.phase == g)).length

/-! ### DEV_STATE -/

/-- A bit as a number. -/
def b2n (b : Bool) : Nat := if b then 1 else 0

/-- DEV_STATE (R414). -/
def Hw.devState (h : Hw) : W64 :=
  BitVec.ofNat 64 (h.ex.mode.code + b2n h.ex.running * 8 + b2n h.ex.image.isSome * 16 + b2n h.ex.fencedAny * 32
    + b2n h.ex.perm * 64 + h.ex.fault.toNat * 256 + h.link.rate.toNat * 65536 + h.link.width.toNat * 1048576
    + h.admitLimit * 4294967296)

/-- The state that a running executive shows (R415). -/
def Hw.runMode (h : Hw) : DevMode := if h.ex.fencedAny || h.ex.perm then .degraded else .running

/-! ### Transfer mode and tags -/

/-- Tag pool that Device Control enables (R243). -/
def tagPool (t : BitVec 2) : Nat := if t = 0 then 256 else if t = 1 then 1024 else 16384

/-- Ordinary tags: the pool less 64, or 256 in legacy mode (R243, R245, R421). -/
def Hw.ordinaryPool (h : Hw) : Nat := if h.link.legacy then 256 else tagPool h.link.tags - 64

/-- Bytes of a posted write's payload, at most the programmed size and 512 B (R231). -/
def Hw.payloadBytes (h : Hw) : Nat := min 512 (128 * 2 ^ h.link.pci.maxPayload.toNat)

/-- Bytes of a read request, at most the programmed size and 512 B (R231). -/
def Hw.requestBytes (h : Hw) : Nat := min 512 (128 * 2 ^ h.link.pci.maxRead.toNat)

/-- The packets of a transfer: pieces of at most `most` bytes, none across a 4 KiB boundary (R231). -/
def packets (most : Nat) : Nat → Nat → Nat → List (Nat × Nat)
  | 0, _, _ => []
  | k + 1, a, n =>
    let m := min n (min most (4096 - a % 4096))
    if m = 0 then [] else (a, m) :: packets most k (a + m) (n - m)

/-- The read requests that fetch n bytes at a host address (R231). -/
def Hw.readRequests (h : Hw) (addr : W64) (n : Nat) : List (Nat × Nat) := packets h.requestBytes n addr.toNat n

/-- Ordinary tags that reads hold. -/
def Hw.tagsHeld (h : Hw) : Nat := h.qs.foldl (fun n e => n + e.2.outstanding.toNat) 0

/-- The queue may issue one more ordinary read: it is below its credit, or the mode is legacy, and an ordinary tag is free
(R243 to R245). -/
def Hw.mayRead (h : Hw) (q : Nat) : Bool :=
  (h.link.legacy || decide ((h.queue q).outstanding.toNat < (h.queue q).creditNow.toNat)) && decide (h.tagsHeld < h.ordinaryPool)

/-- Descriptors announced and not yet decoded (R260). -/
def announced (p : QueuePair) : Nat := ringSub (ringSize p.sqLog) p.tail.toNat p.fetch.toNat

/-- The queue has a descriptor to fetch on an ordinary tag: beyond its urgent ones and those on the way, below its credit
(R244, R245). One read fetches one descriptor (DESIGN CHOICE, log 82). -/
def Hw.wantsRead (h : Hw) (q : Nat) (p : QueuePair) : Bool :=
  p.sqOn && !p.fault && decide (p.urgent + p.outstanding.toNat < announced p)
  && (h.link.legacy || decide (p.outstanding.toNat < p.creditNow.toNat)) && decide (q < 256)

/-- The next queue in turn that has a read to issue, while an ordinary tag is free (R243 to R245). -/
def Hw.nextReader (h : Hw) : Option Nat :=
  if h.ordinaryPool ≤ h.tagsHeld then none
  else
    let want := (h.qs.filter (fun e => h.wantsRead e.1 e.2)).map Prod.fst
    (want.filter (fun q => decide (h.link.turn < q)) ++ want.filter (fun q => decide (q ≤ h.link.turn))).head?

/-- Issue ordinary reads, one queue a turn, until tags, credits or descriptors run out. -/
def issueTurns : Nat → Hw → Hw
  | 0, h => h
  | k + 1, h =>
    match h.nextReader with
    | none => h
    | some q => issueTurns k { (h.modQueue q (fun p => { p with outstanding := p.outstanding + 1 })) with link := { h.link with turn := q } }

/-- The list and block reads of urgent descriptors, which waited for an ordinary tag, go as soon as their queue may read: they
take no time of their own (R246; DESIGN CHOICE, log 82). -/
def Hw.readBlocks (h : Hw) : Hw :=
  { h with rings := { h.rings with admitted := h.rings.admitted.map (fun a => { a with unread := a.unread && !h.mayRead a.q }) } }

/-- Issue the reads that tags allow: urgent ones first, in order of receipt on the 64 reserved tags, then the waiting blocks
and the ordinary fetches (R243 to R246, R261). -/
def Hw.issueReads (h : Hw) : Hw :=
  let free := 64 - h.link.urgentOut.length
  let h := { h with link := { h.link with urgentOut := h.link.urgentOut ++ h.link.urgentWait.take free, urgentWait := h.link.urgentWait.drop free } }
  issueTurns h.ordinaryPool h.readBlocks

/-- One descriptor of the queue's first read in the list has come; the read is over with its last. -/
def useRead (q : Nat) : List (Nat × Nat) → List (Nat × Nat)
  | [] => []
  | e :: l => if e.1 = q then (if e.2 ≤ 1 then l else (e.1, e.2 - 1) :: l) else e :: useRead q l

/-- The queue's next descriptor comes by an urgent read that holds a reserved tag (R246, R261). -/
def Hw.reservedRead (h : Hw) (q : Nat) : Bool := decide (0 < (h.queue q).urgent) && h.link.urgentOut.any (fun e => e.1 == q)

/-- The reads of a queue that has stopped fetching are gone (R252, R424). -/
def Hw.dropReads (h : Hw) (q : Nat) : Hw :=
  let h := h.modQueue q (fun p => { p with outstanding := 0, urgent := 0 })
  { h with link := { h.link with urgentWait := h.link.urgentWait.filter (fun x => x.1 != q), urgentOut := h.link.urgentOut.filter (fun x => x.1 != q) } }

/-- XFER_MODE.credit_sum: the credits of the enabled queues (R421). -/
def Hw.creditSum (h : Hw) : Nat := (h.qs.filter (fun e => e.2.sqOn)).foldl (fun a e => a + e.2.credit.toNat) 0

/-! ### Access -/

/-- The function answers memory requests: rails on, boot ended, PERST# released, D0 (R236, R254, R389). -/
def Hw.alive (h : Hw) : Bool :=
  h.pwr.railsOn && h.pwr.booted && !h.pwr.perst && h.pwr.dstate == .d0 && h.ex.mode != .asleep

/-- The Sequencer decodes and acts: the function is alive and REFCLK runs (R333; DEDUCED, log 7). -/
def Hw.decodes (h : Hw) : Bool := h.alive && h.pwr.refclk == .running

/-! ### Sticky flags of a stream -/

def Stream.flagSat (s : Stream) (b : Bool) : Stream := { s with arithSat := s.arithSat || b }
def Stream.flagNan (s : Stream) (b : Bool) : Stream := { s with arithNonfinite := s.arithNonfinite || b }

/-- A drift trip of recurrence `r`: sticky flag, lowest index and trips of the tick (R149). -/
def Stream.trip (s : Stream) (r : Nat) (b : Bool) : Stream :=
  if b then
    { s with stateDrift := true
             work := { s.work with drift := match s.work.drift with
                                            | none => some (r, 1)
                                            | some (l, n) => some (min l r, n + 1) } }
  else s

/-! ### Snapshot -/

/-- The code of a context's state (R432). -/
def Life.code : Life → Nat
  | .idle => 1
  | .speaking => 2
  | .exported => 3
  | .lost => 4

/-- A page-in for the next utterance of the stream waits (R432). -/
def Hw.paging (h : Hw) (s : Stream) : Bool :=
  match s.selected with
  | some x => h.cat.pageIns.any (fun p => p.idx == x)
  | none => false

/-- A stream's entry of the snapshot (R432). -/
def Hw.summary (h : Hw) (c : Nat) (s : Stream) : Summary :=
  { handle := s.handle c, state := BitVec.ofNat 8 s.life.code, phase := BitVec.ofNat 8 s.phase,
    flags := BitVec.ofNat 8 (b2n s.arithSat + b2n s.arithNonfinite * 2 + b2n s.stateDrift * 4 + b2n s.stateLost * 8
      + b2n s.locked * 16 + b2n s.group.isSome * 32 + b2n (h.paging s) * 64 + b2n s.advised * 128),
    sample := s.bank.sample.nextSample, frame := s.bank.frame.nextFrame, home := BitVec.ofNat 8 s.home,
    group := BitVec.ofNat 8 (s.group.getD 255), fifths := BitVec.ofNat 8 s.bank.sample.fifths }

/-- The code of a port's state (R303). -/
def PortState.code : PortState → Nat
  | .off => 0
  | .running => 1
  | .muted => 2
  | .faultDisabled => 3

/-- Every expert version of the catalogue: index, slot, version. -/
def Hw.experts (h : Hw) : List (Nat × Nat × VSlot) := h.cat.voices.flatMap (fun e => [(e.1, 0, e.2.slot0), (e.1, 1, e.2.slot1)])

/-- A selection made on decode pins its version until the descriptor takes effect (R89, R91). -/
def Hw.pinned (h : Hw) (idx slot : Nat) : Bool := h.rings.admitted.any (fun a => a.pin == some (idx, slot))

/-- Cache granules that the near copy of a version takes (R212, R219). -/
def VSlot.need (v : VSlot) : Nat := nearNeed v.length v.blocks

/-- Granules of the expert cache in use: resident experts and page-ins under way. -/
def Hw.cacheUsed (h : Hw) : Nat :=
  let loading (i k : Nat) : Bool := h.cat.pageIns.any (fun p => p.admitted && p.idx == i && p.slot == k)
  h.experts.foldl (fun n e => if e.2.2.resident || loading e.1 e.2.1 then n + e.2.2.need else n) 0

/-- Unpinned resident experts in the order of R91: lowest epoch of last use, then lowest catalogue index. A RETIRING version
without references is freed at commit and not evicted (R226). An expert that has never run counts as last used in epoch 0
(DESIGN CHOICE, log 102). -/
def Hw.evictable (h : Hw) : List (Nat × Nat × VSlot) :=
  let c := h.experts.filter (fun e => e.2.2.resident && e.2.2.refs == 0 && e.2.2.state != .retiring && !h.pinned e.1 e.2.1)
  let lo := c.foldl (fun m e => min m e.2.2.lastUse) 0
  sortBy (fun e => (e.2.2.lastUse - lo).toNat) c

/-- Granules that the cache can supply after every eviction that R91 permits (R219). -/
def Hw.cacheRoom (h : Hw) (i : ImageFile) : Nat := cacheGranules i + h.evictable.foldl (fun n e => n + e.2.2.need) 0 - h.cacheUsed

/-- How many of the requests wait for space: from the first that the room left by the earlier ones does not hold (R219). -/
def lackSpace : Nat → List Nat → Nat
  | _, [] => 0
  | room, n :: ns => if room < n then ns.length + 1 else lackSpace (room - n) ns

/-- Page-ins that wait for space, in decode order; those of DAMAGED versions do not (R219, R431). -/
def Hw.waitingPages (h : Hw) : Nat :=
  match h.ex.image with
  | none => 0
  | some i => lackSpace (h.cacheRoom i)
      ((h.cat.pageIns.filter (fun p => !p.admitted && !(h.vslot false p.idx p.slot).damaged)).map (fun p => (h.vslot false p.idx p.slot).need))

/-- Publish SNAP_PAGE with an epoch (R430 to R432). -/
def Hw.snapshot (h : Hw) (epoch : W64) : Hw :=
  { h with snap :=
    { epoch := epoch, pubCount := h.snap.pubCount + 1, gap := h.ex.gap, gapCount := h.ex.gapCount,
      devState := h.devState, streamLimit := BitVec.ofNat 11 h.capLimit, overCap := h.war.overCap,
      pwrCap := h.pwrCapNow.setWidth 2, ticksync := h.ts.ctlNow, policyEpoch := h.war.policyEpoch,
      ports := (List.range 16).foldl (fun t p =>
        let x := h.port p
        tput SnapPort.reset t p { ctl := x.ctlNow, fmt := x.fmtNow, mask := x.maskNow, state := BitVec.ofNat 8 x.state.code }) [],
      waitSpace := BitVec.ofNat 64 h.waitingPages, counters := h.cnt, ecc := h.mem.ecc,
      streams := h.ctxs.foldl (fun t e => tput Summary.reset t e.1 (h.summary e.1 e.2)) [] } }

/-! ### Faults -/

/-- The fault class of a fenced unit (R371). -/
def fenceClass : UnitKind → Nat
  | .tile => 0x01
  | .csu => 0x02
  | .lane => 0x03
  | .sampler => 0x04
  | .router => 0x05
  | _ => 0x06

/-- A fence that no valid entry covers plans SAFE with its fault class, which outlives a plan without one (R358, R370). -/
def Hw.planFenced (h : Hw) (u : UnitId) : Hw :=
  let cls := BitVec.ofNat 8 (fenceClass u.kind)
  { h with ex := { h.ex with safePlan := some (match h.ex.safePlan with | some c => if c = 0 then cls else c | none => cls) } }

/-- A fence that stands and that the image's degraded table does not cover (R369, R370). -/
def Hw.uncovered (h : Hw) : Option UnitId :=
  match h.ex.image with
  | none => none
  | some i => h.eng.fenced.find? (fun u => degradedEntry i u.kind (h.fencedLike u) == 0)

/-- Fence a unit under a case of R366; without a valid entry SAFE follows (R370). -/
def Hw.fence (h : Hw) (u : UnitId) (cause : Nat) : Hw :=
  if u ∈ h.eng.fenced then h
  else
    let h := { h with eng := { h.eng with fenced := h.eng.fenced ++ [u], fenceNew := h.eng.fenceNew ++ [(u, cause)] }
                      ex := { h.ex with fencedAny := true } }
    if h.fencesCovered then h else h.planFenced u

/-- The compute-fault history of a unit. -/
def Hw.histOf (h : Hw) (u : UnitId) : FaultHist :=
  (h.eng.hist.find? (fun x => x.who == u)).getD { who := u, ticks := [], count := 0, tries := 0, sram := [], unit := 0 }
def Hw.setHist (h : Hw) (x : FaultHist) : Hw :=
  { h with eng := { h.eng with hist := h.eng.hist.filter (fun y => y.who != x.who) ++ [x] } }

/-- Record a compute fault of a unit: 16 distinct ticks within 65,536 fence it at the next boundary (R366). -/
def Hw.computeFault (h : Hw) (u : UnitId) : Hw :=
  let x := h.histOf u
  let now : Int := h.ex.tick.toNat
  let ticks := if now ∈ x.ticks then x.ticks else (now :: x.ticks).filter (fun t => decide (now < t + 65536))
  let h := h.setHist { x with ticks := ticks }
  if decide (16 ≤ ticks.length) && !(h.eng.fenceDue.any (fun e => e.1 == u)) && !(u ∈ h.eng.fenced) then
    { h with eng := { h.eng with fenceDue := h.eng.fenceDue ++ [(u, 2)] } }
  else h

/-- A lane reissues a step: the tick's TRANSIENT entry counts it, as a fault and as an attempt (R133). -/
def Hw.reissued (h : Hw) (u : UnitId) (unit : Nat) : Hw :=
  let x := h.histOf u
  h.setHist { x with count := x.count + 1, tries := x.tries + 1, unit := unit }

/-- A fault that a replay cured is transient: counted with the replays that it took, one TRANSIENT entry per unit and tick
(R365, R383). -/
def Hw.transient (h : Hw) (u : UnitId) (unit tries : Nat) : Hw :=
  let x := h.histOf u
  let h := h.setHist { x with count := x.count + 1, tries := x.tries + tries, unit := unit }
  { h with cnt := { h.cnt with transient := h.cnt.transient + 1 } }

end Sys2Proof.Machine
end

