-- ==== Sys2Proof/Machine/Operands.lean ====
section
/-!
DEFINITION. The operand forms of descriptors: fields (R263 to R269), handles (R264), bindings (R267) and block lists
(R174 to R176).
-/
namespace Sys2Proof.Machine

/-! ### Descriptor fields -/

/-- The field of `n` bytes at byte offset `off`. -/
def dField (d : Desc) (off n : Nat) : Nat := d.toNat / 2 ^ (8 * off) % 2 ^ (8 * n)

def dOpcode (d : Desc) : Nat := dField d 0x00 1
def dFlags (d : Desc) : Nat := dField d 0x01 1
def dTag (d : Desc) : W32 := BitVec.ofNat 32 (dField d 0x04 4)
def dHandle (d : Desc) : W32 := BitVec.ofNat 32 (dField d 0x08 4)

/-- Opcodes (R263). -/
def opOpen : Nat := 0x01
def opFeed : Nat := 0x02
def opBind : Nat := 0x03
def opCtrl : Nat := 0x04
def opStop : Nat := 0x05
def opClose : Nat := 0x06
def opExport : Nat := 0x07
def opImport : Nat := 0x08
def opStage : Nat := 0x09
def opCommit : Nat := 0x0A
def opFence : Nat := 0x0B
def opGroup : Nat := 0x0C
def opAudio : Nat := 0x0D
def opRing : Nat := 0x0E

/-- A mask of the bits `m` at byte offset `off`. -/
def maskAt (off m : Nat) : Nat := m * 2 ^ (8 * off)

/-- All bits of `n` bytes. -/
def allBits (n : Nat) : Nat := 2 ^ (8 * n) - 1

/-- The bits that an opcode defines beside opcode, tag and handle: flags and body fields (R266, R269, R457). -/
def bodyMask (op flags param : Nat) : Nat :=
  match op with
  | 0x01 => maskAt 0x10 (allBits 22) + maskAt 0x26 0x87 + maskAt 0x27 0x03 + maskAt 0x28 0x801F + maskAt 0x2A 0x7F
            + maskAt 0x2B 0x7F + maskAt 0x30 (allBits 16)
  | 0x02 => maskAt 0x10 (allBits 20)
  | 0x03 => maskAt 0x10 0xFFFFFF + maskAt 0x18 (allBits 8)
  | 0x04 => maskAt 0x10 (allBits 2) + maskAt 0x14 (allBits 4) + (if param = 4 then maskAt 0x18 (allBits 8) else 0)
  | 0x05 => maskAt 0x01 0x01
  | 0x06 => maskAt 0x01 0x01
  | 0x07 => maskAt 0x01 0x03 + maskAt 0x10 (allBits 16)
  | 0x08 => maskAt 0x01 0x01 + maskAt 0x10 (allBits 21) + maskAt 0x26 0x801F + maskAt 0x28 0x7F + maskAt 0x29 0x7F
            + maskAt 0x30 (allBits 16)
  | 0x09 => maskAt 0x10 (allBits 12)
  | 0x0A => maskAt 0x10 (allBits 2) + maskAt 0x14 0x07FFFFFF + maskAt 0x18 (allBits 16)
  | 0x0B => maskAt 0x01 0x03
  | 0x0C => maskAt 0x01 0x01 + (if flags % 2 = 1 then maskAt 0x12 (allBits 2)
                                else maskAt 0x10 0x01 + maskAt 0x11 0xFF + maskAt 0x18 (allBits 8))
  | 0x0D => maskAt 0x01 0x01 + maskAt 0x10 (allBits 25)
  | 0x0E => maskAt 0x10 (allBits 12)
  | _ => 0

/-- A reserved bit is set. The handle's bits [15:10] are reserved (R264). -/
def dReserved (d : Desc) : Bool :=
  let known := maskAt 0x00 0xFF + maskAt 0x04 (allBits 4) + maskAt 0x08 0xFFFF03FF
               + bodyMask (dOpcode d) (dFlags d) (dField d 0x10 2)
  decide (d.toNat &&& (2 ^ 512 - 1 - known) ≠ 0)

/-- The opcodes whose handle field must be 0 (R263). -/
def zeroHandle (op : Nat) : Bool := op == opOpen || op == opStage || op == opCommit || op == opFence || op == opGroup

/-- A finite binary16. -/
def finite16 (x : F16) : Bool := !(val16 x).nonfinite

/-- |x| ≤ 16 for a finite binary16 (R268). -/
def atMost16 (x : F16) : Bool := decide (x.toNat % 0x8000 ≤ 0x4C00)

/-- A kind of reference binding is 0 to 2 (R267). -/
def bindOk (b : Nat) : Bool := decide (b % 4 ≠ 3)

/-- The ranges that need nothing but the descriptor (R265 to R269). A phase group that OPEN's flag does not name has no range
(DEDUCED, log 134). -/
def dRanges (d : Desc) : Bool :=
  match dOpcode d with
  | 0x01 => decide (dField d 0x24 1 ≤ 4) && decide (dField d 0x25 1 ≤ 4)
            && (!bitOf (dField d 0x26 1) 7 || decide (dField d 0x26 1 % 8 ≤ 4))
            && bindOk (dField d 0x2A 1) && bindOk (dField d 0x2B 1)
            && decide (dField d 0x30 8 % 64 = 0) && decide (dField d 0x38 8 % 4096 = 0)
  | 0x02 => decide (dField d 0x18 8 % 16 = 0) && decide (dField d 0x20 4 % 16 = 0)
  | 0x03 => decide (dField d 0x18 8 % 64 = 0)
  | 0x04 =>
    let v := dField d 0x14 4
    let h : F16 := BitVec.ofNat 16 v
    match dField d 0x10 2 with
    | 1 => decide (v < 65536) && finite16 h && (decide (v < 0x8000) || decide (v = 0x8000))
    | 2 => true
    | 3 => decide (v < 65536) && finite16 h && atMost16 h
    | 4 => decide (v = 0) && decide (dField d 0x18 8 % 64 = 0) && decide (dField d 0x18 8 ≠ 0)
    | 5 => decide (v < 128) && bindOk v
    | 6 => decide (v < 128) && bindOk v
    | 7 => decide (v < 65536) && decide (v % 32768 < 32)
    | _ => false
  | 0x07 => decide (dField d 0x10 8 % 4096 = 0)
  | 0x08 => decide (dField d 0x10 8 % 4096 = 0) && decide (dField d 0x24 1 ≤ 4)
            && bindOk (dField d 0x28 1) && bindOk (dField d 0x29 1)
            && decide (dField d 0x30 8 % 64 = 0) && decide (dField d 0x38 8 % 4096 = 0)
  | 0x09 => decide (dField d 0x10 8 % 16 = 0) && decide (dField d 0x18 4 % 16 = 0)
  | 0x0A => (decide (dField d 0x10 2 = 1) && decide (dField d 0x14 4 = 0)) || decide (dField d 0x10 2 = 2)
  | 0x0C => if bitOf (dFlags d) 0 then decide (dField d 0x12 2 < 64)
            else decide (2 ≤ dField d 0x11 1) && decide (dField d 0x11 1 ≤ 32) && decide (dField d 0x18 8 % 64 = 0)
  | 0x0D => decide (dField d 0x18 8 % 16 = 0) && decide (dField d 0x20 4 % 16 = 0) && decide (dField d 0x28 1 ≤ 2)
  | 0x0E => decide (dField d 0x10 8 % 16 = 0) && decide (dField d 0x18 4 % 16 = 0)
  | _ => true

/-- The checks on the descriptor alone: opcode, reserved bits, the zero handle, ranges (R264, R265). -/
def dFormatOk (d : Desc) : Bool :=
  decide (1 ≤ dOpcode d) && decide (dOpcode d ≤ 0x0E) && !dReserved d
  && (!zeroHandle (dOpcode d) || dHandle d == 0) && dRanges d

/-! ### Handles -/

/-- The stream a handle names, for an owner: open with that incarnation and of that owner (R239, R264). -/
def Hw.lookup (h : Hw) (owner : W16) (w : W32) : Option (Nat × Stream) :=
  let c := w.toNat % 1024
  match h.stream c with
  | some s => if w == s.handle c && s.owner == owner then some (c, s) else none
  | none => none

/-! ### Routing and reference bindings (R267, R172, R307) -/

/-- A port's direction, rate code and live mask in force. -/
def Port.isOutput (p : Port) : Bool := bitOf p.ctlNow.toNat 1
def Port.rate (p : Port) : Nat := p.ctlNow.toNat / 8 % 8
def Port.live (p : Port) (s : Nat) : Bool := bitOf p.maskNow.toNat s
def Port.enabled (p : Port) : Bool := bitOf p.ctlNow.toNat 0
def Port.slave (p : Port) : Bool := bitOf p.ctlNow.toNat 2
/-- Slot width W in bits (R301). -/
def Port.width (p : Port) : Nat := match p.fmtNow.toNat % 4 with | 0 => 16 | 1 => 24 | _ => 32
/-- N of the port's rate. -/
def Port.n (p : Port) : Nat := rateN p.rate

/-- A routing field: port and slot, when routed. -/
def routeOf (x : Nat) : Option (Nat × Nat) := if bitOf x 15 then some (x % 16, x / 16 % 2) else none

/-- A routed port is an output at the stream's rate, and the slot is live. -/
def Hw.routeOk (h : Hw) (rate : Nat) (r : Option (Nat × Nat)) : Bool :=
  match r with
  | none => true
  | some (p, s) => (h.port p).isOutput && (h.port p).rate == rate && (h.port p).live s

/-- A reference binding byte. -/
def bindOf (x : Nat) : RefBind :=
  match x % 4 with
  | 1 => .port (x / 4 % 16) (x / 64 % 2)
  | 2 => .audio
  | _ => .none

/-- A bound port is an input at the stream's rate, and the slot is live. -/
def Hw.refOk (h : Hw) (rate : Nat) (b : RefBind) : Bool :=
  match b with
  | .port p s => !(h.port p).isOutput && (h.port p).rate == rate && (h.port p).live s
  | _ => true

/-- The source kind of a binding (R170). -/
def refKind : RefBind → BitVec 2
  | .none => 0
  | .port _ _ => 1
  | .audio => 2

/-! ### Block lists (R174 to R176) -/

/-- A data entry of a list. -/
structure BlockEntry where
  addr : W64
  length : Nat
  eou : Bool
  deriving DecidableEq, Repr

/-- What a list describes. -/
inductive ListKind where
  | feature (frame : Nat) | audio (container : Nat) | output | package
  deriving DecidableEq, Repr

/-- The length rule of a kind. -/
def lengthOk : ListKind → Nat → Bool
  | .feature f, n => decide (n % f = 0)
  | .audio c, n => decide (n % c = 0)
  | .output, n => decide (4096 ≤ n) && decide (n ≤ 0x1000000) && decide (n % 64 = 0)
  | .package, _ => true

/-- Entry fields (R174). -/
def eAddr (e : BitVec 128) : Nat := e.toNat % 2 ^ 64
def eLen (e : BitVec 128) : Nat := e.toNat / 2 ^ 64 % 2 ^ 32
def eBit (e : BitVec 128) (k : Nat) : Bool := bitOf e.toNat k

/-- What reading one segment ends in. -/
inductive SegEnd where
  | bad | last | link (len : Nat)
  deriving DecidableEq, Repr

/-- Read the entries of one segment up to its last or link entry. An eou mark on a block of length 0 makes the list bad (DESIGN
CHOICE, log 121). -/
def readSegment (k : ListKind) : List (BitVec 128) → List BlockEntry → List BlockEntry × SegEnd
  | [], acc => (acc, .bad)
  | e :: r, acc =>
    if e.toNat / 2 ^ 99 ≠ 0 then (acc, .bad)
    else if eBit e 97 then
      if eBit e 96 || eBit e 98 || decide (eAddr e % 16 ≠ 0) || decide (eLen e % 16 ≠ 0) then (acc, .bad)
      else (acc, .link (eLen e))
    else
      let feature := match k with | .feature _ => true | _ => false
      if (eBit e 98 && (!feature || decide (eLen e = 0))) || decide (eAddr e % 64 ≠ 0) || !lengthOk k (eLen e) then (acc, .bad)
      else
        let acc := acc ++ [{ addr := BitVec.ofNat 64 (eAddr e), length := eLen e, eou := eBit e 98 }]
        if decide (4096 < acc.length) then (acc, .bad)
        else if eBit e 96 then (acc, .last) else readSegment k r acc

/-- Walk the segments: at most 4,096 data entries and 4,096 links, ending at a last entry (R175). -/
def walkList (k : ListKind) : Nat → Nat → Segments → List BlockEntry → Option (List BlockEntry)
  | 0, _, _, _ => none
  | _ + 1, _, [], _ => none
  | fuel + 1, len, seg :: rest, acc =>
    match readSegment k (seg.take (len / 16)) acc with
    | (_, .bad) => none
    | (acc, .last) => some acc
    | (acc, .link n) => walkList k fuel n rest acc

/-- The data entries of a list whose first segment has `len` bytes; none where R175 rejects it. -/
def readList (k : ListKind) (len : Nat) (segs : Segments) : Option (List BlockEntry) := walkList k 4097 len segs []

/-- The frames of a feature list: whole frames of Fw values, the last frame of an eou block marked (R176). -/
def listFrames (fw frame : Nat) (bs : List BlockEntry) (data : List (List F16)) : List FeatFrame :=
  let marks := bs.flatMap (fun b => (List.range (b.length / frame)).map (fun i => b.eou && decide (i + 1 = b.length / frame)))
  marks.zipIdx.map (fun e => { values := (nth [] data e.2 ++ List.replicate fw 0).take fw, eou := e.1 })

end Sys2Proof.Machine
end

