-- ==== Sys2Proof/Machine/Streams.lean ====
section
/-!
DEFINITION. The shared operations on a stream: its feature area, selection, utterance end, ring, group, lane slot and
state record.
-/
namespace Sys2Proof.Machine

/-! ### Feature area (R279, R83, R214) -/

/-- ⌈n ÷ Lc⌉ × Lc. -/
def upLc (lc n : Nat) : Nat := ceilDiv n lc * lc

/-- Place the raw frames from rawPos up to and including the first mark, when no mark bounds the utterance yet (R279). -/
def placeFrames (a : FeatArea) : FeatArea :=
  match a.eou with
  | some _ => a
  | none =>
    match a.raw.findIdx? (fun f => f.eou) with
    | some i => { a with positioned := i + 1, eou := some (a.rawPos + i) }
    | none => { a with positioned := a.raw.length }

/-- The position the next fed frame takes, each unfinished utterance ending at its mark (R271; DEDUCED, log 10). -/
def nextFeedPos (lc : Nat) (a : FeatArea) : Nat :=
  let start := match a.eou with
    | some e => (upLc lc (e + 1), a.raw.drop a.positioned)
    | none => (a.rawPos, a.raw)
  start.2.foldl (fun p f => if f.eou then upLc lc (p + 1) else p + 1) start.1

/-- Bytes the area holds: raw frames and kept outputs, each padded to 64 B. -/
def areaBytes (i : ImageFile) (a : FeatArea) : Nat :=
  a.raw.length * frameBytes i + a.outs.foldl (fun n o => n + up64 (2 * o.2.length)) 0

/-- Whether `n` more frames fit the feature area beside the conditioning history's part of it (R155, R214). -/
def areaRoom (i : ImageFile) (a : FeatArea) (n : Nat) : Bool :=
  decide (areaBytes i a + n * frameBytes i + historyPart i ≤ i.parts.dir.featureArea)

/-- The next chunk when it is ready: its first position and its length (R83). -/
def readyChunk (lc : Nat) (a : FeatArea) : Option (Nat × Nat) :=
  let last := a.rawPos / lc * lc + lc
  let want := match a.eou with
    | some e => min last (e + 1) - a.rawPos
    | none => last - a.rawPos
  if decide (0 < want) && decide (want ≤ a.positioned) then some (a.rawPos, want) else none

/-- The ready chunks that follow one another from a position, by first position: the whole chunks of the frames that hold
positions, and the short last chunk at a mark (R83, R84). -/
def readyFrom (lc : Nat) (eou : Option Nat) : Nat → Nat → Nat → List Nat
  | 0, _, _ => []
  | fuel + 1, p, held =>
    let last := p / lc * lc + lc
    let want := match eou with
      | some e => min last (e + 1) - p
      | none => last - p
    if decide (0 < want) && decide (want ≤ held) then p :: readyFrom lc eou fuel (p + want) (held - want) else []

def readyChunks (lc : Nat) (a : FeatArea) : List Nat := readyFrom lc a.eou (a.positioned + 1) a.rawPos a.positioned

/-- The feature position that frame `f` reads: min(f + Lf, e) (R278). -/
def readPos (lf : Nat) (a : FeatArea) (f : Nat) : Nat :=
  match a.eou with
  | some e => min (f + lf) e
  | none => f + lf

/-- The stored output of a position. -/
def areaOut (a : FeatArea) (p : Nat) : Option (List F16) := (a.outs.find? (fun o => o.1 == p)).map Prod.snd

def feOf (h : Hw) : FeTable :=
  match h.ex.image with
  | some i => i.parts.fe
  | none => { featureMillions := 0, chunk := 64, allowance := 0, lookAhead := 0, attnLayers := 0, window := 0, kvHeads := 0,
              headDim := 128, qPerKv := 0, codebooks := 0, tokenBits := 0, layers := [] }

/-! ### Selection and page-ins (R88, R89, R91) -/

/-- A variant's router score; an absent one scores NaN (R88, R216). -/
def variantScore (v : Variant) (style : List F16) : F32 :=
  if v.present then r59Dot 0 v.key (style.take 64) else nan32

/-- The variant that R88 selects for a voice and style: none where no variant is present. -/
def Hw.selectVariant (h : Hw) (voice : Nat) (style : List F16) : Option Nat :=
  let vs := (List.range 8).map (fun k => (k, h.voice (voice * 8 + k)))
  if vs.any (fun e => e.2.present) then
    match bestScore ((vs.filter (fun e => e.2.present)).map (fun e => (e.1, variantScore e.2 style))) with
    | some k => some k
    | none => (vs.find? (fun e => e.2.present)).map Prod.fst
  else none

/-- Request the page-in of a version that is not resident and not yet requested (R89). -/
def Hw.requestPage (h : Hw) (idx slot : Nat) : Hw :=
  let v := h.vslot false idx slot
  if v.resident || h.cat.pageIns.any (fun p => p.idx == idx && p.slot == slot) then h
  else { h with cat := { h.cat with pageIns := h.cat.pageIns ++ [{ idx := idx, slot := slot, admitted := false }] } }

/-- Request the CURRENT version of a catalogue index. -/
def Hw.requestCurrent (h : Hw) (idx : Nat) : Hw :=
  match (h.voice idx).currentSlot with
  | some k => h.requestPage idx k
  | none => h

/-- Give up the selection that a stream holds, with its reference (R223). -/
def Hw.dropSelection (h : Hw) (c : Nat) : Hw :=
  match h.stream c with
  | none => h
  | some s =>
    let h := match s.pinnedSel with
      | some (i, k) => h.dropRef false i k
      | none => h
    h.setStream c { s with selected := none, pinnedSel := none }

/-- Select for the stream's next utterance: the bound voice's best variant, counted and requested (R88, R89, R223). -/
def Hw.reselect (h : Hw) (c : Nat) : Hw :=
  let h := h.dropSelection c
  match h.stream c with
  | none => h
  | some s =>
    match s.voiceNext with
    | none => h
    | some v =>
      match h.selectVariant v.toNat s.bank.utt.style with
      | none => h
      | some k =>
        let idx := v.toNat * 8 + k
        match (h.voice idx).currentSlot with
        | none => h.setStream c { s with selected := some idx }
        | some j => ((h.setStream c { s with selected := some idx, pinnedSel := some (idx, j) }).addRef false idx j).requestPage idx j

/-- A version with no reference that is RETIRING becomes FREE: its granules, its near copy and its page-in go (R223). -/
def Hw.freeVersion (h : Hw) (trunk : Bool) (idx slot : Nat) : Hw :=
  let v := h.vslot trunk idx slot
  if v.state == .retiring && v.refs == 0 then
    let h := h.setVslot trunk idx slot VSlot.reset
    { h with cat := { h.cat with pageIns := h.cat.pageIns.filter (fun p => trunk || p.idx != idx || p.slot != slot) } }
  else h

/-- Free every unreferenced RETIRING version (R223). -/
def Hw.freeVersions (h : Hw) : Hw :=
  let h := [0, 1, 2].foldl (fun a k => a.freeVersion true 0 k) h
  (h.cat.voices.map Prod.fst).foldl (fun a i => (a.freeVersion false i 0).freeVersion false i 1) h

/-- Release what an utterance holds bound, and the switches that wait (R223, R287). -/
def Hw.unbind (h : Hw) (c : Nat) : Hw :=
  match h.stream c with
  | none => h
  | some s =>
    let h := match s.bound with
      | some b => (h.dropRef true 0 b.trunk).dropRef false b.idx b.slot
      | none => h
    let h := match s.toTrunk with
      | some k => h.dropRef true 0 k
      | none => h
    let h := match s.toExpert with
      | some (i, k) => h.dropRef false i k
      | none => h
    h.setStream c { s with bound := none, toTrunk := none, toExpert := none }

/-! ### The tick's work -/

def LaneWork.empty : LaneWork := { sample := 0, step := 0, outs := [], inFlight := false, saturated := [] }

def TickWork.empty : TickWork :=
  { advance := false, begins := false, row := 0, trunkRank := 0, expertRank := 0, switched := 0, run := false, spill := none, ringLate := false,
    chunk := none, chunkRank := 0, chunkRow := 0, chunkOuts := [], chunkRecs := [], layers := [], cover := [], scanOuts := [], lane := .empty, samples := [],
    copied := false, cancelled := false, drift := none, checks := [], ssm := [] }

/-- The output run is synthesised in this tick. -/
def Stream.synth (s : Stream) : Bool := s.work.run && s.speaking && !s.work.begins && s.work.spill.isNone

/-- Carried Sample Engine state at an utterance's first sample: utterance-scope histories give way to padding and
utterance-scope scans start at +0 (R112, R152). -/
def freshSample (i : ImageFile) (p : SamplePart) : SamplePart :=
  { p with
    hist := p.hist.filter (fun e => match i.parts.csu[e.1]? with | some l => !l.utterance | none => false)
    scans := p.scans.filter (fun e => match i.parts.recs[e.1]? with | some r => !r.utterance | none => false) }

/-! ### The output ring (R292, R293) -/

/-- Bytes of one run: N × b rounded up to 64 B (R292). -/
def runBytes (s : Stream) : Nat := ceilDiv (s.n * bytesPerSample s.fmt) 64 * 64

/-- The RING_OUT that supplies the next block, and the block's index in its list. -/
def OutRing.next (r : OutRing) : Option (RingDesc × Nat) :=
  (r.descs.find? (fun d => decide (d.used < d.blocks.length))).map (fun d => (d, d.used))

/-- The run fits the open block before its trailer. -/
def blockFits (b : OpenBlock) (n : Nat) : Bool := decide (b.offset + n ≤ b.length - 64)

/-- There is room for a run (R176, R178). -/
def OutRing.room (r : OutRing) (n : Nat) : Bool :=
  (match r.block with | some b => blockFits b n | none => false) || r.next.isSome

/-- The RING_OUT that holds the open block: the one whose used blocks end with it. -/
def OutRing.holder (r : OutRing) : Option RingDesc := r.descs.find? (fun d => decide (0 < d.used))

/-- A block trailer (R293). -/
def trailerBytes (s : Stream) (b : OpenBlock) (tag : W32) (closed : Bool) : List Byte :=
  natBytesLE 4 0x49484F54 ++ natBytesLE 4 b.runs ++ natBytesLE 8 b.firstSample.toNat ++ natBytesLE 8 b.firstEpoch.toNat
  ++ natBytesLE 8 b.lastEpoch.toNat
  ++ natBytesLE 4 (b2n b.fill + b2n b.begins * 2 + b2n b.ends * 4 + b2n closed * 8 + b2n b.gap * 16)
  ++ natBytesLE 1 s.fmt ++ natBytesLE 1 s.rate ++ natBytesLE 2 0 ++ natBytesLE 4 tag.toNat ++ natBytesLE 4 b.index
  ++ List.replicate 16 0

/-- Complete a RING_OUT: blocks used, and the index after its last sample or the stream's next index (R271). -/
def Hw.finishRing (h : Hw) (c : Nat) (s : Stream) (d : RingDesc) : Hw :=
  h.complete d.q d.seq opRing d.tag (s.handle c) stDone d.used (d.lastIndex.getD s.idx)

/-- Close the open block: write its trailer, and complete the RING_OUT whose last block it is (R293, R271). -/
def Hw.closeBlock (h : Hw) (c : Nat) (closed : Bool) : Hw :=
  match h.stream c with
  | none => h
  | some s =>
    match s.ring.block with
    | none => h
    | some b =>
      let holder := s.ring.holder
      let tag := match holder with | some d => d.tag | none => 0
      let w := HostWrite.bytes (b.addr + BitVec.ofNat 64 (b.length - 64)) (trailerBytes s b tag closed) false
      let h := { h with rings := { h.rings with trailers := h.rings.trailers ++ [w] } }
      match holder with
      | some d =>
        if d.used = d.blocks.length then
          (h.finishRing c s d).setStream c { s with ring := { s.ring with block := none, descs := s.ring.descs.filter (fun e => e.seq != d.seq) } }
        else h.setStream c { s with ring := { s.ring with block := none } }
      | none => h.setStream c { s with ring := { s.ring with block := none } }

/-- End the ring: close the open block and complete every RING_OUT with its blocks used (R271, R293). -/
def Hw.endRing (h : Hw) (c : Nat) : Hw :=
  let h := h.closeBlock c true
  match h.stream c with
  | none => h
  | some s =>
    let h := s.ring.descs.foldl (fun a d => a.finishRing c s d) h
    h.setStream c { s with ring := { descs := [], block := none, gap := false } }

/-! ### Output gate (R281, R310) -/

/-- Samples of the context that wait in a port: the frames of the playing run not yet formed and the run that plays next. -/
def portHeld (p : Port) (c : Nat) : Nat :=
  (p.fifo.filter (fun e => e.1 == c)).foldl (fun a e => a + (e.2.2.length - p.frameNo)) 0
  + (p.fifoNext.filter (fun e => e.1 == c)).foldl (fun a e => a + e.2.2.length) 0

/-- A port without the samples of the context. Under flush the words of its queue are formed again without the stream, on
the slots that it plays on: those its samples wait for and that of its route (R281, R310). -/
def gatePort (c : Nat) (flush : Bool) (route : Option Nat) (x : Port) : Port :=
  let gone (l : List (Nat × Nat × List F32)) := l.filter (fun e => e.1 != c)
  let mine (sl : Nat) : Bool := route == some sl || x.fifo.any (fun e => e.1 == c && e.2.1 == sl)
  let base := x.frameNo - x.outQueue.length / 2
  let word (e : Nat × Int) (k : Nat) : Nat × Int :=
    if mine e.1 then
      (e.1, slotWord x.width (((gone x.fifo).filter (fun z => z.2.1 == e.1)).map (fun z => nth 0 z.2.2 (base + k / 2))))
    else e
  let queue := if flush then (x.outQueue.zipIdx).map (fun e => word e.1 e.2) else x.outQueue
  { x with fifo := gone x.fifo, fifoNext := gone x.fifoNext, outQueue := queue }

/-- Close the stream's output gate: what waits in a port is not played and is counted. A stream whose route a CTRL has
changed can have samples in the port that it left (R281, R310). -/
def Hw.closeGate (h : Hw) (c : Nat) (flush : Bool) : Hw :=
  match h.stream c with
  | none => h
  | some s =>
    if s.gated && !flush then h
    else
      let held := (List.range 16).foldl (fun n p => n + portHeld (h.port p) c) 0
      let slot (p : Nat) : Option Nat := match s.route with | some (q, sl) => if q = p then some sl else none | none => none
      (List.range 16).foldl (fun a p => if portHeld (h.port p) c = 0 && (slot p).isNone then a else a.modPort p (gatePort c flush (slot p)))
        (h.setStream c { s with gated := true, gatedCount := s.gatedCount + held })

/-! ### FEEDs that a STOP ends (R280) -/

/-- A FEED of the handle decoded before sequence number `seq`. -/
def feedBefore (w : W32) (seq : Nat) (a : Admitted) : Bool :=
  dOpcode a.desc == opFeed && dHandle a.desc == w && decide (a.seq < seq)

/-- Complete an admitted descriptor with both details 0. -/
def Hw.finish0 (h : Hw) (a : Admitted) (status : Nat) : Hw :=
  h.complete a.q a.seq (dOpcode a.desc) (dTag a.desc) (dHandle a.desc) status 0 0

/-- Complete an admitted descriptor with its details. -/
def Hw.finish (h : Hw) (a : Admitted) (handle : W32) (d0 : Nat) (d1 : W64) : Hw :=
  h.complete a.q a.seq (dOpcode a.desc) (dTag a.desc) handle stDone d0 d1

/-- Every FEED of the stream decoded before the STOP and not yet completed completes with ABORTED: those admitted, queued,
held, or copied in this tick, a held one under the handle of an earlier incarnation (R280, R282). -/
def Hw.abortFeeds (h : Hw) (c : Nat) (seq : Nat) : Hw :=
  match h.stream c with
  | none => h
  | some s =>
    let w := s.handle c
    let ab (p : Pending) : Pending :=
      if p.r.kind == 0x02#8 && decide (p.r.handle.toNat % 1024 = c) && p.r.status == 0#8 && decide (p.seq < seq) then
        { p with r := { p.r with status := BitVec.ofNat 8 stAborted, detail0 := 0, detail1 := 0 } }
      else p
    let gone := h.rings.admitted.filter (feedBefore w seq) ++ ((s.held ++ s.queued).map (fun f => f.a)).filter (fun a => decide (a.seq < seq))
    let h := { h with rings := { h.rings with
        done := h.rings.done.map ab
        admitted := h.rings.admitted.filter (fun a => !feedBefore w seq a) } }
    let h := gone.foldl (fun a f => (a.markApplied f.seq 7).finish0 f stAborted) h
    let keep (l : List WaitFeed) := l.filter (fun f => !decide (f.a.seq < seq))
    h.setStream c { s with queued := keep s.queued, held := keep s.held }

/-! ### Utterance end (R278 to R280) -/

/-- The utterance of a stream ends: UTTERANCE_END, the next feature position and frame index, the frames that waited
beyond its mark placed, its versions released, and the selection for the next utterance (R279, R223). -/
def Hw.endUtterance (h : Hw) (c : Nat) (aborted : Bool) : Hw :=
  match h.stream c with
  | none => h
  | some s =>
    let lc := (feOf h).chunk
    let p1 := s.area.rawPos + (match s.work.chunk with | some (_, n) => if aborted then n else 0 | none => 0)
    let next := upLc lc p1
    let raw := if aborted then [] else s.area.raw.drop s.area.positioned
    let area := placeFrames { outs := [], raw := raw, rawPos := next, positioned := 0, eou := none }
    let number := (s.bank.utt.uttNumber.toNat + b2n (s.work.begins && aborted)) % 65536
    let h := h.event c s 0x81 (if aborted then stAborted else stDone) number s.delivered
    let utt := { s.bank.utt with
      midUtt := false, nextFeature := BitVec.ofNat 32 next, voice := s.voiceNext
      uttNumber := if s.work.begins && aborted then s.bank.utt.uttNumber + 1 else s.bank.utt.uttNumber }
    let b := s.bank
    let bank := { b with
      utt := utt, frame := { b.frame with nextFrame := BitVec.ofNat 32 next }, sample := { b.sample with fifths := 5 }
      chunk := { b.chunk with nextChunkPos := next } }
    let h := h.setStream c { s with life := .idle, bank := bank, wbank := bank, area := area, ready := [] }
    (h.unbind c).reselect c

/-! ### Groups (R183) -/

/-- A stream leaves its group; a group left with fewer than 2 members dissolves (R183). -/
def Hw.leaveGroup (h : Hw) (c : Nat) : Hw :=
  match h.stream c with
  | none => h
  | some s =>
    match s.group with
    | none => h
    | some g =>
      let h := h.setStream c { s with group := none }
      match h.group g with
      | none => h
      | some x =>
        let left := x.members.filter (fun m => m != c)
        if left.length < 2 then (left.foldl (fun a m => a.modStream m (fun t => { t with group := none })) h).setGroup g none
        else h.setGroup g (some { x with members := left })

/-! ### Lane slots (R136, R137) -/

/-- Slots in use on a lane: streams' slots and slots being emptied. -/
def Hw.usedSlots (h : Hw) (l : Nat) : List Nat :=
  h.ctxs.filterMap (fun e => match e.2.lane with | some x => if x.lane = l then some x.slot else none | none => none)
  ++ (h.eng.leaving.filter (fun e => e.1 == l)).map Prod.snd

/-- Issuing and incoming contexts of a lane. -/
def Hw.laneLoad (h : Hw) (l : Nat) : Nat :=
  (h.ctxs.filter (fun e => match e.2.lane with | some x => x.lane == l && x.mode != .leaving | none => false)).length

/-- The lane slot that R136 places a stream on. -/
def Hw.placeLane (h : Hw) : Option LaneSlot :=
  let live := (List.range 24).filter (fun l => !(⟨.lane, l⟩ : UnitId) ∈ h.eng.fenced && decide ((h.usedSlots l).length < 48))
  match live with
  | [] => none
  | l0 :: r =>
    let best := r.foldl (fun a l => if h.laneLoad l < h.laneLoad a then l else a) l0
    ((List.range 48).find? (fun k => !(k ∈ h.usedSlots best))).map (fun k => { lane := best, slot := k, mode := .transition })

/-- Give up the stream's lane slot: it is free from the next boundary (R137). -/
def Hw.leaveLane (h : Hw) (c : Nat) : Hw :=
  match h.stream c with
  | none => h
  | some s =>
    match s.lane with
    | none => h
    | some x => { (h.setStream c { s with lane := none }) with eng := { h.eng with leaving := h.eng.leaving ++ [(x.lane, x.slot)] } }

/-! ### AUDIO_INs that wait (R173) -/

/-- AUDIO_INs still waiting for their first window complete with ABORTED (R173). -/
def Hw.abortAudio (h : Hw) (c : Nat) : Hw :=
  match h.stream c with
  | none => h
  | some s =>
    let h := (s.audio.filter (fun a => !a.opened)).foldl (fun x a => x.complete a.q a.seq opAudio a.tag a.handle stAborted 0 0) h
    h.setStream c { s with audio := [] }

/-! ### State records (R139 to R143, R154, R284) -/

/-- The next-phase offset: ticks from tick `t` to the stream's next phase tick (R19, R140). -/
def nextPhase (s : Stream) (t : W64) : Nat := (s.phase + 5 - t.toNat % 5) % 5

/-- The state record and feature appendix of a stream, from a bank, with `t` the tick after the last output tick. -/
def Hw.mkRecord (h : Hw) (s : Stream) (bank : Bank) (t : W64) (rebuild : Bool) : StateRecord :=
  let i := h.ex.image
  let len := match i with
    | some x => if rebuild then rebuildBytes x s.history.frames.length else recordBytes x
    | none => 0
  let grp := match s.group with | some g => h.group g | none => none
  { format := 1, length := BitVec.ofNat 32 (len / 4096), imageHash := match i with | some x => hash16 (imgHash x) | none => 0,
    stream := s.ident, seed := s.seed, rate := BitVec.ofNat 8 s.rate, rebuild := rebuild, immediate := s.immediate,
    fade := if s.fade then 1 else 0, hold := match grp with | some g => g.hold | none => false, grouped := s.group.isSome,
    next := nextPhase s t, bank := bank, history := s.history, appendix := s.area, magic := 0x49484641, fits := true }

/-- The record's length in 4 KiB units. -/
def recUnits (r : StateRecord) : Nat := r.length.toNat

end Sys2Proof.Machine
end

