-- ==== Sys2Proof/Machine/Records.lean ====
section
/-!
DEFINITION. The bytes of a state record and its feature appendix: how EXPORT and an eviction lay them out, and how IMPORT
reads them (R86, R106, R107, R139 to R143, R154, R155, R167, R170, R181, R284). Where the spec names the content of a
region and no order inside it, the order is the model's (DESIGN CHOICE, log 75).
-/
namespace Sys2Proof.Machine

/-! ### Bytes of a buffer -/

/-- The listed bytes of `bs` from an offset upward: zero bytes are not listed. -/
def cells (off : Nat) (bs : List Byte) : Bytes := (bs.zipIdx.map (fun e => (off + e.2, e.1))).filter (fun e => e.2 != 0)

/-- Sections in ascending order, each at its offset. -/
def image (parts : List (Nat × List Byte)) : Bytes := parts.flatMap (fun e => cells e.1 e.2)

/-- Lay byte lists one after the other from an offset: the parts, and the offset after them. -/
def stack : Nat → List (List Byte) → List (Nat × List Byte)
  | _, [] => []
  | off, b :: r => (off, b) :: stack (off + b.length) r

/-- A little-endian field of a buffer. -/
def leAt (b : Bytes) (off n : Nat) : Nat := bytesToNatLE (readN b off n)

def f16At (b : Bytes) (off : Nat) : F16 := BitVec.ofNat 16 (leAt b off 2)
def f32At (b : Bytes) (off : Nat) : F32 := BitVec.ofNat 32 (leAt b off 4)

/-- Consecutive binary16 values of a buffer. -/
def f16sAt (b : Bytes) (off n : Nat) : List F16 := (List.range n).map (fun k => f16At b (off + 2 * k))

/-! ### Polder entries (R167, R170) -/

/-- A conditioning polder entry, 1,088 bytes (R167). -/
def condEntryBytes (cd : Nat) (e : CondEntry) : List Byte :=
  padTo 1088 (natBytesLE 4 e.frame.toNat ++ natBytesLE 2 (b2n e.valid + 2 * b2n e.first + 4 * b2n e.lastFrame) ++ natBytesLE 2 cd
    ++ List.replicate 56 0 ++ f16Bytes ((e.values ++ List.replicate cd 0).take cd))

/-- The entry that 1,088 bytes hold. -/
def readCond (cd : Nat) (b : Bytes) (off : Nat) : CondEntry :=
  let f := leAt b (off + 4) 2
  { frame := BitVec.ofNat 32 (leAt b off 4), valid := bitOf f 0, first := bitOf f 1, lastFrame := bitOf f 2,
    values := f16sAt b (off + 0x40) cd }

/-- A feedback slot's 32 features; an invalid slot holds +0.0 (R170). -/
def slotValues (x : FeedSlot) : List F16 := (x.getD []).take 32 ++ List.replicate (32 - (x.getD []).length) 0

/-- The 1,024 bytes of a feedback vector (R170). -/
def feedbackBytes (f : Feedback) : List Byte :=
  let valid (l : List FeedSlot) : Nat := (List.range 5).foldl (fun a k => a + (if (nth none l k).isSome then 2 ^ k else 0)) 0
  let slots (l : List FeedSlot) : List Byte := (List.range 5).flatMap (fun k => f16Bytes (slotValues (nth none l k)))
  natBytesLE 2 (valid f.out + valid f.refA * 32 + valid f.refB * 1024) ++ natBytesLE 2 (f.kindA.toNat + f.kindB.toNat * 4)
  ++ List.replicate 60 0 ++ slots f.out ++ slots f.refA ++ slots f.refB

/-- The feedback vector that 1,024 bytes hold. -/
def readFeedback (b : Bytes) (off : Nat) : Feedback :=
  let valid := leAt b off 2
  let slots (bit base : Nat) : List FeedSlot :=
    (List.range 5).map (fun k => if bitOf valid (bit + k) then some (f16sAt b (off + base + 64 * k) 32) else none)
  let kinds := leAt b (off + 2) 2
  { out := slots 0 0x40, refA := slots 5 0x180, refB := slots 10 0x2C0, kindA := BitVec.ofNat 2 kinds, kindB := BitVec.ofNat 2 (kinds / 4) }

/-! ### State words (R61, R128, R139, R141) -/

/-- Bytes of a stored word. -/
def wordBytes (p : Prec) : Nat := match p with | .s16 => 2 | .s16c => 4

/-- Stored words, hi before lo (R141); +0 where none were written. -/
def wordsBytes (p : Prec) (n : Nat) (ws : List W32) : List Byte :=
  (List.range n).flatMap (fun k => natBytesLE (wordBytes p) ((nth 0 ws k).toNat % 2 ^ (8 * wordBytes p)))

def readWords (p : Prec) (n : Nat) (b : Bytes) (off : Nat) : List W32 :=
  (List.range n).map (fun k => BitVec.ofNat 32 (leAt b (off + wordBytes p * k) (wordBytes p)))

/-- The recurrences whose states a region holds, in image order. -/
def recsIn (i : ImageFile) (f : RecKind → Bool) : List (Nat × Recurrence) :=
  (i.parts.recs.zipIdx.map (fun e => (e.2, e.1))).filter (fun e => f e.2.kind)

def recBytes (r : Recurrence) : Nat := wordBytes r.prec * r.channels

/-- The states of recurrences one after the other. -/
def scansBytes (rs : List (Nat × Recurrence)) (t : Table (List W32)) : List Byte :=
  rs.flatMap (fun e => wordsBytes e.2.prec e.2.channels (tget [] t e.1))

/-- Read the states of recurrences that stand one after the other. -/
def readScans : List (Nat × Recurrence) → Bytes → Nat → Table (List W32) → Table (List W32)
  | [], _, _, t => t
  | e :: r, b, off, t => readScans r b (off + recBytes e.2) (tput [] t e.1 (readWords e.2.prec e.2.channels b off))

/-- Width and precision of a lane state area: those of the steps that name it (R128). -/
def areaShape (i : ImageFile) (a : Nat) : Option (Nat × Prec) :=
  (i.parts.lane.find? (fun x => x.gated && x.area == a)).map (fun x => (x.width, x.prec))

/-! ### The regions -/

/-- The lane-slot image (R141). -/
def laneImage (i : ImageFile) (p : SamplePart) : List Byte :=
  ((List.range 8).flatMap (fun a => padTo 768 (match areaShape i a with
    | some (d, pr) => wordsBytes pr d (tget [] p.areas a)
    | none => [])))
  ++ f16Bytes ((List.range 256).map (fun k => tget 0 p.persist k)) ++ List.replicate 1536 0

/-- The codes and scales of a key or value head; nothing written reads as zeros. -/
def headCodes (n : Nat) (gs : List QuantGroup) : List Byte := padTo n (gs.flatMap (fun g => g.codes))
def headScales (n : Nat) (gs : List QuantGroup) : List Byte := padTo n (gs.map (fun g => g.scale))

/-- Groups of a head dimension (R86). -/
def headGroups (fe : FeTable) : Nat := ceilDiv fe.headDim 64

/-- The slots of every attention window, in order of layer, slot and head. -/
def windowSlots (fe : FeTable) (p : FramePart) : List WindowSlot :=
  (List.range fe.attnLayers).flatMap (fun l => (List.range fe.window).map (fun w => tget { keys := [], vals := [] } (nth [] p.windows l) w))

/-- The Frame Engine state: windows, their scales, state-space state, token history, sampler settings (R139). -/
def frameImage (i : ImageFile) (p : FramePart) (u : UttPart) : List Byte :=
  let fe := i.parts.fe
  let ws := windowSlots fe p
  let heads (f : List QuantGroup → List Byte) (w : WindowSlot) : List Byte :=
    (List.range fe.kvHeads).flatMap (fun k => f (nth [] w.keys k) ++ f (nth [] w.vals k))
  ws.flatMap (heads (headCodes fe.headDim)) ++ ws.flatMap (heads (headScales (headGroups fe)))
  ++ scansBytes (recsIn i (· == .frame)) p.ssm ++ (List.range fe.codebooks).flatMap (fun k => natBytesLE 2 (nth 0 p.tokens k))
  ++ natBytesLE 2 u.tau.toNat ++ natBytesLE 2 u.topk.toNat

/-- Bytes that the Frame Engine state takes (R139). -/
def frameImageBytes (i : ImageFile) : Nat :=
  let fe := i.parts.fe
  fe.attnLayers * fe.window * fe.kvHeads * 2 * (fe.headDim + headGroups fe)
  + ((recsIn i (· == .frame)).foldl (fun n e => n + recBytes e.2) 0) + 2 * fe.codebooks + 4

/-- A head that a window slot holds; all zeros is nothing written. -/
def readHead (fe : FeTable) (b : Bytes) (codes scales : Nat) : List QuantGroup :=
  (List.range (headGroups fe)).map (fun g =>
    { scale := read8 b (scales + g), codes := readN b (codes + 64 * g) (min 64 (fe.headDim - 64 * g)), saturated := false })

/-- A window slot in one form: a slot whose heads hold zeros is an empty one. -/
def plainSlot (w : WindowSlot) : WindowSlot :=
  if (w.keys ++ w.vals).flatten.all (fun g => g.scale == 0 && g.codes.all (fun c => c == 0)) then { keys := [], vals := [] } else w

/-- Read the Frame Engine state. -/
def readFrame (i : ImageFile) (b : Bytes) (off : Nat) (next : W32) : FramePart :=
  let fe := i.parts.fe
  let heads := fe.kvHeads * 2
  let codes0 := off
  let scales0 := off + fe.attnLayers * fe.window * heads * fe.headDim
  let states0 := scales0 + fe.attnLayers * fe.window * heads * headGroups fe
  let rs := recsIn i (· == .frame)
  let tokens0 := states0 + rs.foldl (fun n e => n + recBytes e.2) 0
  let slot (l w : Nat) : WindowSlot :=
    let at0 (k : Nat) : List QuantGroup :=
      let n := (l * fe.window + w) * heads + k
      readHead fe b (codes0 + n * fe.headDim) (scales0 + n * headGroups fe)
    plainSlot { keys := (List.range fe.kvHeads).map (fun k => at0 (2 * k)), vals := (List.range fe.kvHeads).map (fun k => at0 (2 * k + 1)) }
  { nextFrame := next
    windows := (List.range fe.attnLayers).map (fun l =>
      (List.range fe.window).foldl (fun t w => tput { keys := [], vals := [] } t w (slot l w)) [])
    ssm := readScans rs b states0 []
    tokens := (List.range fe.codebooks).map (fun k => leAt b (tokens0 + 2 * k) 2) }

/-- Input samples of history per channel (R106). -/
def layerHist (l : CsuLayer) : Nat := if l.transposed then ceilDiv l.kernel l.dil - 1 else l.dil * (l.kernel - 1)

/-- The value that a channel's history holds before the samples of its segment: the layer's padding (R112). -/
def histPad (l : CsuLayer) (cond : List F16) (h : List F16) (c : Nat) : F16 :=
  match l.pad with
  | .zero => 0
  | .constant p => p
  | .replicate => h.headD (match l.src with | .conditioning => nth 0 cond c | _ => 0)

/-- A layer's history in the planar form of R107 with N = 0. -/
def histBytes (l : CsuLayer) (cond : List F16) (hist : List (List F16)) : List Byte :=
  let n := layerHist l
  (List.range l.inCh).flatMap (fun c =>
    let h := nth [] hist c
    padTo (up64 (2 * n)) (f16Bytes (List.replicate (n - h.length) (histPad l cond h c) ++ h)))

/-- Bytes of a layer's history. -/
def histSize (l : CsuLayer) : Nat := l.inCh * up64 (2 * layerHist l)

/-- Read the histories of layers that stand one after the other. -/
def readHists : List (CsuLayer × Nat) → Bytes → Nat → (CsuLayer → Bool) → Table (List (List F16)) → Table (List (List F16))
  | [], _, _, _, t => t
  | (l, k) :: r, b, off, keep, t =>
    let n := layerHist l
    let xs := (List.range l.inCh).map (fun c => f16sAt b (off + c * up64 (2 * n)) n)
    readHists r b (off + histSize l) keep (if keep l then tput [] t k xs else t)

/-- The conditioning record of R181. -/
def condRecord (i : ImageFile) (h : CondHistory) : List Byte :=
  let spill := (List.range 5120).map (fun k => BitVec.ofNat 8
    ((nth 0 h.spill (4 * k)).toNat + 4 * (nth 0 h.spill (4 * k + 1)).toNat + 16 * (nth 0 h.spill (4 * k + 2)).toNat + 64 * (nth 0 h.spill (4 * k + 3)).toNat))
  natBytesLE 4 h.frames.length ++ natBytesLE 4 h.firstFrame.toNat ++ natBytesLE 2 (imgCd i) ++ natBytesLE 2 0
  ++ natBytesLE 4 h.spill.length ++ List.replicate 48 0 ++ spill ++ h.frames.flatMap (fun f => padTo (condBytes i) (f16Bytes f))

/-- Read a conditioning record: its counts bound what is read (R181). -/
def readHistory (i : ImageFile) (b : Bytes) (off : Nat) : CondHistory :=
  let n := min 4096 (leAt b off 4)
  let ticks := min 20480 (leAt b (off + 0x0C) 4)
  { firstFrame := BitVec.ofNat 32 (leAt b (off + 4) 4)
    frames := (List.range n).map (fun k => f16sAt b (off + 0x1440 + k * condBytes i) (imgCd i))
    spill := (List.range ticks).map (fun t => BitVec.ofNat 2 ((read8 b (off + 0x40 + t / 4)).toNat / 4 ^ (t % 4)))
    whole := true }

/-- The last region: conditioning entry, feedback vector, shaper (R142). -/
def lastRegion (i : ImageFile) (b : Bank) : List Byte :=
  let sh := b.sample.shaper
  condEntryBytes (imgCd i) b.cond ++ feedbackBytes b.feedback ++ natBytesLE 4 sh.last.toNat ++ natBytesLE 2 sh.k ++ natBytesLE 2 sh.j
  ++ natBytesLE 2 sh.gain.toNat

/-- A record's voice field; a stream without a bound voice writes all ones (DESIGN CHOICE, log 75). -/
def voiceWord (u : UttPart) : Nat :=
  (match u.voice with | some v => v.toNat | none => 0xFFFFFF) + (match u.variant with | some k => k.toNat * 0x1000000 | none => 0)

/-- The header's first 256 bytes (R140). Inside an utterance, 0x03C is the feature position at which it began (DESIGN CHOICE,
log 132). -/
def headerBytes (r : StateRecord) : List Byte :=
  let u := r.bank.utt
  natBytesLE 4 r.format.toNat ++ natBytesLE 4 r.length.toNat ++ natBytesLE 16 r.imageHash.toNat ++ natBytesLE 8 r.stream.toNat
  ++ natBytesLE 8 r.seed.toNat ++ natBytesLE 8 r.bank.sample.nextSample.toNat ++ natBytesLE 8 u.uttFirst.toNat
  ++ natBytesLE 4 r.bank.frame.nextFrame.toNat ++ natBytesLE 4 u.nextFeature.toNat ++ natBytesLE 4 u.generation.toNat
  ++ natBytesLE 1 r.rate.toNat ++ natBytesLE 1 (b2n u.midUtt + 2 * b2n r.rebuild + 4 * b2n r.immediate + 8 * r.fade.toNat)
  ++ natBytesLE 1 r.bank.sample.fifths ++ natBytesLE 1 (b2n r.hold + 2 * b2n r.grouped)
  ++ natBytesLE 16 u.trunkHash.toNat ++ natBytesLE 16 u.expertHash.toNat ++ natBytesLE 4 (voiceWord u) ++ natBytesLE 4 u.uttNumber.toNat
  ++ f16Bytes ((u.style ++ List.replicate 64 0).take 64) ++ natBytesLE 2 u.tau.toNat ++ natBytesLE 2 u.topk.toNat ++ natBytesLE 1 r.next

/-- The feature appendix (R284). -/
def appendixImage (i : ImageFile) (a : FeatArea) : List Byte :=
  let n := a.raw.length
  let eou := (List.range (ceilDiv n 512 * 64)).map (fun k =>
    BitVec.ofNat 8 ((List.range 8).foldl (fun x j => x + (if (a.raw[8 * k + j]?.map (fun f => f.eou)) == some true then 2 ^ j else 0)) 0))
  natBytesLE 4 0x49484641 ++ natBytesLE 4 a.outs.length ++ natBytesLE 4 ((a.outs.headD (0, [])).1) ++ natBytesLE 4 n ++ natBytesLE 4 a.rawPos
  ++ natBytesLE 4 (a.eou.getD 0xFFFFFFFF) ++ natBytesLE 4 (n - a.positioned) ++ List.replicate 36 0
  ++ a.outs.flatMap (fun o => padTo (outBytes i) (f16Bytes o.2)) ++ a.raw.flatMap (fun f => padTo (frameBytes i) (f16Bytes f.values)) ++ eou

/-- Bytes of the appendix whose header stands at an offset. -/
def appendixSize (i : ImageFile) (b : Bytes) (off : Nat) : Nat :=
  let n := leAt b (off + 0x0C) 4
  0x40 + leAt b (off + 4) 4 * outBytes i + n * frameBytes i + ceilDiv n 512 * 64

/-- Read the appendix: its outputs, its frames and every mark of its map (R284). -/
def readAppendix (i : ImageFile) (b : Bytes) (off : Nat) : FeatArea :=
  let no := leAt b (off + 4) 4
  let n := leAt b (off + 0x0C) 4
  let e := leAt b (off + 0x14) 4
  let raw0 := off + 0x40 + no * outBytes i
  let map0 := raw0 + n * frameBytes i
  { outs := (List.range no).map (fun k => (leAt b (off + 8) 4 + k, f16sAt b (off + 0x40 + k * outBytes i) (outWidth i)))
    raw := (List.range n).map (fun k =>
      { values := f16sAt b (raw0 + k * frameBytes i) (imgFw i), eou := bitOf (read8 b (map0 + k / 8)).toNat (k % 8) })
    rawPos := leAt b (off + 0x10) 4
    positioned := n - leAt b (off + 0x18) 4
    eou := if e = 0xFFFFFFFF then none else some e }

/-! ### The record -/

/-- Offsets of the regions after the Frame Engine state (R139, R154). -/
def laneAt (i : ImageFile) : Nat := 4096 + up4k i.parts.dir.f
def afterLane (i : ImageFile) : Nat := laneAt i + 8192

/-- The recurrences of the Hs region, and those of Hf (R139, R154). -/
def hsRecs (i : ImageFile) : List (Nat × Recurrence) := recsIn i (fun k => k == .sample || k == .feature)
def hfRecs (i : ImageFile) : List (Nat × Recurrence) := recsIn i (· == .feature)

/-- The states of both kinds in image order. -/
def hsBytes (i : ImageFile) (b : Bank) : List Byte :=
  (hsRecs i).flatMap (fun e => wordsBytes e.2.prec e.2.channels (tget [] (if e.2.kind == .feature then b.chunk.scans else b.sample.scans) e.1))

/-- The bytes of a state record followed by its appendix (R139, R154, R284). -/
def recordImage (i : ImageFile) (r : StateRecord) : Bytes :=
  let d := i.parts.dir
  let head := [(0, headerBytes r), (4096, (frameImage i r.bank.frame r.bank.utt).take d.f), (laneAt i, laneImage i r.bank.sample)]
  let len := r.length.toNat * 4096
  let mid :=
    if r.rebuild then
      [(afterLane i, scansBytes (hfRecs i) r.bank.chunk.scans), (afterLane i + up4k d.hf, condRecord i r.history)]
    else
      stack (afterLane i) (i.parts.csu.zipIdx.map (fun e => histBytes e.1 r.bank.cond.values (tget [] r.bank.sample.hist e.2)))
      ++ [(afterLane i + up4k d.hc, hsBytes i r.bank)]
  image (head ++ mid ++ [(len - 4096, lastRegion i r.bank), (len, appendixImage i r.appendix)])

/-- Bytes of the buffer that a record and its appendix fill. -/
def recordTotal (i : ImageFile) (r : StateRecord) : Nat := r.length.toNat * 4096 + (appendixImage i r.appendix).length

/-- The segment of a layer or recurrence holds samples: history and scans of an empty segment are padding and +0 (R112, R152). -/
def segmentBegun (utterance : Bool) (next first : Nat) : Bool := if utterance then decide (first < next) else decide (0 < next)

/-- Keep the states of sample-rate recurrences, or those of the feature section. -/
def ofKind (i : ImageFile) (k : RecKind) (t : Table (List W32)) : Table (List W32) :=
  t.filter (fun e => match i.parts.recs[e.1]? with | some r => r.kind == k | none => false)

/-- What a buffer of `len` bytes holds as a record and appendix (R140 to R144, R154, R284). -/
def readRecord (i : ImageFile) (b : Bytes) (len : Nat) : StateRecord :=
  let d := i.parts.dir
  let flags := leAt b 0x045 1
  let rebuild := bitOf flags 1
  let next := leAt b 0x028 8
  let first := leAt b 0x030 8
  let vw := leAt b 0x068 4
  let hist := readHistory i b (afterLane i + up4k d.hf)
  let end0 := if rebuild then rebuildBytes i (leAt b (afterLane i + up4k d.hf) 4) else recordBytes i
  let app := end0
  let states := if rebuild then readScans (hfRecs i) b (afterLane i) [] else readScans (hsRecs i) b (afterLane i + up4k d.hc) []
  let whole : Bool := decide (end0 + 0x40 ≤ len)
  let fits := whole && decide (end0 + appendixSize i b app ≤ len)
  let at0 := end0 - 4096
  { format := BitVec.ofNat 32 (leAt b 0x000 4), length := BitVec.ofNat 32 (leAt b 0x004 4), imageHash := BitVec.ofNat 128 (leAt b 0x008 16)
    stream := BitVec.ofNat 64 (leAt b 0x018 8), seed := BitVec.ofNat 64 (leAt b 0x020 8), rate := read8 b 0x044
    rebuild := rebuild, immediate := bitOf flags 2, fade := BitVec.ofNat 2 (flags / 8)
    hold := bitOf (leAt b 0x047 1) 0, grouped := bitOf (leAt b 0x047 1) 1, next := leAt b 0x0F4 1
    bank := {
      frame := readFrame i b 4096 (BitVec.ofNat 32 (leAt b 0x038 4))
      sample := {
        nextSample := BitVec.ofNat 64 next, fifths := leAt b 0x046 1
        areas := (List.range 8).foldl (fun t a => match areaShape i a with
          | some (w, p) => tput [] t a (readWords p w b (laneAt i + 768 * a))
          | none => t) []
        persist := (List.range 256).foldl (fun t k => tput 0 t k (f16At b (laneAt i + 0x1800 + 2 * k))) []
        hist := if rebuild then [] else readHists i.parts.csu.zipIdx b (afterLane i) (fun l => segmentBegun l.utterance next first) []
        scans := if rebuild then [] else ofKind i .sample states
        shaper := { last := f32At b (at0 + 0x840), k := leAt b (at0 + 0x844) 2, j := leAt b (at0 + 0x846) 2, gain := f16At b (at0 + 0x848) } }
      chunk := { scans := ofKind i .feature states, nextChunkPos := leAt b (app + 0x10) 4 }
      utt := {
        uttFirst := BitVec.ofNat 64 first, nextFeature := BitVec.ofNat 32 (leAt b 0x03C 4), generation := BitVec.ofNat 32 (leAt b 0x040 4)
        midUtt := bitOf flags 0, trunkHash := BitVec.ofNat 128 (leAt b 0x048 16), expertHash := BitVec.ofNat 128 (leAt b 0x058 16)
        voice := if vw % 0x1000000 = 0xFFFFFF then none else some (BitVec.ofNat 24 vw)
        variant := if vw % 0x1000000 = 0xFFFFFF then none else some (BitVec.ofNat 3 (vw / 0x1000000))
        uttNumber := BitVec.ofNat 32 (leAt b 0x06C 4), style := f16sAt b 0x070 64, tau := f16At b 0x0F0, topk := BitVec.ofNat 16 (leAt b 0x0F2 2) }
      cond := readCond (imgCd i) b at0
      feedback := readFeedback b (at0 + 0x440) }
    history := if rebuild then hist else { firstFrame := 0, frames := [], spill := [], whole := false }
    appendix := if fits then readAppendix i b app else { outs := [], raw := [], rawPos := 0, positioned := 0, eou := none }
    magic := BitVec.ofNat 32 (leAt b app 4), fits := fits }

end Sys2Proof.Machine
end

