-- ==== Sys2Proof/Machine/Apply.lean ====
section
/-!
DEFINITION. What each descriptor does when it takes effect (R266 to R269, R276, R277, R280 to R285).
-/
namespace Sys2Proof.Machine

/-! ### OPEN (R266, R18, R136) -/

def emptyFeedback : Feedback :=
  { out := List.replicate 5 none, refA := List.replicate 5 none, refB := List.replicate 5 none, kindA := 0, kindB := 0 }

/-- The carried state of a new stream: zeros, τ = 1.0, gain 1.0, no frame to play (R95, R168, R170, R180, R268). -/
def initialBank : Bank :=
  { frame := { nextFrame := 0, windows := [], ssm := [], tokens := [] },
    sample := { nextSample := 0, fifths := 5, areas := [], persist := [], hist := [], scans := [],
                shaper := { last := 0, k := 0, j := 32, gain := 0x3C00#16 } },
    chunk := { scans := [], nextChunkPos := 0 },
    utt := { uttFirst := 0, nextFeature := 0, generation := 0, midUtt := false, trunkHash := 0, expertHash := 0, voice := none,
             variant := none, uttNumber := 0, style := List.replicate 64 0, tau := 0x3C00#16, topk := 0 },
    cond := { frame := 0, valid := false, first := false, lastFrame := false, values := [] }, feedback := emptyFeedback }

def emptyHistory : CondHistory := { firstFrame := 0, frames := [], spill := [], whole := true }
def emptyArea : FeatArea := { outs := [], raw := [], rawPos := 0, positioned := 0, eou := none }

/-- A stream with nothing in it, on a lane slot. -/
def Stream.blank (lane : LaneSlot) : Stream :=
  { life := .idle, incarnation := 0, owner := 0, home := 0, phase := 0, ident := 0, seed := 0, rate := 4, fmt := 0, fade := false,
    immediate := false, ringAddr := 0, evictAddr := 0, route := none, refA := .none, refB := .none, arithSat := false,
    arithNonfinite := false, stateDrift := false, stateLost := false, locked := false, advised := false, adviceClass := 0, adviseAgain := false, gated := false,
    gatedCount := 0, plan := none, group := none, lane := some lane, firstOut := 0, selected := none, pinnedSel := none,
    bound := none, toTrunk := none, toExpert := none, delivered := 0, bank := initialBank, wbank := initialBank, work := .empty,
    area := emptyArea, history := emptyHistory, ring := { descs := [], block := none, gap := false }, queued := [], held := [],
    audio := [], window := (none, none), windowKind := (0, 0), voiceNext := none, heldRec := none, refLate := none,
    ready := [], importSeq := none, rebuilding := false }

/-- The checks that the descriptor and the image in force decide (R264, R265): CTRL's top-k lies within the vocabulary. -/
def Hw.formatOk (h : Hw) (d : Desc) : Bool :=
  dFormatOk d && (dOpcode d != opCtrl || dField d 0x10 2 != 2 || decide (dField d 0x14 4 ≤ 2 ^ (feOf h).tokenBits))

/-- A context that is not allocated; the spec does not say which (log 59). -/
def Hw.freeCtx (h : Hw) : Option Nat := h.pickOf ((List.range 1024).filter (fun c => (h.stream c).isNone))

/-- The phase group with the fewest streams, the lowest on a tie (R18). -/
def Hw.fewestGroup (h : Hw) : Nat :=
  [1, 2, 3, 4].foldl (fun a g => if h.phaseCount g < h.phaseCount a then g else a) 0

/-- A descriptor that waits for a lane slot (R136). -/
def Hw.waitLane (h : Hw) (a : Admitted) : Hw := { h with rings := { h.rings with laneWait := h.rings.laneWait ++ [a] } }

/-- Allocate a context: the next incarnation (R264). -/
def Hw.nextInc (h : Hw) (c : Nat) : BitVec 15 × Hw :=
  let i := tget (0 : BitVec 15) h.incs c + 1
  (i, { h.picked with incs := tput 0 h.incs c i })

/-- The options of an OPEN that the image and the ports must offer (R5, R172, R267, R307). -/
def Hw.openOptions (h : Hw) (i : ImageFile) (d : Desc) : Bool :=
  let rate := dField d 0x24 1
  bitOf (imgRates i) rate && bitOf (imgFills i) (dField d 0x27 1 / 2 % 2)
  && h.routeOk rate (routeOf (dField d 0x28 2)) && h.refOk rate (bindOf (dField d 0x2A 1)) && h.refOk rate (bindOf (dField d 0x2B 1))

/-- OPEN takes effect. The number of streams counts allocated contexts alone: an OPEN that waits for a lane slot is not
counted, and every check is made again when it is admitted (DESIGN CHOICE, log 77). The slots of IDLE streams stay in
transition without the bound of 128 that R135 states (R276; DESIGN CHOICE, log 78). -/
def Hw.applyOpen (h : Hw) (a : Admitted) : Hw :=
  let d := a.desc
  match h.ex.image with
  | none => h.finish0 a stNoContext
  | some i =>
    if !dFormatOk d || !h.openOptions i d then h.finish0 a stFormat
    else if h.ex.hold || decide (h.admitLimit ≤ h.ctxs.length) then h.finish0 a stNoContext
    else
      let gb := dField d 0x26 1
      let g := if bitOf gb 7 then gb % 8 else h.fewestGroup
      match h.freeCtx with
      | none => h.finish0 a stNoContext
      | some c =>
        if h.groupLimit ≤ h.phaseCount g then h.finish0 a stNoContext
        else
          match (if h.rings.laneWait.isEmpty then h.placeLane else none) with
          | none => h.waitLane a
          | some ls =>
            let r := h.nextInc c
            let u := { initialBank.utt with generation := BitVec.ofNat 32 (dField d 0x20 4) }
            let b := { initialBank with utt := u }
            let s : Stream := { Stream.blank ls with
              incarnation := r.1, owner := a.owner, home := a.q, phase := g, ident := BitVec.ofNat 64 (dField d 0x10 8),
              seed := BitVec.ofNat 64 (dField d 0x18 8), rate := dField d 0x24 1, fmt := dField d 0x25 1,
              immediate := bitOf (dField d 0x27 1) 0, fade := bitOf (dField d 0x27 1) 1,
              route := routeOf (dField d 0x28 2), refA := bindOf (dField d 0x2A 1), refB := bindOf (dField d 0x2B 1),
              ringAddr := BitVec.ofNat 64 (dField d 0x30 8), evictAddr := BitVec.ofNat 64 (dField d 0x38 8),
              firstOut := h.ex.tick, bank := b, wbank := b }
            (r.2.setStream c s).finish a (s.handle c) g 0

/-! ### STOP and CLOSE (R280, R281) -/

/-- Cancel a planned eviction that a STOP meets: EVICTED posts with ABORTED, and the stream is advised again (R374). -/
def Hw.cancelPlan (h : Hw) (c : Nat) (s : Stream) (r : StateRecord) : Hw :=
  match s.plan with
  | none => h
  | some _ => (h.event c s 0x88 stAborted (recUnits r) s.idx).modStream c (fun t => { t with plan := none, advised := false, adviseAgain := true })

/-- The effect of a STOP on a stream inside an utterance: the gate closes, the tick's results are discarded, earlier
FEEDs abort, the feature area empties and the utterance ends with ABORTED (R280, R281). An utterance that began in the
tick posts its UTTERANCE_START too (DEDUCED, log 11). -/
def Hw.stopAct (h : Hw) (c : Nat) (seq : Nat) (flush : Bool) : Hw :=
  let h := (h.closeGate c flush).abortFeeds c seq
  match h.stream c with
  | none => h
  | some s =>
    let h := h.cancelPlan c s (h.mkRecord s s.bank h.ex.tick false)
    let h := if s.work.begins then
        match s.bound with
        | some b => h.event c s 0x80 stDone (b.idx % 8 + (h.trunk b.trunk).nearSlot.getD 0 * 8) s.idx
        | none => h
      else h
    let h := h.endUtterance c true
    let ended := !s.work.begins && decide (s.bank.utt.uttFirst.toNat < s.idx.toNat)
    h.modStream c (fun t => { t with
      ring := { t.ring with block := t.ring.block.map (fun b => { b with ends := b.ends || ended }) }
      area := { t.area with raw := [], positioned := 0, eou := none, outs := [] }
      work := { TickWork.empty with run := t.group.isSome && s.work.run, cancelled := s.plan.isSome || s.work.cancelled, drift := s.work.drift } })

/-- A STOP acts: DONE where the stream is inside an utterance, otherwise ALREADY_DONE (R277, R280). -/
def Hw.stopOutcome (h : Hw) (a : Admitted) (c : Nat) (s : Stream) : Hw :=
  if s.speaking then
    let h := h.stopAct c a.seq (bitOf (dFlags a.desc) 0)
    match h.stream c with
    | some t => h.finish a (dHandle a.desc) (min t.gatedCount 65535) t.delivered
    | none => h
  else h.complete a.q a.seq opStop (dTag a.desc) (dHandle a.desc) stAlready (min s.gatedCount 65535) s.delivered

/-- An ordinary STOP takes effect. -/
def Hw.applyStop (h : Hw) (a : Admitted) : Hw :=
  if !dFormatOk a.desc then h.finish0 a stFormat
  else
    match h.lookup a.owner (dHandle a.desc) with
    | none => h.finish0 a stNoContext
    | some (c, s) => h.stopOutcome a c s

/-- An IMPORT into the context that has not completed completes with ABORTED (R271; DESIGN CHOICE, log 80). -/
def Hw.abortImport (h : Hw) (c : Nat) : Hw :=
  match h.stream c with
  | none => h
  | some s =>
    match s.importSeq with
    | some (seq, q, tag) => (h.complete q seq opImport tag (s.handle c) stAborted 0 0).setStream c { s with importSeq := none }
    | none => h

/-- Release a context: its ring ends, its AUDIO_INs, its FEEDs and an IMPORT in progress abort, it leaves its group, and its
versions, selection and lane slot are given up. -/
def Hw.release (h : Hw) (c : Nat) : Hw :=
  let h := (((((h.endRing c).abortAudio c).abortImport c).leaveGroup c).unbind c).dropSelection c
  let h := h.leaveLane c
  match h.stream c with
  | none => h
  | some s => ((s.queued ++ s.held).foldl (fun a f => a.finish0 f.a stAborted) h).dropStream c

/-- CLOSE takes effect: a planned eviction lapses (R277, R374). -/
def Hw.applyClose (h : Hw) (a : Admitted) : Hw :=
  if !dFormatOk a.desc then h.finish0 a stFormat
  else
    match h.lookup a.owner (dHandle a.desc) with
    | none => h.finish0 a stNoContext
    | some (c, s) =>
      let h := h.setStream c { s with plan := none }
      let h := if s.speaking then h.stopAct c a.seq (bitOf (dFlags a.desc) 0) else h
      match h.stream c with
      | none => h
      | some t => (h.release c).finish a (dHandle a.desc) (min t.gatedCount 65535) t.delivered

/-! ### EXPORT and eviction (R283 to R285) -/

/-- Stop-form export of a stream: the record is kept, the lock is taken, the block closes and the group is left. FEEDs that
waited for room are held from now on, ahead of the later ones (R282). -/
def Hw.exportStop (h : Hw) (c : Nat) (r : StateRecord) : Hw :=
  let h := (((h.endRing c).abortAudio c).leaveGroup c).leaveLane c
  h.modStream c (fun t => { t with
    life := .exported, locked := true, heldRec := some r, plan := none, advised := false, adviseAgain := false, work := .empty
    held := t.queued ++ t.held, queued := [] })

/-- Post the bytes of a state record and its appendix (R139, R154, R248, R284). -/
def Hw.postRecord (h : Hw) (addr : W64) (r : StateRecord) : Hw :=
  match h.ex.image with
  | some i => h.post (.image addr (recordTotal i r) (recordImage i r) true)
  | none => h

/-- EXPORT takes effect. -/
def Hw.applyExport (h : Hw) (a : Admitted) : Hw :=
  let d := a.desc
  if !dFormatOk d then h.finish0 a stFormat
  else
    match h.lookup a.owner (dHandle d), h.ex.image with
    | none, _ => h.finish0 a stNoContext
    | _, none => h.finish0 a stNoContext
    | some (c, s), some i =>
      let rebuild := bitOf (dFlags d) 1
      let write (h : Hw) (r : StateRecord) : Hw :=
        (h.postRecord (BitVec.ofNat 64 (dField d 0x10 8)) r).finish a (dHandle d) (recUnits r) r.bank.sample.nextSample
      let need (r : StateRecord) : Nat := recUnits r * 4096 + i.parts.dir.featureArea + 12288
      match s.life, s.heldRec with
      | .lost, _ => h.finish0 a stStale
      | .exported, some r => if dField d 0x18 8 < need r then h.finish0 a stFormat else write h r
      | .exported, none => h.finish0 a stFormat
      | _, _ =>
        let r := h.mkRecord s s.bank h.ex.tick rebuild
        if dField d 0x18 8 < need r then h.finish0 a stFormat
        else if rebuild && !(imgUttScope i && s.history.whole && s.speaking && decide (1 ≤ s.history.frames.length)) then h.finish0 a stFormat
        else if bitOf (dFlags d) 0 then write h r
        else write (h.exportStop c r) r

/-- An eviction applies: as a stop-form EXPORT into the eviction buffer, with no completion (R285). -/
def Hw.evict (h : Hw) (c : Nat) (s : Stream) : Hw :=
  h.exportStop c (h.mkRecord s s.bank h.ex.tick false)

/-! ### IMPORT (R144, R19, R452, R453) -/

/-- The bound versions of a mid-utterance record, present and CURRENT or RETIRING (R144). -/
def Hw.recordVersions (h : Hw) (u : UttPart) : Option Bound :=
  let fit (v : VSlot) (x : BitVec 128) : Bool := (v.state == .current || v.state == .retiring) && !v.damaged && hash16 v.hash == x
  let idx := match u.voice, u.variant with
    | some v, some k => v.toNat * 8 + k.toNat
    | _, _ => 0
  match [0, 1, 2].find? (fun k => fit (h.trunk k) u.trunkHash), [0, 1].find? (fun k => fit ((h.voice idx).slot k) u.expertHash) with
  | some t, some k => some { trunk := t, idx := idx, slot := k }
  | _, _ => none

/-- The record checks of R144 in their order, then R153 and the options: the status of the first that fails. `n` is the
count of frames in the conditioning record (R181). The next-phase offset counts mid-utterance only (R19). -/
def Hw.recordStatus (h : Hw) (i : ImageFile) (d : Desc) (n : Nat) (r : StateRecord) : Option Nat :=
  let bytes := if r.rebuild then rebuildBytes i n else recordBytes i
  if r.format ≠ 1 || decide (r.length.toNat * 4096 ≠ bytes) then some stFormat
  else if !r.fits || r.magic ≠ 0x49484641#32 then some stFormat
  else if r.imageHash ≠ hash16 (imgHash i) then some stVersion
  else if r.bank.utt.midUtt && (h.recordVersions r.bank.utt).isNone then some stVersion
  else
    let rate := r.rate.toNat
    if r.rebuild && !(imgUttScope i && decide (1 ≤ n) && decide (n ≤ 4096)) then some stFormat
    else if decide (4 < rate) || !bitOf (imgRates i) rate || decide (1 < r.fade.toNat) || !bitOf (imgFills i) r.fade.toNat
         || (r.bank.utt.midUtt && decide (4 < r.next)) || decide (5 < r.bank.sample.fifths)
         || !h.routeOk rate (routeOf (dField d 0x26 2)) || !h.refOk rate (bindOf (dField d 0x28 1)) || !h.refOk rate (bindOf (dField d 0x29 1))
      then some stFormat
    else none

/-- The stream an accepted IMPORT makes, on context `c` (R142, R143, R269, R284). -/
def importStream (a : Admitted) (r : StateRecord) (ls : LaneSlot) (inc : BitVec 15) (g : Nat) (out : W64) (held : List WaitFeed)
    (bound : Option Bound) : Stream :=
  let d := a.desc
  let gen := if bitOf (dFlags d) 0 then BitVec.ofNat 32 (dField d 0x20 4) else r.bank.utt.generation
  let b := { r.bank with utt := { r.bank.utt with generation := gen } }
  { Stream.blank ls with
    life := if r.bank.utt.midUtt then .speaking else .idle, incarnation := inc, owner := a.owner, home := a.q, phase := g,
    ident := r.stream, seed := r.seed, rate := r.rate.toNat, fmt := dField d 0x24 1, immediate := r.immediate,
    fade := r.fade == 1#2, route := routeOf (dField d 0x26 2), refA := bindOf (dField d 0x28 1), refB := bindOf (dField d 0x29 1),
    ringAddr := BitVec.ofNat 64 (dField d 0x30 8), evictAddr := BitVec.ofNat 64 (dField d 0x38 8), firstOut := out,
    bank := b, wbank := b, area := placeFrames r.appendix, delivered := b.sample.nextSample, held := held,
    history := if r.rebuild then r.history else { emptyHistory with whole := !r.bank.utt.midUtt },
    bound := bound, voiceNext := r.bank.utt.voice, rebuilding := r.rebuild, importSeq := some (a.seq, a.q, dTag a.desc) }

/-- IMPORT takes effect: into a new context, or into the EXPORTED or LOST context its handle names. The admission hold and
the stream limit refuse it before its record is read; R5 and R360 give no order of the two refusals, and OPEN, whose
options stand in the descriptor, meets them the other way (DESIGN CHOICE, log 81). -/
def Hw.applyImport (h : Hw) (a : Admitted) : Hw :=
  let d := a.desc
  let old := if dHandle d == 0 then none else h.lookup a.owner (dHandle d)
  match h.ex.image with
  | none => h.finish0 a stNoContext
  | some i =>
    if !dFormatOk d then h.finish0 a stFormat
    else if dHandle d != 0 && old.isNone then h.finish0 a stNoContext
    else if (match old with | some (_, s) => s.life != .exported && s.life != .lost | none => false : Bool) then h.finish0 a stFormat
    else if h.ex.hold || (old.isNone && decide (h.admitLimit ≤ h.ctxs.length)) then h.finish0 a stNoContext
    else
      match a.payload with
      | .record (.ok b) =>
        let r := readRecord i b (dField d 0x18 8)
        match h.recordStatus i d (leAt b (afterLane i + up4k i.parts.dir.hf) 4) r with
        | some st => h.finish0 a st
        | none =>
          let mid := r.bank.utt.midUtt
          let out := h.ex.tick + 1
          let others := match old with | some (c, _) => h.dropStream c | none => h
          let g := if mid then (out.toNat + r.next) % 5 else others.fewestGroup
          match (match old with | some (c, _) => some c | none => h.freeCtx) with
          | none => h.finish0 a stNoContext
          | some c =>
            if h.groupLimit ≤ others.phaseCount g then h.finish0 a stNoContext
            else
              match (if h.rings.laneWait.isEmpty then h.placeLane else none) with
              | none => h.waitLane a
              | some ls =>
                let held := match old with | some (_, s) => s.queued ++ s.held | none => []
                let h := match old with
                  | some _ => ((((((h.endRing c).abortAudio c).abortImport c).leaveGroup c).unbind c).dropSelection c).leaveLane c
                  | none => h
                let bound := if mid then h.recordVersions r.bank.utt else none
                let n := h.nextInc c
                let h := n.2.setStream c (importStream a r ls n.1 g out held bound)
                match bound with
                | some b => ((h.addRef true 0 b.trunk).addRef false b.idx b.slot).requestPage b.idx b.slot
                | none => h.reselect c
      | _ => h.finish0 a stAborted

/-! ### GROUP (R182, R183, R457) -/

/-- The lowest group number that holds no group. -/
def Hw.freeGroup (h : Hw) : Option Nat := (List.range 64).find? (fun g => (h.group g).isNone)

/-- A GROUP create takes effect. -/
def Hw.applyGroupCreate (h : Hw) (a : Admitted) : Hw :=
  let d := a.desc
  match h.ex.image, a.payload with
  | none, _ => h.finish0 a stNoContext
  | some i, p =>
    if !dFormatOk d || !bitOf (imgAlign i) (dField d 0x10 1) then h.finish0 a stFormat
    else
      match p with
      | .members (.ok ws) =>
        let ws := (List.range (dField d 0x11 1)).map (fun k => nth 0 ws k)
        let found := ws.map (fun w => h.lookup a.owner w)
        if decide (¬ ws.Nodup) || ws.any (fun w => decide (w.toNat / 1024 % 64 ≠ 0)) then h.finish0 a stFormat
        else if found.any (fun x => match x with | none => true | some (_, s) => s.life == .exported || s.life == .lost) then
          h.finish0 a stNoContext
        else
          let ms := found.filterMap id
          match ms with
          | [] => h.finish0 a stFormat
          | (_, s0) :: _ =>
            if ms.any (fun e => e.2.speaking || e.2.group.isSome || e.2.rate != s0.rate || e.2.phase != s0.phase) then h.finish0 a stFormat
            else
              match h.freeGroup with
              | none => h.finish0 a stNoContext
              | some g =>
                let top := ms.foldl (fun m e => if m < e.2.idx then e.2.idx else m) 0
                let h := ms.foldl (fun x e => x.modStream e.1 (fun s =>
                    { s with group := some g, bank := { s.bank with sample := { s.bank.sample with nextSample := top } } })) h
                (h.setGroup g (some { hold := bitOf (dField d 0x10 1) 0, members := ms.map Prod.fst, owner := a.owner })).finish a 0 g top
      | _ => h.finish0 a stAborted

/-- A GROUP dissolve takes effect. -/
def Hw.applyGroupDissolve (h : Hw) (a : Admitted) : Hw :=
  let d := a.desc
  if !dFormatOk d then h.finish0 a stFormat
  else
    let g := dField d 0x12 2
    match h.group g with
    | none => h.finish0 a stNoContext
    | some x =>
      if x.owner ≠ a.owner then h.finish0 a stNoContext
      else
        let top := match x.members with
          | m :: _ => (match h.stream m with | some s => s.idx | none => 0)
          | [] => 0
        ((x.members.foldl (fun y m => y.modStream m (fun s => { s with group := none })) h).setGroup g none).finish a 0 g top

/-! ### BIND_VOICE and CTRL (R88, R268, R277) -/

/-- Set the style of a stream. -/
def Stream.withStyle (s : Stream) (v : List F16) : Stream :=
  { s with bank := { s.bank with utt := { s.bank.utt with style := (v ++ List.replicate 64 0).take 64 } } }

/-- BIND_VOICE takes effect. -/
def Hw.applyBind (h : Hw) (a : Admitted) : Hw :=
  let d := a.desc
  let voice := dField d 0x10 4 % 0x1000000
  if !dFormatOk d || decide (h.mem.voiceMax.toNat ≤ voice) then h.finish0 a stFormat
  else
    match h.lookup a.owner (dHandle d) with
    | none => h.finish0 a stNoContext
    | some (c, s) =>
      match s.life with
      | .exported => h.finish0 a stNoContext
      | .lost => h.finish0 a stStale
      | _ =>
        if (h.selectVariant voice s.bank.utt.style).isNone then h.finish0 a stNoContext
        else
          match a.payload, decide (dField d 0x18 8 = 0) with
          | .style .failed, false => h.finish0 a stAborted
          | p, keep =>
            let s1 := match p, keep with
              | .style (.ok v), false => s.withStyle v
              | _, _ => s
            let vn : BitVec 24 := BitVec.ofNat 24 voice
            let s2 := { s1 with voiceNext := some vn }
            let s3 := if s2.speaking then s2
                      else { s2 with bank := { s2.bank with utt := { s2.bank.utt with voice := some vn } } }
            let h := (h.setStream c s3).reselect c
            match h.stream c with
            | some t =>
              let idx := t.selected.getD 0
              h.finish a (dHandle d) (idx % 8) (BitVec.ofNat 64 idx)
            | none => h

/-- A CTRL's change of a stream (R268): none where the value breaks its row. -/
def Hw.ctrlChange (h : Hw) (s : Stream) (d : Desc) (style : List F16) : Option Stream :=
  let v := dField d 0x14 4
  let utt (u : UttPart) : Stream := { s with bank := { s.bank with utt := u } }
  match dField d 0x10 2 with
  | 1 => some (utt { s.bank.utt with tau := BitVec.ofNat 16 v })
  | 2 => some (utt { s.bank.utt with topk := BitVec.ofNat 16 v })
  | 3 => some { s with bank := { s.bank with sample := { s.bank.sample with
                  shaper := { s.bank.sample.shaper with gain := BitVec.ofNat 16 v } } } }
  | 4 => some (s.withStyle style)
  | 5 => if h.refOk s.rate (bindOf v) then some { s with refA := bindOf v } else none
  | 6 => if h.refOk s.rate (bindOf v) then some { s with refB := bindOf v } else none
  | 7 => if h.routeOk s.rate (routeOf v) then some { s with route := routeOf v } else none
  | _ => none

/-- CTRL takes effect. -/
def Hw.applyCtrl (h : Hw) (a : Admitted) : Hw :=
  let d := a.desc
  if !h.formatOk d then h.finish0 a stFormat
  else
    match h.lookup a.owner (dHandle d) with
    | none => h.finish0 a stNoContext
    | some (c, s) =>
      match s.life with
      | .exported => h.finish0 a stNoContext
      | .lost => h.finish0 a stStale
      | _ =>
        let style := match a.payload with | .style (.ok v) => some v | _ => none
        if decide (dField d 0x10 2 = 4) && style.isNone then h.finish0 a stAborted
        else
          match h.ctrlChange s d (style.getD []) with
          | none => h.finish0 a stFormat
          | some t =>
            let h := h.setStream c t
            let h := if dField d 0x10 2 = 4 then h.reselect c else h
            h.finish a (dHandle d) (dField d 0x10 2) 0

/-! ### FEED (R214, R282, R458) -/

/-- A FEED that has passed the checks of R264 and R265 meets its stream. Behind an earlier FEED that waits for room it waits
unchecked; when its turn comes its list, frame count, generation and room are checked (R214, R271, R282, R458). -/
def Hw.feedInto (h : Hw) (i : ImageFile) (a : Admitted) (c : Nat) (s : Stream) (front : Bool) : Hw :=
  let d := a.desc
  if !front && !s.queued.isEmpty then h.setStream c { s with queued := s.queued ++ [{ a := a }] }
  else
  match a.payload with
  | .feed (.ok f) =>
    match readList (.feature (frameBytes i)) (dField d 0x20 4) f.list with
    | none => h.finish0 a stFormat
    | some bs =>
      let fs := listFrames (imgFw i) (frameBytes i) bs f.frames
      if fs.length ≠ dField d 0x14 4 then h.finish0 a stFormat
      else if s.bank.utt.generation.toNat ≠ dField d 0x10 4 then h.finish0 a stStale
      else if !areaRoom i s.area fs.length then h.setStream c { s with queued := { a := a } :: s.queued }
      else
        let pos := nextFeedPos i.parts.fe.chunk s.area
        let area := placeFrames { s.area with raw := s.area.raw ++ fs }
        (h.setStream c { s with area := area }).finish a (dHandle d) fs.length (BitVec.ofNat 64 pos)
  | _ => h.finish0 a stAborted

/-- FEED takes effect. -/
def Hw.applyFeed (h : Hw) (a : Admitted) : Hw :=
  if !dFormatOk a.desc then h.finish0 a stFormat
  else
    match h.lookup a.owner (dHandle a.desc), h.ex.image with
    | none, _ => h.finish0 a stNoContext
    | _, none => h.finish0 a stNoContext
    | some (c, s), some i =>
      match s.life with
      | .exported => h.setStream c { s with held := s.held ++ [{ a := a }] }
      | .lost => h.finish0 a stStale
      | _ => if s.locked || !s.held.isEmpty then h.setStream c { s with held := s.held ++ [{ a := a }] } else h.feedInto i a c s false

/-! ### AUDIO_IN and RING_OUT (R173, R292) -/

/-- Container bytes and width b of an AUDIO_IN format (R176, R171). -/
def audioContainer : Nat → Nat
  | 0 => 2
  | _ => 4

/-- AUDIO_IN takes effect: it waits for the first window that holds its first sample. -/
def Hw.applyAudio (h : Hw) (a : Admitted) : Hw :=
  let d := a.desc
  if !dFormatOk d then h.finish0 a stFormat
  else
    match h.lookup a.owner (dHandle d) with
    | none => h.finish0 a stNoContext
    | some (c, s) =>
      if s.life == .exported then h.finish0 a stNoContext
      else
        let data := match a.payload with | .audio r => r | _ => .failed
        let w : WaitAudio := {
          seq := a.seq, q := a.q, tag := dTag d, handle := dHandle d, chanB := bitOf (dFlags d) 0,
          start0 := BitVec.ofNat 64 (dField d 0x10 8), bits := dField d 0x28 1, data := data, expect := dField d 0x24 4,
          opened := false, lenFirst := dField d 0x20 4, lost := [] }
        h.setStream c { s with audio := s.audio ++ [w] }

/-- RING_OUT takes effect: its blocks follow those already supplied. -/
def Hw.applyRing (h : Hw) (a : Admitted) : Hw :=
  let d := a.desc
  if !dFormatOk d then h.finish0 a stFormat
  else
    match h.lookup a.owner (dHandle d) with
    | none => h.finish0 a stNoContext
    | some (c, s) =>
      if s.life == .exported then h.finish0 a stNoContext
      else if s.ringAddr == 0 then h.finish0 a stFormat
      else
        match a.payload with
        | .ring (.ok segs) =>
          match readList .output (dField d 0x18 4) segs with
          | none => h.finish0 a stFormat
          | some bs =>
            let r : RingDesc := { seq := a.seq, q := a.q, tag := dTag d, blocks := bs.map (fun b => (b.addr, b.length)), used := 0, lastIndex := none }
            h.setStream c { s with ring := { s.ring with descs := s.ring.descs ++ [r] } }
        | _ => h.finish0 a stAborted

/-! ### WEIGHT_STAGE and WEIGHT_COMMIT (R221 to R226, R456) -/

/-- A package header's fields (R221). -/
def pkTarget (b : List Byte) : Nat := leField b 0x008 4
def pkEntry (b : List Byte) : Nat := leField b 0x00C 4
def pkHash (b : List Byte) : Hash := BitVec.ofNat 512 (leField b 0x018 64)
def pkKey (b : List Byte) : List F16 := (List.range 64).map (fun k => BitVec.ofNat 16 (leField b (0x058 + 2 * k) 2))

/-- The header checks of R224, step 1. -/
def Hw.packageOk (h : Hw) (i : ImageFile) (b : List Byte) : Bool :=
  let kind := leField b 0x004 2
  let expert := kind == 2
  decide (b.length = 4096) && decide (leField b 0 4 = 0x49485750) && (kind == 1 || kind == 2) && decide (leField b 0x006 2 = 0)
  && (b.drop 0x0D8).all (fun x => x == 0)
  && (if expert then decide (pkTarget b < 0x08000000) && decide (pkTarget b % 0x1000000 < h.mem.voiceMax.toNat)
      else decide (pkTarget b = 0) && ((b.drop 0x058).take 128).all (fun x => x == 0))
  && (manifestOf i expert (pkEntry b)).isSome

/-- Catalogue index of a target field (R215). -/
def targetIndex (t : Nat) : Nat := t % 0x1000000 * 8 + t / 0x1000000 % 8

/-- The slots of the trunk table or of a variant. -/
def slotRange (trunk : Bool) : List Nat := if trunk then [0, 1, 2] else [0, 1]

/-- Give up the staging of a slot: its earlier descriptor completes with ABORTED (DEDUCED, log 12). -/
def Hw.giveUp (h : Hw) (trunk : Bool) (idx slot : Nat) : Hw :=
  let mine (g : Staging) : Bool := g.trunk == trunk && g.idx == idx && g.slot == slot
  let h1 := (h.cat.staging.filter mine).foldl (fun a g => a.complete g.q g.seq opStage g.tag 0 stAborted 0 0) h
  { h1 with cat := { h1.cat with staging := h1.cat.staging.filter (fun g => !mine g) } }

/-- WEIGHT_STAGE takes effect: step 1 of R224 and the start of step 2. A slot whose commit waits for the next start is no
longer STAGED for this choice (R225, R226). -/
def Hw.applyStage (h : Hw) (a : Admitted) : Hw :=
  let d := a.desc
  if !dFormatOk d then h.finish0 a stFormat
  else
    match h.ex.image, a.payload with
    | none, _ => h.finish0 a stFormat
    | some i, .package (.ok p) =>
      if (readList .package (dField d 0x18 4) p.list).isNone || !h.packageOk i p.header then h.finish0 a stFormat
      else
        let b := p.header
        let trunk := decide (leField b 0x004 2 = 1)
        let idx := if trunk then 0 else targetIndex (pkTarget b)
        let cur (k : Nat) : VSlot := h.vslot trunk idx k
        let committed (k : Nat) : Bool := h.cat.switches.any (fun x => x.1 == trunk && x.2.1 == idx && x.2.2 == k)
        let restore := (slotRange trunk).find? (fun k => (cur k).damaged && (cur k).hash == pkHash b)
        let staged := (slotRange trunk).find? (fun k => ((cur k).state == .staging || (cur k).state == .staged) && !committed k)
        let free := h.pickOf ((slotRange trunk).filter (fun k => (cur k).state == .free))
        let job (k : Nat) (r : Bool) : Staging :=
          { seq := a.seq, q := a.q, tag := dTag d, trunk := trunk, idx := idx, slot := k, entry := pkEntry b, hash := pkHash b,
            length := leField b 0x010 8, key := pkKey b, restore := r, copying := false
            fed := [], granules := [], verified := false }
        let start (h : Hw) (g : Staging) : Hw := { h with cat := { h.cat with staging := h.cat.staging ++ [g] } }
        match restore, (match staged with | some k => some k | none => free) with
        | some k, _ =>
          let h := h.giveUp trunk idx k
          start (h.setVslot trunk idx k { h.vslot trunk idx k with restoring := true }) (job k true)
        | none, some k =>
          let h := (if staged.isNone then h.picked else h).giveUp trunk idx k
          start (h.setVslot trunk idx k { VSlot.reset with
            state := .staging, hash := pkHash b, length := leField b 0x010 8, key := pkKey b }) (job k false)
        | none, none => h.finish0 a stNoContext
    | some _, _ => h.finish0 a stAborted

/-- Streams with immediate switch that have the part bound wait for the new version; each wait counts a reference (R287, R223). -/
def Hw.planSwitches (h : Hw) (trunk : Bool) (idx slot : Nat) : Hw :=
  h.ctxs.foldl (fun a e =>
    let (c, s) := e
    match s.bound with
    | none => a
    | some b =>
      if !s.immediate || !s.speaking then a
      else if trunk then
        let a := match s.toTrunk with | some k => a.dropRef true 0 k | none => a
        (a.addRef true 0 slot).modStream c (fun t => { t with toTrunk := some slot })
      else if b.idx = idx then
        let a := match s.toExpert with | some (x, k) => a.dropRef false x k | none => a
        ((a.addRef false idx slot).modStream c (fun t => { t with toExpert := some (idx, slot) })).requestPage idx slot
      else a) h

/-- A STAGED slot becomes CURRENT; the previous CURRENT becomes RETIRING, or FREE with no reference (R225). -/
def Hw.switchVersion (h : Hw) (trunk : Bool) (idx slot : Nat) : Hw :=
  let old := (slotRange trunk).find? (fun k => (h.vslot trunk idx k).isCurrent)
  let h := match old with
    | some k => h.setVslot trunk idx k { h.vslot trunk idx k with state := .retiring }
    | none => h
  let v := h.vslot trunk idx slot
  let h := h.setVslot trunk idx slot { v with state := .current, epoch := h.ex.tick }
  let h := if trunk then h.extend 7 6 0 v.hash
           else
             let x := h.voice idx
             h.setVoice idx { x with present := true, current := slot, key := v.key }
  let h := h.planSwitches trunk idx slot
  let h := if trunk then h
           else (h.ctxs.filter (fun e => e.2.selected == some idx)).foldl (fun a e => a.reselect e.1) h
  match old with
  | some k => h.freeVersion trunk idx k
  | none => h

/-- WEIGHT_COMMIT takes effect; while the executive is stopped it completes at once and switches at the next start
(R225, R275). -/
def Hw.applyCommit (h : Hw) (a : Admitted) : Hw :=
  let d := a.desc
  if !dFormatOk d then h.finish0 a stFormat
  else
    let trunk := decide (dField d 0x10 2 = 1)
    let idx := if trunk then 0 else targetIndex (dField d 0x14 4)
    let hit (k : Nat) : Bool :=
      let v := h.vslot trunk idx k
      v.state == .staged && !v.damaged && hash16 v.hash == BitVec.ofNat 128 (dField d 0x18 16)
      && !(h.cat.switches.any (fun x => x.1 == trunk && x.2.1 == idx && x.2.2 == k))
    let refusedTrunk := trunk && h.ex.running && (match h.ex.image with | some i => imgOneTrunk i | none => false)
    match (slotRange trunk).find? hit with
    | none => h.finish0 a stFormat
    | some k =>
      if refusedTrunk then h.finish0 a stFormat
      else
        let refs := match (slotRange trunk).find? (fun j => (h.vslot trunk idx j).isCurrent) with
          | some j => (h.vslot trunk idx j).refs
          | none => 0
        let h := if h.ex.running then h.switchVersion trunk idx k
                 else { h with cat := { h.cat with switches := h.cat.switches ++ [(trunk, idx, k)] } }
        h.finish a 0 k (BitVec.ofNat 64 refs)

/-! ### FENCE (R290, R291) -/

/-- FENCE takes effect: its scope is every descriptor decoded before it, not yet published as completed, on its queue or,
under owner scope, on its owner's queues. -/
def Hw.applyFence (h : Hw) (a : Admitted) : Hw :=
  let d := a.desc
  if !dFormatOk d then h.finish0 a stFormat
  else
    let scope := (h.rings.openDescs.filter (fun o =>
      decide (o.seq < a.seq) && (o.q == a.q || (bitOf (dFlags d) 1 && o.owner == a.owner)))).map (fun o => o.seq)
    let w : FenceWait := { seq := a.seq, q := a.q, tag := dTag d, scope := scope, count := scope.length }
    { h with rings := { h.rings with fences := h.rings.fences ++ [w] } }

/-! ### Application by class (R273) -/

/-- The class of an opcode. -/
def classOf (op : Nat) : Nat :=
  match op with
  | 0x0A => 1
  | 0x05 => 2
  | 0x07 => 3
  | 0x06 => 3
  | 0x08 => 4
  | 0x01 => 4
  | 0x0C => 5
  | 0x03 => 6
  | 0x04 => 6
  | 0x02 => 7
  | 0x0D => 7
  | 0x0E => 7
  | _ => 8

/-- One descriptor takes effect. -/
def Hw.applyOne (h : Hw) (a : Admitted) : Hw :=
  let h := h.markApplied a.seq (classOf (dOpcode a.desc))
  match dOpcode a.desc with
  | 0x01 => h.applyOpen a
  | 0x02 => h.applyFeed a
  | 0x03 => h.applyBind a
  | 0x04 => h.applyCtrl a
  | 0x05 => h.applyStop a
  | 0x06 => h.applyClose a
  | 0x07 => h.applyExport a
  | 0x08 => h.applyImport a
  | 0x09 => h.applyStage a
  | 0x0A => h.applyCommit a
  | 0x0B => h.applyFence a
  | 0x0C => if bitOf (dFlags a.desc) 0 then h.applyGroupDissolve a else h.applyGroupCreate a
  | 0x0D => h.applyAudio a
  | 0x0E => h.applyRing a
  | _ => h.finish0 a stFormat

/-- A barrier FENCE of the queue, decoded earlier and not yet published, holds the descriptor (R291); an urgent STOP it does
not hold (R13, R280; DEDUCED, log 56). -/
def Hw.fenced? (h : Hw) (a : Admitted) : Bool :=
  !a.urgent && h.rings.openDescs.any (fun o => o.q == a.q && o.barrier && decide (o.seq < a.seq))

/-- The descriptor's blocks wait for an ordinary tag (R246). A FEED behind one of its stream's
waits with it (R458). -/
def Hw.starved? (h : Hw) (a : Admitted) : Bool :=
  a.unread || (dOpcode a.desc == opFeed && h.rings.admitted.any (fun b =>
    b.unread && dOpcode b.desc == opFeed && dHandle b.desc == dHandle a.desc && decide (b.seq < a.seq)))

/-- Nothing holds the descriptor back once it is due. -/
def Hw.free? (h : Hw) (a : Admitted) : Bool := !h.fenced? a && !h.starved? a

/-- While the executive is stopped, stream descriptors complete with NO_CONTEXT; in HOLDING every descriptor completes
with VERSION_MISMATCH (R275, R394). -/
def Hw.applyStopped (h : Hw) (a : Admitted) : Hw :=
  let op := dOpcode a.desc
  if h.ex.mode == .holding then h.finish0 a stVersion
  else if decide (op = 0) || decide (0x0E < op) then h.finish0 a stFormat
  else if op == opStage || op == opCommit || op == opFence then h.applyOne a
  else h.finish0 a stNoContext

/-- Handle a descriptor while the executive is stopped, or keep it behind the barrier that holds it (R275, R291). -/
def Hw.admitStopped (h : Hw) (a : Admitted) : Hw :=
  if h.free? a then h.applyStopped a else { h with rings := { h.rings with admitted := h.rings.admitted ++ [a] } }

/-- Handle in decode order the descriptors that no boundary will apply, because the executive has stopped (R275). -/
def Hw.drainStopped (h : Hw) : Hw :=
  (h.rings.admitted.foldl Hw.admitStopped { h with rings := { h.rings with admitted := [] } })

end Sys2Proof.Machine
end

