-- ==== Sys2Proof/Machine/Program.lean ====
section
/-!
DEFINITION. The Frame Engine part of the tick program: the rows that a step serves, the order of the steps, and what is
done of them in the tick (R80, R91 to R94, R163).
-/
namespace Sys2Proof.Machine

/-- The versions that the stream's frame of this tick uses: at a switch the new ones, to which the utterance is bound from
the commit on (R287, R451). -/
def Stream.frameBound (s : Stream) : Option Bound :=
  s.bound.map (fun b => { b with
    trunk := if bitOf s.work.switched 0 then s.toTrunk.getD b.trunk else b.trunk
    slot := if bitOf s.work.switched 1 then (s.toExpert.map Prod.snd).getD b.slot else b.slot })

/-- The step serves the stream (R80, R92, R94). -/
def serves (sv : Serve) (s : Stream) : Bool :=
  match sv with
  | .chunks v => s.work.chunk.isSome && s.work.chunkRank == v
  | .rows => s.work.advance
  | .trunk v => s.work.advance && s.work.trunkRank == v
  | .expert k => s.work.advance && s.work.expertRank == k

/-- The rows of a stream in a step's section: the frames of its chunk, or its one row of the phase group. -/
def rowsFor (sv : Serve) (s : Stream) : List Nat :=
  match sv, s.work.chunk with
  | .chunks _, some (_, n) => (List.range n).map (fun q => s.work.chunkRow + q)
  | .chunks _, none => []
  | _, _ => [s.work.row]

/-- The streams that a tile step serves: those with a row in the tile's share of the rows (R72). -/
def Hw.served (h : Hw) (sv : Serve) (first count : Nat) : List (Nat × Stream) :=
  h.ctxs.filter (fun e => serves sv e.2 && (rowsFor sv e.2).any (fun r => decide (first ≤ r) && decide (r < first + count)))

/-- A Frame Engine step has passed its checks in this tick, or serves no row. -/
def Hw.stepDone (h : Hw) (p : Nat) (x : TickStep) : Bool :=
  match x.op with
  | .tile _ sv first count _ => p ∈ h.eng.steps || (h.served sv first count).isEmpty
  | _ => true

/-- Every step of an earlier place is done: a step of a later stage or layer reads what they wrote (R80). -/
def Hw.placeReached (h : Hw) (i : ImageFile) (place : Nat) : Bool :=
  i.parts.tick.steps.zipIdx.all (fun e => decide (place ≤ e.1.place) || h.stepDone e.2 e.1)

/-- The steps of the Frame Engine that serve a stream in this tick, of the feature section or of the frame (R80). -/
def stepsFor (i : ImageFile) (s : Stream) (feature : Bool) : List Nat :=
  (i.parts.tick.steps.zipIdx.filter (fun e => match e.1.op with
    | .tile _ sv first count _ => decide ((e.1.stage = 1) = feature) && serves sv s
        && (rowsFor sv s).any (fun r => decide (first ≤ r) && decide (r < first + count))
    | _ => false)).map Prod.snd

/-- The frame of the stream has passed through every step that serves it (R80). -/
def Hw.frameDone (h : Hw) (s : Stream) : Bool :=
  match h.ex.image with
  | some i => (stepsFor i s false).all (fun p => p ∈ h.eng.steps)
  | none => false

/-- The admitted chunk of the stream has passed through every step that serves it. -/
def Hw.chunkDone (h : Hw) (s : Stream) : Bool :=
  match h.ex.image with
  | some i => (stepsFor i s true).all (fun p => p ∈ h.eng.steps)
  | none => false


/-- The trunk version that runs a stream's chunk: the one its utterance has bound, and before an utterance the CURRENT one
(DESIGN CHOICE, log 115). -/
def Hw.chunkTrunk (h : Hw) (s : Stream) : Nat :=
  match s.frameBound with
  | some b => b.trunk
  | none => h.currentTrunk.getD 0

/-- The place of an element in the order of first occurrence. -/
def rankIn (l : List Nat) (x : Nat) : Nat := (l.eraseDups.findIdx? (fun y => y == x)).getD 0

/-- Rows of the tick: the advancing streams in ascending context number, the chunks likewise, and the ranks of the distinct
trunk versions and experts in that order (R80, R92, R94; the numbering is a placement, DESIGN CHOICE, log 76). A rank says
which steps serve a stream; their weights are those of the version that the stream has bound (log 116). -/
def Hw.assignRows (h : Hw) : Hw :=
  let adv := h.ctxs.filter (fun e => e.2.work.advance)
  let trunks := adv.filterMap (fun e => e.2.frameBound.map (fun b => b.trunk))
  let experts := adv.filterMap (fun e => e.2.frameBound.map (fun b => b.idx * 2 + b.slot))
  let chunks := h.ctxs.filterMap (fun e => e.2.work.chunk.map (fun x => (e.1, x.2)))
  let chunkTrunks := (h.ctxs.filter (fun e => e.2.work.chunk.isSome)).map (fun e => h.chunkTrunk e.2)
  h.mapStreams (fun c s => { s with work := { s.work with
    row := (adv.filter (fun e => decide (e.1 < c))).length
    trunkRank := match s.frameBound with | some b => rankIn trunks b.trunk | none => 0
    expertRank := match s.frameBound with | some b => rankIn experts (b.idx * 2 + b.slot) | none => 0
    chunkRank := rankIn chunkTrunks (h.chunkTrunk s)
    chunkRow := (chunks.filter (fun e => decide (e.1 < c))).foldl (fun n e => n + e.2) 0 } })

/-- The version whose near copy a Pump program's source counts in: that of the rows of its rank (R32, R92, R94; DESIGN
CHOICE, log 116). -/
def Hw.baseVersion (h : Hw) (b : PumpBase) : Option VSlot :=
  let of (p : Stream → Bool) (f : Stream → Option VSlot) := ((h.ctxs.find? (fun e => p e.2)).bind (fun e => f e.2))
  match b with
  | .space => none
  | .chunkTrunk v => of (serves (.chunks v)) (fun s => some (h.trunk (h.chunkTrunk s)))
  | .trunk v => of (serves (.trunk v)) (fun s => s.frameBound.map (fun b => h.trunk b.trunk))
  | .expert k => of (serves (.expert k)) (fun s => s.frameBound.map (fun b => h.vslot false b.idx b.slot))

/-! ### Conv-Scan Unit steps (R105, R114, R118, R163) -/

/-- Positions that a layer produces in a tick: its rate × 2.5 ms (R105). -/
def layerN (l : CsuLayer) (rate : Nat) : Nat := nth 0 l.rateHz rate / 400

/-- The positions of stripe `m` of a run: its first, and the one after its last (R118). -/
def stripeSpan (l : CsuLayer) (rate m : Nat) : Nat × Nat :=
  let n := layerN l rate
  match l.stripe with
  | some s => (min n (m * s), min n (m * s + s))
  | none => if m = 0 then (0, n) else (n, n)

/-- A position lies in one of the intervals that the passes of a step have done. -/
def covers (ivs : List (Nat × Nat)) (t : Nat) : Bool := ivs.any (fun e => decide (e.1 ≤ t) && decide (t < e.1 + e.2))

/-- The passes of a step have done all of its work for the stream. -/
def stepCovered (i : ImageFile) (s : Stream) (p : Nat) (op : CsuOp) : Bool :=
  let ivs := tget [] s.work.cover p
  match op with
  | .layer l _ m =>
    match i.parts.csu[l]? with
    | some x => let b := stripeSpan x s.rate m
                (List.range (b.2 - b.1)).all (fun k => covers ivs (b.1 + k))
    | none => true
  | .scan _ => !ivs.isEmpty

/-- The Conv-Scan Unit steps of the tick program, with their numbers. -/
def csuSteps (i : ImageFile) : List (Nat × CsuOp) :=
  i.parts.tick.steps.zipIdx.filterMap (fun e => match e.1.op with | .csu _ op _ => some (e.2, op) | _ => none)

/-- The units on which a step is placed, and the step whose berm it expects. -/
def csuPlace (i : ImageFile) (p : Nat) : List Nat × Option Nat :=
  match (tickStep i p).map TickStep.op with
  | some (StepOp.csu units _ expects) => (units, expects)
  | _ => ([], none)

/-- The unit on which the tick program places a step for a context (R114, R118). -/
def placedOn (units : List Nat) (c : Nat) : Nat := units.getD (c % units.length) 0

/-- The step belongs to a replay unit. -/
def inUnit (i : ImageFile) (unit p : Nat) : Bool := unitOf i p == some unit

/-- A replay repeats a Conv-Scan Unit step for a context: a step of its unit, and of a unit of its own group where a
Conv-Scan Unit failed (R163, R455). -/
def Replay.repeats (i : ImageFile) (r : Replay) (p c : Nat) : Bool :=
  inUnit i r.unit p && (r.who.kind != .csu || placedOn (csuPlace i p).1 c / 4 == r.who.index / 4)

/-- A replay repeats Conv-Scan Unit work of a context. -/
def Replay.serves (i : ImageFile) (r : Replay) (c : Nat) : Bool := r.ctx.isNone && (csuSteps i).any (fun e => r.repeats i e.1 c)

/-- A Pump program that fills a lock has been run: the idle chamber is filled, or has been swapped in since. -/
def Hw.fillDone (h : Hw) (i : ImageFile) (x : PumpStep) : Bool :=
  match pumpLock i.parts.tick.aux x.desc with
  | some k => tget false h.eng.filled k.num || decide (swapsBefore i k.num x.step < tget 0 h.eng.locks k.num)
  | none => true

/-- Every step that a replay repeats has passed its checks, and every lock is filled (R163). -/
def Hw.replayWhole (h : Hw) (i : ImageFile) (r : Replay) : Bool :=
  (r.who.kind == .csu || (i.parts.tick.steps.zipIdx.all (fun e => !inUnit i r.unit e.2 || h.stepDone e.2 e.1)
    && i.parts.pumps.all (fun x => !inUnit i r.unit x.step || h.fillDone i x)))
  && h.ctxs.all (fun e => !e.2.synth || (csuSteps i).all (fun x => !r.repeats i x.1 e.1 || stepCovered i e.2 x.1 x.2))

/-- The replay waits or goes on. -/
def Hw.replayOn (h : Hw) (i : ImageFile) (r : Replay) : Bool := r.refetch || !r.running || !h.replayWhole i r

end Sys2Proof.Machine
end

