-- ==== Sys2Proof/Machine/Tick.lean ====
section
/-!
DEFINITION. The tick boundary: latched settings, descriptors by class, and the decisions of the tick (R10, R13, R14, R162).
-/
namespace Sys2Proof.Machine

/-! ### Latched writes (R14) -/

/-- The trigger retry is not latched: it acts at the next boundary (R300, R410). -/
def isRetry : LatchItem → Bool
  | .retry _ => true
  | _ => false

/-- Record a latched write: it takes effect at the next boundary, or at the one after when it lands in a commit window. -/
def Hw.latch (h : Hw) (x : LatchItem) : Hw :=
  { h with latches := h.latches ++ [(if h.ex.running && h.ex.window == .commit && !isRetry x then 2 else 1, x)] }

/-- One more event of the tick's PORT entry of a port and cause (R382). -/
def ErrLog.mergePort (l : ErrLog) (p c : Nat) : ErrLog :=
  let same (e : LogEntry) : Bool := e.kind == 0x0050#16 && e.unit == unitWord { kind := .port, index := p } && e.d1 == BitVec.ofNat 64 c
  { l with pending := l.pending.map (fun e => if same e then { e with merged := satAdd e.merged 1 } else e) }

/-- A cause arises at a port: sticky bit and, once a tick, a PORT entry, which merges its repetitions; it is posted at commit
(R303, R320, R382). -/
def Hw.portCause (h : Hw) (p c : Nat) : Hw :=
  let x := h.port p
  let bit : BitVec 9 := if 1 ≤ c ∧ c ≤ 9 then 1#9 <<< (c - 1) else 0
  if c ∈ x.newCauses then ({ h with log := h.log.mergePort p c }).setPort p { x with cause := x.cause ||| bit, recover := true }
  else (h.setPort p { x with cause := x.cause ||| bit, newCauses := x.newCauses ++ [c], recover := true }).note (entry 0x0050 0 0 { kind := .port, index := p } p c)

/-- A port begins to run, or a slave waits for its drift follower (R306, R316). -/
def Port.begin (x : Port) : Port :=
  { x with state := if x.slave then .muted else .running, locked := !x.slave, nonaudio := false, frames := [], windowBad := x.slave,
           holdLeft := 0, audioWord := none, fifo := [], fifoNext := [], frameNo := 0, outQueue := [], lastOut := 0, word := 0, word0 := 0,
           prevWord := 0, periods := [], tracked := 0, stable := 0, ratioBad := 0, edges := (0, 0, 0), swap := false, clockless := false,
           ramp := 0, drift := 0, draining := false, openLine := false, openClear := 0, openClock := false, clockClear := 0 }

/-- A port stops: its FIFO is discarded and its pins go to high impedance (R304). -/
def Port.halt (x : Port) : Port :=
  { x with state := if x.state == .faultDisabled then .faultDisabled else .off, locked := false, nonaudio := false, frames := [], windowBad := true,
           holdLeft := 0, fifo := [], fifoNext := [], frameNo := 0, outQueue := [], word := 0, word0 := 0, prevWord := 0, drift := 0,
           draining := false, openLine := false, openClear := 0, openClock := false, clockClear := 0 }

/-- A port that a link loss muted runs again when the executive starts: a master, or a slave whose follower is still locked
(DESIGN CHOICE, log 27). -/
def Port.wake (x : Port) : Port :=
  if x.state == .muted && x.enabled && (!x.slave || x.locked) then { x with state := .running, locked := true, windowBad := true, draining := false }
  else { x with draining := false }

/-- The port mutes at a link loss: a master is locked only while it runs; a slave's follower keeps its lock (R253, R303). -/
def Port.mute (x : Port) : Port := { x with state := .muted, windowBad := true, locked := x.slave && x.locked }

/-- The ports' direction, role, rate or width differ. -/
def Port.reframed (x y : Port) : Bool := x.isOutput != y.isOutput || x.slave != y.slave || x.n != y.n || x.width != y.width

/-- A change of APORT_CTL, APORT_FMT or APORT_SLOTMASK comes into force. One of the direction, role, rate or width of a
running port, which no stream then uses, starts the port anew (DESIGN CHOICE, log 125). -/
def Hw.portForce (h : Hw) (p : Nat) (x : Port) : Hw :=
  let old := h.port p
  if old.enabled && !x.enabled then (h.setPort p x.halt).portCause p 9
  else if x.enabled && (!old.enabled || old.reframed x) then h.setPort p (if x.state == .faultDisabled then x else x.begin)
  else h.setPort p x

/-- Word k of rule i in force (R351). -/
def Hw.ruleWord (h : Hw) (i k : Nat) : Nat := (tget 0 h.war.policyNow (256 + 4 * i + k)).toNat

/-- The channel lies in rule i's span. -/
def Hw.spanHas (h : Hw) (i n : Nat) : Bool :=
  let w := h.ruleWord i 0
  decide (w / 256 % 256 ≤ n) && decide (n < w / 256 % 256 + w / 65536 % 256)

/-- A faulted coolant channel lies in rule i's span (R362). -/
def Hw.coolOff (h : Hw) (i : Nat) : Bool := (h.war.inletFault && h.spanHas i 0x78) || (h.war.outletFault && h.spanHas i 0x79)

/-- A rule whose entry has been written stays disabled by a coolant fault only while its span still holds a coolant channel
(R362). -/
def Hw.ruleWritten (h : Hw) (i : Nat) : Hw :=
  let r := tget RuleRun.reset h.war.rules i
  { h with war := { h.war with rules := tput RuleRun.reset h.war.rules i { r with off := r.off && (h.spanHas i 0x78 || h.spanHas i 0x79) } } }

/-- A latched item takes effect. -/
def Hw.force (h : Hw) (x : LatchItem) : Hw :=
  match x with
  | .pwrCap w => { h with pwrCapNow := w }
  | .ticksync w => { h with ts := { h.ts with ctlNow := w, sync := if w.toNat % 4 = 2 then (if h.ts.sync = 0 then 2 else h.ts.sync) else 0 } }
  | .policy off w =>
    let h := { h with war := { h.war with
      policyNow := tput 0 h.war.policyNow (off / 4) w, policyEpoch := if h.ex.running then h.ex.tick else stoppedEpoch } }
    if off < 0x400 then h else h.ruleWritten ((off - 0x400) / 16)
  | .aportCtl p w => h.portForce p { h.port p with ctlNow := w }
  | .aportFmt p w => h.portForce p { h.port p with fmtNow := w }
  | .aportMask p w => h.portForce p { h.port p with maskNow := w }
  | .retry p =>
    let y := h.port p
    if y.state == .faultDisabled then h.setPort p (if y.enabled then y.begin else { y with state := .off }) else h
  | .credit q w => h.modQueue q (fun y => { y with creditNow := w })
  | .eccClear => { h with mem := { h.mem with ecc := EccStat.reset } }
  | .logClear => { h with log := { h.log with slots := [], writeSlot := 1, overwritten := 0 } }

/-- The latched writes that `f` takes pass one boundary: those that are due take effect in order of arrival. -/
def Hw.latchPass (h : Hw) (f : LatchItem → Bool) : Hw :=
  let due := h.latches.filter (fun e => f e.2 && decide (e.1 ≤ 1))
  let h := { h with latches := (h.latches.filter (fun e => !(f e.2 && decide (e.1 ≤ 1)))).map (fun e => (if f e.2 then e.1 - 1 else e.1, e.2)) }
  due.foldl (fun a e => a.force e.2) h

/-- A write of WARDEN_POLICY. -/
def isPolicy : LatchItem → Bool
  | .policy _ _ => true
  | _ => false

/-- A write of a register that governs tick work: the power cap, TICKSYNC and the ports (R14). -/
def isTickWork : LatchItem → Bool
  | .pwrCap _ => true
  | .ticksync _ => true
  | .aportCtl _ _ => true
  | .aportFmt _ _ => true
  | .aportMask _ _ => true
  | _ => false

/-- A tick boundary passes for the latched writes; a credit in force lets its queue read (R14, R244). -/
def Hw.latchBoundary (h : Hw) : Hw := (h.latchPass (fun _ => true)).issueReads

/-- An idle publication passes for the latched writes that no tick work waits for. The settings of tick work are latched for
epoch 0 (R449), and WARDEN_POLICY waits for a scan (R349). -/
def Hw.latchIdle (h : Hw) : Hw := (h.latchPass (fun x => !isTickWork x && !isPolicy x)).issueReads

/-- A change of the coolant faults acts on the cap and the thresholds, and the rules that a fault disabled are enabled
again once it has cleared (R362). -/
def Hw.coolBoundary (h : Hw) : Hw :=
  if !h.war.coolPending then h
  else
    { h with ex := { h.ex with coolCap := h.war.inletFault || h.war.outletFault }
             war := { h.war with coolPending := false
                                 rules := (h.war.rules.map (fun (e : Nat × RuleRun) => (e.1, { e.2 with off := e.2.off && h.coolOff e.1 }))).filter
                                   (fun e => decide (e.2 ≠ RuleRun.reset)) } }

/-! ### Descriptors by class (R273, R291) -/

/-- The descriptors that take effect at this boundary, by class and order of decode. -/
def Hw.dueNow (h : Hw) : List Admitted :=
  sortBy (fun a => classOf (dOpcode a.desc)) (h.rings.admitted.filter (fun a => decide (a.due ≤ h.ex.tick) && h.free? a))

/-- Apply the descriptors of the boundary whose class satisfies `f`. A descriptor that an earlier one aborted is gone. -/
def Hw.applyDue (h : Hw) (f : Nat → Bool) : Hw :=
  (h.dueNow.filter (fun a => f (classOf (dOpcode a.desc)))).foldl (fun x a =>
    if x.rings.admitted.any (fun b => b.seq == a.seq) then
      ({ x with rings := { x.rings with admitted := x.rings.admitted.filter (fun b => b.seq != a.seq) } }).applyOne a
    else x) h

/-! ### Chunks, utterances and frames (R84, R85, R278, R287) -/

/-- The stream's next frame index. -/
def Stream.frameNo (s : Stream) : Nat := s.bank.frame.nextFrame.toNat

/-- The stream's Frame Engine work falls in this tick: its phase group is advanced and it is in service (R15, R19). -/
def Hw.inPhase (h : Hw) (s : Stream) : Bool :=
  decide (h.ex.tick.toNat % 5 = s.phase) && (s.life == .idle || (s.life == .speaking && decide (s.firstOut ≤ h.ex.tick) && s.importSeq.isNone))

/-- The stream still has frames to compute in its utterance. -/
def Stream.framesLeft (s : Stream) : Bool :=
  match s.area.eou with
  | some e => decide (s.frameNo ≤ e)
  | none => true

/-- The position the next frame reads. -/
def Hw.needs (h : Hw) (s : Stream) : Nat := readPos (feOf h).lookAhead s.area s.frameNo

/-- The boundary at which a chunk became ready; this one where none is noted. -/
def Stream.readyAt (s : Stream) (p : Nat) (now : W64) : W64 := ((s.ready.find? (fun e => e.1 == p)).map Prod.snd).getD now

/-- Note the boundary at which each chunk became ready (R84). -/
def Hw.markReady (h : Hw) : Hw :=
  h.mapStreams (fun _ s => { s with ready := (readyChunks (feOf h).chunk s.area).map (fun p => (p, s.readyAt p h.ex.tick)) })

/-- Ready chunks in the order of R84: those a stream of the phase group reads, then the rest by readiness, and otherwise the
lower context first. -/
def Hw.chunkOrder (h : Hw) : List (Nat × Nat × Nat) :=
  let lc := (feOf h).chunk
  let cs := h.ctxs.filterMap (fun e =>
    if e.2.life != .idle && e.2.life != .speaking then none
    else match readyChunk lc e.2.area with
      | some (p, n) => some (e.1, e.2, p, n)
      | none => none)
  let wanted (e : Nat × Stream × Nat × Nat) : Bool :=
    h.inPhase e.2.1 && decide (e.2.2.1 ≤ h.needs e.2.1) && decide (h.needs e.2.1 < e.2.2.1 + e.2.2.2)
  let key (e : Nat × Stream × Nat × Nat) : Nat := (e.2.1.readyAt e.2.2.1 h.ex.tick).toNat
  (cs.filter wanted ++ (sortBy key (cs.filter (fun e => !wanted e)))).map (fun e => (e.1, e.2.2.1, e.2.2.2))

/-- Admit ready chunks up to A rows, passing over those that do not fit what remains (R84). -/
def Hw.admitChunks (h : Hw) : Hw :=
  (h.chunkOrder.foldl (fun (acc : Nat × Hw) e =>
    if e.2.2 ≤ acc.1 then (acc.1 - e.2.2, acc.2.modStream e.1 (fun s => { s with work := { s.work with chunk := some (e.2.1, e.2.2) } }))
    else acc) ((feOf h).allowance, h)).2

/-- The feature-section output at the position the next frame reads is present, or is produced in this tick (R85, R278). -/
def Hw.featureReady (h : Hw) (s : Stream) : Bool :=
  let r := h.needs s
  (areaOut s.area r).isSome || (match s.work.chunk with | some (p, n) => decide (p ≤ r) && decide (r < p + n) | none => false)

/-- The conditions under which an IDLE stream's utterance begins at its phase tick (R278). -/
def Hw.canBegin (h : Hw) (s : Stream) : Bool :=
  s.life == .idle && h.currentTrunk.isSome
  && (match s.pinnedSel with
      | some (i, k) => (h.vslot false i k).resident && (h.vslot false i k).usable
      | none => false)
  && (decide (0 < s.area.positioned) || decide (s.bank.utt.nextFeature.toNat < s.area.rawPos)) && h.featureReady s

/-- An utterance begins: the CURRENT versions are bound and counted, and the shaper has no fade pending (R180, R278, R286). -/
def Hw.beginUtterance (h : Hw) (c : Nat) (s : Stream) : Hw :=
  match h.currentTrunk, s.pinnedSel with
  | some t, some (i, k) =>
    let h := (h.addRef true 0 t).addRef false i k
    let h := h.dropSelection c
    let b := s.bank
    let utt := { b.utt with
      midUtt := true, uttFirst := b.sample.nextSample + (if s.group.isSome then BitVec.ofNat 64 s.n else 0)
      trunkHash := hash16 (h.trunk t).hash, expertHash := hash16 (h.vslot false i k).hash
      voice := s.voiceNext, variant := some (BitVec.ofNat 3 (i % 8)) }
    let sp := match h.ex.image with | some im => freshSample im b.sample | none => b.sample
    let b := { b with utt := utt, sample := { sp with shaper := { sp.shaper with j := 32, k := 0 } } }
    h.modStream c (fun s => { s with
      life := .speaking, bank := b, bound := some { trunk := t, idx := i, slot := k }, history := { emptyHistory with firstFrame := b.frame.nextFrame }
      work := { s.work with begins := true, advance := true } })
  | _, _ => h

/-- The bound expert runs in this tick (R91). -/
def Hw.useExpert (h : Hw) (c : Nat) : Hw :=
  match h.stream c with
  | some s =>
    match s.frameBound with
    | some b => h.setVslot false b.idx b.slot { h.vslot false b.idx b.slot with lastUse := (h.ex.tick.toNat : Int) }
    | none => h
  | none => h

/-- The switches that the frame of this phase tick makes: of each part whose new version is usable (R287). Where the phase
tick computes no frame, its feature being late or its group held, or where the frame is discarded, the switch waits for the
stream's next phase tick (R451; DESIGN CHOICE, log 122). -/
def Hw.switchStream (h : Hw) (c : Nat) : Hw :=
  h.modStream c (fun s =>
    let expert := match s.toExpert with
      | some (i, k) => (h.vslot false i k).resident && (h.vslot false i k).usable
      | none => false
    { s with work := { s.work with switched := b2n s.toTrunk.isSome + 2 * b2n expert } })

/-- Index at the start of the next tick: one run later when the stream has a run in this tick. -/
def Hw.idxNext (h : Hw) (s : Stream) : W64 :=
  if s.group.isSome || (s.speaking && decide (s.firstOut ≤ h.ex.tick) && !s.work.begins) then s.idx + BitVec.ofNat 64 s.n else s.idx

/-- The group of the stream holds: group-hold mode with a speaking member of this phase tick that lacks its feature
position (R185). -/
def Hw.groupLacks (h : Hw) (g : Nat) : Bool :=
  match h.group g with
  | none => false
  | some x => x.hold && x.members.any (fun m =>
      match h.stream m with
      | some s => s.speaking && h.inPhase s && s.framesLeft && !h.featureReady s
      | none => false)

/-- What the Frame Engine does for a stream of the phase group: it begins, advances, is late or is held (R85, R185, R278). -/
def Hw.decideFrame (h : Hw) (lacks : Nat → Bool) (c : Nat) : Hw :=
  match h.stream c with
  | none => h
  | some s =>
    if !h.inPhase s then h
    else
      let held := match s.group with | some g => lacks g | none => false
      if s.speaking then
        if !s.framesLeft then (if held then h.miss c s 0x03 5 1 (h.idxNext s) else h)
        else if !h.featureReady s then h.miss c s 0x01 5 1 (h.idxNext s)
        else if held then h.miss c s 0x03 5 1 (h.idxNext s)
        else ((h.modStream c (fun t => { t with work := { t.work with advance := true } })).switchStream c).useExpert c
      else
        -- the router selects at the start of the utterance (R88)
        let h := h.reselect c
        match h.stream c with
        | none => h
        | some s => if held || !h.canBegin s then h else (h.beginUtterance c s).useExpert c

/-- All decisions on frames of the tick. -/
def Hw.decideFrames (h : Hw) : Hw :=
  let lacking := (h.groups.map Prod.fst).filter h.groupLacks
  let cs := h.ctxs.map Prod.fst
  cs.foldl (fun a c => a.decideFrame (fun g => g ∈ lacking) c) h

/-! ### Runs and the spillway (R178, R179, R185) -/

/-- Decide the stream's run: IDLE streams outside groups have none; a stream with no frame to play takes the spillway. -/
def Hw.decideRun (h : Hw) (c : Nat) : Hw :=
  h.modStream c (fun s =>
    let run := match s.life with
      | .speaking => if s.work.begins then s.group.isSome else decide (s.firstOut ≤ h.ex.tick) && s.importSeq.isNone
      | .idle => s.group.isSome && s.importSeq.isNone
      | .lost => true
      | .exported => false
    let noFrame := s.life == .speaking && !s.work.begins && (!s.bank.cond.valid || decide (5 ≤ s.bank.sample.fifths))
    let lane := match s.lane with
      | some l => if run then some { l with mode := .issuing } else some l
      | none => none
    { s with lane := lane, work := { s.work with run := run, spill := if run && noFrame then some .noFrame else none } })

/-- RING_LATE of a stream: a ring is bound and gives no room for the run (R178). -/
def Hw.decideRing (h : Hw) (c : Nat) : Hw :=
  match h.stream c with
  | none => h
  | some s =>
    let speaks := (s.speaking && !s.work.begins) || s.life == .lost
    if s.work.run && speaks && s.ringAddr != 0 && !s.ring.room (runBytes s) then
      let h := h.miss c s 0x02 1 0 s.idx
      h.setStream c { s with work := { s.work with ringLate := true, spill := some (s.work.spill.getD .lostFifth) } }
    else h

/-- In group-hold mode a member's RING_LATE takes every member to the spillway with its fifth lost (R185). -/
def Hw.holdRing (h : Hw) (g : Nat) : Hw :=
  match h.group g with
  | none => h
  | some x =>
    let late := x.members.any (fun m => match h.stream m with | some s => s.work.ringLate && s.speaking | none => false)
    if x.hold && late then
      x.members.foldl (fun a m =>
        match a.stream m with
        | none => a
        | some s =>
          if s.speaking && s.work.run && !s.work.begins && !s.work.ringLate then
            (a.miss m s 0x03 1 0 s.idx).setStream m { s with work := { s.work with spill := some (s.work.spill.getD .lostFifth) } }
          else a) h
    else h

/-- All decisions on runs of the tick; the written bank starts from the committed one (R143). -/
def Hw.decideRuns (h : Hw) : Hw :=
  let cs := h.ctxs.map Prod.fst
  let h := cs.foldl Hw.decideRun h
  let h := cs.foldl Hw.decideRing h
  let h := (h.groups.map Prod.fst).foldl Hw.holdRing h
  h.mapStreams (fun _ s => { s with wbank := s.bank })

/-! ### Units at the boundary -/

/-- The replay unit number of a refetch that no replay unit waits for. -/
def scrubUnit : Nat := 0x10000

/-- A granule refetch goes on past the boundary; the replay unit that waited for it has ended with its tick (R227). -/
def Replay.carry (r : Replay) : Replay :=
  { r with who := { kind := .nearStack, index := 0 }, unit := scrubUnit, ctx := none, running := false, fails := 0 }

/-- Units start the tick from the same state: locks with chamber A in use, lanes and tiles idle (R166). The flags, berms
and releases of the Conv-Scan Units are clear too (DESIGN CHOICE, log 83). -/
def Hw.resetUnits (h : Hw) : Hw :=
  { h with eng := { h.eng with
      tiles := [], csus := [], locks := [], filled := [], swapWait := [], steps := []
      replays := (h.eng.replays.filter (fun r => r.refetch && r.owner.isSome)).map Replay.carry
      lanes := (h.eng.lanes.map (fun e => (e.1, { LaneUnit.reset with lastSlot := e.2.lastSlot }))).filter (fun e => decide (e.2 ≠ LaneUnit.reset)) } }

/-- Fences that fall due at a boundary (R366), and the contexts of fenced lanes moved to live lanes (R368). -/
def Hw.fenceBoundary (h : Hw) : Hw :=
  let due := h.eng.fenceDue
  let h := due.foldl (fun a e => a.fence e.1 e.2) { h with eng := { h.eng with fenceDue := [] } }
  h.ctxs.foldl (fun a e =>
    match e.2.lane with
    | some l =>
      if (⟨.lane, l.lane⟩ : UnitId) ∈ a.eng.fenced then
        let a := a.modStream e.1 (fun s => { s with lane := none })
        match a.placeLane with
        | some n => a.modStream e.1 (fun s => { s with lane := some { n with mode := l.mode } })
        | none => a
      else a
    | none => a) h

/-- Every resident expert is usable from the boundary after its page-in (R89). -/
def usableNow (v : VSlot) : VSlot := { v with usable := v.resident }

def Hw.expertsUsable (h : Hw) : Hw :=
  (h.cat.voices.map Prod.fst).foldl (fun a i =>
    let v := a.voice i
    a.setVoice i { v with slot0 := usableNow v.slot0, slot1 := usableNow v.slot1 }) h

/-- The gate reopens at the first boundary after the STOP's completion is published: not while an urgent STOP has yet to
act, nor while the completion of one that has acted is held back for want of an entry (R262, R310). -/
def Hw.reopenGates (h : Hw) : Hw :=
  h.mapStreams (fun c s =>
    let waits := h.rings.admitted.any (fun a => a.urgent && dHandle a.desc == s.handle c)
      || h.rings.openDescs.any (fun o => o.op == opStop && o.handle == s.handle c && o.applied.isSome)
    if s.gated && !waits then { s with gated := false, gatedCount := 0 } else s)

/-- A planned eviction whose last output tick was the previous one applies (R285, R373). -/
def Hw.evictions (h : Hw) : Hw :=
  h.ctxs.foldl (fun a e =>
    match e.2.plan with
    | some p => if p + 1 = a.ex.tick then a.evict e.1 e.2 else a
    | none => a) h

/-- The port FIFOs move on: the run committed last plays in this tick (R305). -/
def Hw.portsBoundary (h : Hw) : Hw :=
  (h.ports.map Prod.fst).foldl (fun a p =>
    a.modPort p (fun x => { x with fifo := x.fifoNext, fifoNext := [], frameNo := 0 })) h

/-- Stop the executive: the device is READY, no window runs (R253, R419). What waited for a second boundary waits for the
next one or the next scan (R14, R349). -/
def Hw.haltExec (h : Hw) : Hw :=
  { h with latches := h.latches.map (fun e => (1, e.2)), ts := { h.ts with own := false }
           ex := { h.ex with running := false, stopping := none, start := .none, window := .stopped, rerun := false } }

/-- The state after the executive has stopped: SAFE where it was decided, otherwise READY (R358, R370, R419). -/
def Hw.rest (h : Hw) (cause : Nat) : Hw :=
  match h.ex.safePlan with
  | some c =>
    ({ h with ex := { h.ex with safePlan := none, safeTick := false, fault := c }
              war := { h.war with safe := h.war.safe || decide (c = 0), stuckSafe := h.war.stuckSafe || decide (c ≠ 0), safeClear := 0 } }).setMode
      .safe c.toNat
  | none => h.setMode .ready cause

/-- The latched stop acts: no tick starts, and the descriptors decoded so far are handled as while stopped (R419, R275). -/
def Hw.stopNow (h : Hw) : Hw := (h.haltExec.rest 0x0416).drainStopped

/-- A source or a follower gives a pulse at each of its own tick boundaries (R186). -/
def Hw.givesPulse (h : Hw) : Bool := decide (h.ts.ctlNow.toNat % 4 ≠ 0)

/-- Steps 1 and 2 of R162 for a tick that runs: everything that comes about at its boundary. -/
def Hw.beginTick (h : Hw) : Hw :=
  let h := { h with ex := { h.ex with window := .work, overrun := none, gap := false, hold := h.war.hold || h.war.capHold,
                                      safeTick := h.ex.safePlan.isSome }
                    pwr := { h.pwr with tickPulse := h.givesPulse, masterBclk := true, pllsLocked := true }
                    cat := { h.cat with pagesTick := 0 }
                    eng := { h.eng with leaving := [] } }
  let h := { h.coolBoundary with ts := { h.ts with rephase := 0 } }
  let h := h.mapStreams (fun _ s => { s with work := { TickWork.empty with drift := s.work.drift } })
  let h := h.portsBoundary.resetUnits.fenceBoundary.expertsUsable.reopenGates
  let sw := h.cat.switches
  let h := sw.foldl (fun a x => if (a.vslot x.1 x.2.1 x.2.2).state == .staged then a.switchVersion x.1 x.2.1 x.2.2 else a) { h with cat := { h.cat with switches := [] } }
  -- classes 1 and 2 stand ahead of the evictions, which stand ahead of class 3 (R273, R374)
  let h := (h.applyDue (fun k => decide (k ≤ 2))).evictions
  let h := if h.ex.safeTick then
      h.ctxs.foldl (fun a e => if e.2.evictAddr != 0 && e.2.life != .exported && e.2.life != .lost then
          (a.evict e.1 e.2).modStream e.1 (fun s => { s with work := { s.work with copied := true } }) else a) h
    else h
  let h := h.applyDue (fun k => decide (2 < k) && decide (k ≤ 6))
  let h := if h.ex.safeTick then h else h.markReady.admitChunks.decideFrames.assignRows
  let h := h.applyDue (fun k => decide (6 < k))
  if h.ex.safeTick then h else h.decideRuns

/-- The tick that follows an outage: its epoch is flagged and counted, streams with an output tick post CLOCK, and the
capture windows are invalid (R31, R336). -/
def Hw.afterOutage (h : Hw) : Hw :=
  let h := { h with ex := { h.ex with gap := true, gapCount := h.ex.gapCount + 1 }
                    ports := h.ports.map (fun (e : Nat × Port) => (e.1, { e.2 with windowBad := true })) }
  h.ctxs.foldl (fun a e => if e.2.work.run && (e.2.speaking || e.2.life == .lost) then a.miss e.1 e.2 0x06 0 0 e.2.idx else a) h

/-- The interrupted tick runs again from its preserved inputs: the engines' results of the first run are discarded, the
boundary's decisions stand (R31, R75, R143). Latched writes pass no boundary here: one made during the interrupted tick
or the outage waits for the next tick's boundary (DEDUCED, log 79). -/
def Hw.rerunTick (h : Hw) : Hw :=
  let h := { h with ex := { h.ex with window := .work, rerun := false, overrun := none }
                    pwr := { h.pwr with tickPulse := h.givesPulse, masterBclk := true, pllsLocked := true } }
  let h := h.mapStreams (fun _ s => { s with
    wbank := s.bank
    work := { s.work with chunkOuts := [], chunkRecs := [], layers := [], cover := [], scanOuts := [], lane := .empty,
                          samples := [], copied := false, drift := none, checks := [], ssm := [] } })
  h.resetUnits.afterOutage

/-- A start counts epochs anew: last uses and faults before it lie before epoch 0 (R91, R366; DEDUCED, log 15). -/
def Hw.rebaseUse (h : Hw) : Hw :=
  let n : Int := match h.ex.last with | some t => t.toNat + 1 | none => 0
  let past (x : FaultHist) : FaultHist := { x with ticks := x.ticks.map (fun t => t - n), sram := x.sram.map (fun e => (e.1, e.2 - n)) }
  let h := { h with eng := { h.eng with hist := h.eng.hist.map past } }
  let f (v : VSlot) : VSlot := { v with lastUse := if v.state == .free then 0 else v.lastUse - n }
  (h.cat.voices.map Prod.fst).foldl (fun a k =>
    let v := a.voice k
    a.setVoice k { v with slot0 := f v.slot0, slot1 := f v.slot1 }) h

/-- The trunk that is CURRENT at the first boundary of a start, by a commit served while stopped or already, has its near
copy (R224, R418). -/
def Hw.trunkReady (h : Hw) : Bool :=
  match (h.cat.switches.filter (fun x => x.1)).getLast?, h.currentTrunk with
  | some x, _ => (h.trunk x.2.2).resident
  | none, some k => (h.trunk k).resident
  | none, none => true

/-- TICK_BOUNDARY: a running executive passes from the commit of one tick to the next; a scheduled start begins epoch 0;
a latched stop acts, or is cancelled by an allocated context; an interrupted tick starts again. -/
def Hw.boundary (h : Hw) : Hw :=
  if !h.decodes || (h.ex.running && h.pwr.syncTimeout) then h
  else if h.ex.running && h.ex.rerun && h.ex.window != .commit then h.rerunTick
  else if h.ex.running && h.ex.window == .commit then
    let h := { h with ex := { h.ex with tick := h.ex.tick + 1 } }
    let h := h.latchBoundary
    let go (x : Hw) : Hw := if h.ex.rerun then ({ x with ex := { x.ex with rerun := false } }).beginTick.afterOutage else x.beginTick
    match h.ex.stopping with
    | some n =>
      if !h.ctxs.isEmpty then go (({ h with ex := { h.ex with stopping := none } }).refused 0x0100)
      else if n ≤ 1 then h.stopNow
      else go { h with ex := { h.ex with stopping := some (n - 1) } }
    | none => go h
  else if !h.ex.running && h.ex.start == .scheduled && h.trunkReady then
    let h := h.rebaseUse
    let h := { h with ex := { h.ex with tick := 0, last := none, start := .none, running := true, gapCount := 0 }
                      cnt := { h.cnt with saturated := 0, audioLate := 0, exhausted := 0, transient := 0, syncMissing := 0, rephases := 0,
                                          misses := 0, dropped := 0 } }
    let h := { h with rings := { h.rings with admitted := h.rings.admitted.map (fun (a : Admitted) => { a with due := 0 }) } }
    let h := h.setMode h.runMode 0x0418
    let h := { h with ports := h.ports.map (fun (e : Nat × Port) => (e.1, e.2.wake)) }
    h.latchBoundary.beginTick
  else h

def execTickBoundary (s : State) : Host.Outcome State Fault Refusal := .next { s with hw := s.hw.boundary }

/-- REPLAY_RESERVE_START: at ACLK 1,751,808 the device checks that scheduled work has ended; work that ran over is
recorded as OVERRUN with the ACLK by which it ran over (R10, R11). -/
def Hw.reserveStart (h : Hw) (late : Option Nat) : Hw :=
  if h.ex.running && h.ex.window == .work && h.decodes && !h.ex.rerun then
    let h := { h with ex := { h.ex with window := .reserve, overrun := late } }
    match late with
    | some n => h.note (entry 0x0002 1 0 moduleUnit n 0)
    | none => h
  else h

def execReplayReserveStart (late : Option Nat) (s : State) : Host.Outcome State Fault Refusal :=
  .next { s with hw := s.hw.reserveStart late }

end Sys2Proof.Machine
end

