-- ==== Sys2Proof/Machine/Faults.lean ====
section
/-!
DEFINITION. Compute faults and their replays, and memory reads that the ECC could not correct (R74, R163, R227, R364 to
R368).
-/
namespace Sys2Proof.Machine

/-- The engines run: a tick other than the eviction tick of SAFE is in its work or reserve window and the clocks are there
(R10, R333, R358). -/
def Hw.engOn (h : Hw) : Bool := h.decodes && h.ex.running && !h.ex.rerun && !h.ex.safeTick && (h.ex.window == .work || h.ex.window == .reserve)

/-- Two units of one kind and one redistribution domain (R368). -/
def samePeers (u v : UnitId) : Bool := u.kind == v.kind && unitDomain u == unitDomain v

/-- The unit itself, or a peer that runs the work of a fenced one (R367, R368). -/
def Hw.standsFor (h : Hw) (v u : UnitId) : Bool := v == u || (samePeers u v && u ∈ h.eng.fenced)

/-- A double-bit SRAM error of a unit: counted; the same address in two ticks fences it at the next boundary (R364, R366). -/
def Hw.doubleBit (h : Hw) (u : UnitId) (a : W64) : Hw :=
  let h := { h with mem := { h.mem with ecc := { h.mem.ecc with sramDbl := satAdd h.mem.ecc.sramDbl 1 } } }
  let x := h.histOf u
  match x.sram.find? (fun e => e.1 == a) with
  | none => h.setHist { x with sram := x.sram ++ [(a, (h.ex.tick.toNat : Int))] }
  | some e =>
    if e.2 = (h.ex.tick.toNat : Int) || h.eng.fenceDue.any (fun d => d.1 == u) || u ∈ h.eng.fenced then h
    else { h with eng := { h.eng with fenceDue := h.eng.fenceDue ++ [(u, 4)] } }

/-- The replay of a unit's replay unit; a lane's is of one context. -/
def Hw.isReplay (h : Hw) (u : UnitId) (unit : Nat) (ctx : Option Nat) (r : Replay) : Bool :=
  r.unit == unit && r.ctx == ctx && h.standsFor u r.who && !r.refetch

/-- A replay unit fails its checks at a unit: the first failure queues a replay; two consecutive failed replays at one unit,
be it a peer that runs a fenced one's work, fence it at once (R163, R365, R366). A lane reissues by itself: its replay runs at once (R133). -/
def Hw.unitFault (h : Hw) (u : UnitId) (unit : Nat) (ctx : Option Nat) : Hw :=
  let h := h.computeFault u
  match h.eng.replays.find? (h.isReplay u unit ctx) with
  | none =>
    let r : Replay := { who := u, unit := unit, fails := 0, ctx := ctx, running := u.kind == .lane, refetch := false, owner := none }
    { h with eng := { h.eng with replays := h.eng.replays ++ [r] } }
  | some r =>
    if !r.running then h
    else
      let n := if r.who = u then r.fails + 1 else 1
      let up (x : Replay) : Replay := if h.isReplay u unit ctx x then { x with who := u, fails := n, running := u.kind == .lane } else x
      let h := { h with eng := { h.eng with replays := h.eng.replays.map up } }
      if 2 ≤ n then h.fence u 1 else h

/-- A pass of a replay unit has passed its checks: a running replay whose steps have all passed ends, and the fault that it
cured is transient (R163, R365); the third run on the peers of a fenced unit is not (R367). A lane's reissues are counted as they happen. -/
def Hw.unitPass (h : Hw) (u : UnitId) (unit : Nat) (ctx : Option Nat) : Hw :=
  let whole (r : Replay) : Bool := match h.ex.image with | some i => h.replayWhole i r | none => true
  let hit (r : Replay) : Bool :=
    r.unit == unit && r.ctx == ctx && ((r.who.kind == .lane) == (u.kind == .lane)) && !r.refetch && r.running && (u.kind == .lane || whole r)
  let cured := h.eng.replays.filter hit
  let h := { h with eng := { h.eng with replays := h.eng.replays.filter (fun x => !hit x) } }
  cured.foldl (fun a r =>
    if r.who ∈ a.eng.fenced || r.owner.isSome then a
    else if r.who.kind == .lane then { a with cnt := { a.cnt with transient := a.cnt.transient + 1 } }
    else a.transient r.who unit (r.fails + 1)) h

/-- A fault of the replay unit waits for its replay to start, or for a granule: no pass that it repeats ends before (R163,
R227). -/
def Hw.replayWaits (h : Hw) (unit : Nat) (repeats : Replay → Bool) : Bool :=
  h.eng.replays.any (fun r => r.unit == unit && repeats r && r.ctx.isNone && (!r.running || r.refetch))

/-- A single-bit SRAM error is corrected and counted (R364). -/
def Hw.corrected (h : Hw) : Hw := { h with mem := { h.mem with ecc := { h.mem.ecc with sramCorr := satAdd h.mem.ecc.sramCorr 1 } } }

/-- The outcome of a pass's checks at a unit: a failure queues the replay unit; otherwise the pass takes effect, and may end
a replay (R163). A double-bit error is a fault of the unit that owns the SRAM (R364). -/
def Hw.checked (h : Hw) (u owner : UnitId) (unit : Nat) (ctx : Option Nat) (chk : PassCheck) (residues : Bool) (f : Hw → Hw) : Hw :=
  let good (a : Hw) : Hw := (f a).unitPass u unit ctx
  match chk with
  | .fault => h.unitFault u unit ctx
  | .doubleBit a => (h.doubleBit owner a).unitFault owner unit ctx
  | .corrected => if residues then good h.corrected else h.corrected.unitFault u unit ctx
  | .pass => if residues then good h else h.unitFault u unit ctx

/-! ### Permanent faults without a fence (R371) -/

/-- A permanent fault of class 0x07 to 0x09, recorded by an ECC_UNCORRECTABLE entry. While the executive is stopped its
module event is posted at once. -/
def Hw.permanent (h : Hw) : Hw :=
  let h := { h with ex := { h.ex with perm := true } }
  if h.ex.running then h else h.moduleEvent 0x84 stDegraded h.log.newest

/-- ECC_UNCORRECTABLE: space, address, owner, with a fault class or 0 (R227, R383). -/
def Hw.noteEcc (h : Hw) (near : Bool) (unit addr owner cls : Nat) : Hw :=
  h.note (entry 0x0010 (if cls = 0 then 1 else 2) cls { kind := if near then .nearStack else .farChannel, index := unit } (if near then 0 else 1) addr (Config.ownerCode owner).toNat)

/-! ### Lost state and DAMAGED versions (R227, R456) -/

/-- A stream's state is lost: the flag is set, its output is silence, its FEEDs complete STALE_STATE, and a planned
eviction lapses (R227, R276, R374). An EXPORTED or LOST context stays as it is (R276; DEDUCED, log 55). -/
def Hw.loseState (h : Hw) (c : Nat) : Hw :=
  match h.stream c with
  | none => h
  | some s =>
    if s.life != .idle && s.life != .speaking then h else
    let h := (s.queued ++ s.held).foldl (fun a f => a.finish0 f.a stStale) h
    h.setStream c { s with
      life := .lost, stateLost := true, queued := [], held := [], plan := none, heldRec := none
      work := { s.work with advance := false, chunk := none, spill := none } }

/-- A version becomes DAMAGED: it remembers its state, and the streams bound to it are advised at the commit; a page-in of it
that has been admitted waits again (R227, R372, R456). -/
def Hw.damage (h : Hw) (trunk : Bool) (idx slot : Nat) : Hw :=
  let v := h.vslot trunk idx slot
  if v.damaged || !(v.state == .staged || v.state == .current || v.state == .retiring) then h
  else
    let again (p : PageIn) : PageIn := if !trunk && p.idx == idx && p.slot == slot then { p with admitted := false } else p
    let h := { h with cat := { h.cat with pageIns := h.cat.pageIns.map again } }
    h.setVslot trunk idx slot { v with damaged := true, nearGranules := if v.resident then v.nearGranules else [] }

/-- The owner of a line by number; its code in an ECC_UNCORRECTABLE entry is open (log 16). -/
def ownerCode : LineOwner → Nat
  | .trunk s => 1 + s * 256
  | .expert i s => 2 + s * 256 + i * 65536
  | .bank c => 3 + c * 65536
  | .farTrunk s => 4 + s * 256
  | .farExpert i s => 5 + s * 256 + i * 65536
  | .directory _ => 6
  | .imageRegion => 7
  | .workingSpace => 8
  | .other => 0

/-- A version without its near copy. -/
def VSlot.away (v : VSlot) : VSlot := { v with resident := false, usable := false, nearGranules := [], nearMap := 0 }

/-- Wait for the refetch of a granule of a version, on behalf of a unit's replay unit (R227). -/
def Hw.awaitRefetch (h : Hw) (u : UnitId) (unit : Nat) (o : Bool × Nat × Nat) : Hw :=
  { h with eng := { h.eng with replays := h.eng.replays ++
      [{ who := u, unit := unit, fails := 0, ctx := none, running := false, refetch := true, owner := some o }] } }

/-- An uncorrectable read is counted, and its place is the last uncorrectable (R229). -/
def Hw.countUncorrectable (h : Hw) (near : Bool) (unit addr : Nat) : Hw :=
  let e := h.mem.ecc
  let e := if near then { e with nearUnc := tput 0 e.nearUnc unit (satAdd (tget 0 e.nearUnc unit) 1) }
           else { e with farUnc := tput 0 e.farUnc unit (satAdd (tget 0 e.farUnc unit) 1) }
  { h with mem := { h.mem with ecc := { e with lastSpace := if near then 0 else 1, lastAddr := BitVec.ofNat 64 addr } } }

/-- An uncorrectable read, by where the line lies (R227). `reader` is the unit whose replay unit read it, and `op` the
operation, which is retried once where it read the working space. -/
def Hw.uncorrectable (h : Hw) (near : Bool) (unit addr : Nat) (reader : UnitId) (runit : Nat) (o : LineOwner) (op : BitVec 256) : Hw :=
  let h := h.countUncorrectable near unit addr
  let note (h : Hw) (cls : Nat) : Hw := h.noteEcc near unit addr (ownerCode o) cls
  match o with
  | .trunk s => (note h 0).awaitRefetch reader runit (true, 0, s)
  | .expert i s =>
    let v := h.vslot false i s
    if v.refs = 0 && v.resident && !h.pinned i s then (note h 0).setVslot false i s v.away
    else (note h 0).awaitRefetch reader runit (false, i, s)
  | .bank c => (note h 0).loseState c
  -- a DAMAGED trunk puts the device in DEGRADED; a DAMAGED expert does not (R227; DEDUCED, log 19)
  | .farTrunk s => (note (h.damage true 0 s) 0x07).permanent
  | .farExpert i s => note (h.damage false i s) 0
  | .directory both => if both then
      let h := note h 0x08
      ({ h with eng := { h.eng with dirLost := true } }).permanent
    else note h 0
  | .imageRegion => let h := note h 0
                    { h with mem := { h.mem with regionBad := true } }
  | .workingSpace =>
    if op ∈ h.mem.wsRetry then
      let h := note h 0x09
      ({ h with mem := { h.mem with wsRetry := h.mem.wsRetry.filter (fun x => x != op) } }).permanent
    else
      let h := note h 0
      { h with mem := { h.mem with wsRetry := h.mem.wsRetry ++ [op] } }
  | .other => note h 0

/-- A corrected read: the corrected line is written back and counted (R227, R229). -/
def Hw.correctedRead (h : Hw) (near : Bool) (unit : Nat) : Hw :=
  let e := h.mem.ecc
  let e := if near then { e with nearCorr := tput 0 e.nearCorr unit (satAdd (tget 0 e.nearCorr unit) 1) }
           else { e with farCorr := tput 0 e.farCorr unit (satAdd (tget 0 e.farCorr unit) 1) }
  { h with mem := { h.mem with ecc := e } }

/-- The stack of a near address and the channel of a far address (R207, R208). -/
def stackOf (a : Nat) : Nat := a / 0x400000000 % 8
def channelOf (a : Nat) : Nat := (a - 0x100000000000) / 512 % 48

end Sys2Proof.Machine
end

