-- ==== Sys2Proof/Machine/Tiles.lean ====
section
/-!
DEFINITION. Tensor Tiles: the steps of the tick program on them, scales, accumulators, locks, and the replay of faulted
units (R39 to R57, R67 to R98, R163, R166).
-/
namespace Sys2Proof.Machine

/-! ### Tile SRAM (R72, R166, R207) -/

/-- Base of a region that holds rows, in the order of the table of R72 (DEDUCED, log 20). -/
def regionBase : Region → Nat
  | .half second => if second then 0xC0000 else 0
  | .scratch => 0x228000

/-- Its size: half an activation polder, or the vector scratch. -/
def regionSize : Region → Nat
  | .half _ => 0xC0000
  | .scratch => 0x48000

/-- Base of the control mailbox. Its first half is the tile's segment of the tick program, whose encoding the spec does not give
(log 44); in the second half record k of the tick stands at 8 k: the step, then 1 for a passed check (DESIGN CHOICE, log 117). -/
def mailboxBase : Nat := 0x270000
def recordAt (t k : Nat) : Nat := t * tileSize + mailboxBase + 0x8000 + 8 * k

/-- Chamber B of a lock is in use: an odd number of swaps since the boundary (R166). -/
def Hw.inB (h : Hw) (l : Nat) : Bool := decide (tget 0 h.eng.locks l % 2 = 1)

/-- Read `n` bytes at an offset of a part of a tile's SRAM; bytes beyond the part read 0. -/
def Hw.partRead (h : Hw) (t base size off n : Nat) : List Byte :=
  (List.range n).map (fun k => if off + k < size then read8 h.mem.tile (t * tileSize + base + off + k) else 0)

/-- Write bytes at an offset of a part of a tile's SRAM; bytes beyond the part are not written. -/
def Hw.partWrite (h : Hw) (t base size off : Nat) (bs : List Byte) : Hw :=
  { h with mem := { h.mem with tile := writeN h.mem.tile (t * tileSize + base + off) (bs.take (size - off)) } }

/-- Bytes of the chamber in use of a lock. -/
def Hw.chamberRead (h : Hw) (t : Nat) (k : TileLock) (off n : Nat) : List Byte :=
  h.partRead t (k.base + if h.inB (tileLock t k) then k.size else 0) k.size off n

/-- Bytes of row `r` of an operand. -/
def Hw.rowRead (h : Hw) (t : Nat) (l : Loc) (r n : Nat) : List Byte :=
  h.partRead t (regionBase l.region) (regionSize l.region) (l.off + l.stride * r) n

/-- Write row `r` of an operand from byte `at0` of the row. -/
def Hw.rowWrite (h : Hw) (t : Nat) (l : Loc) (r at0 : Nat) (bs : List Byte) : Hw :=
  h.partWrite t (regionBase l.region) (regionSize l.region) (l.off + l.stride * r + at0) bs

/-- Words of `w` bytes. -/
def wordsOf (w : Nat) (bs : List Byte) : List Nat := (List.range (bs.length / w)).map (fun k => bytesToNatLE ((bs.drop (w * k)).take w))

def Hw.rowF16s (h : Hw) (t : Nat) (l : Loc) (r n : Nat) : List F16 := (wordsOf 2 (h.rowRead t l r (2 * n))).map (BitVec.ofNat 16)
def Hw.rowF32s (h : Hw) (t : Nat) (l : Loc) (r n : Nat) : List F32 := (wordsOf 4 (h.rowRead t l r (4 * n))).map (BitVec.ofNat 32)

/-! ### Rows of a step (R80, R92, R94) -/

/-- The stream's rows in a step's share: the row of the share, and its place among the stream's rows. -/
def shareRows (sv : Serve) (first count : Nat) (s : Stream) : List (Nat × Nat) :=
  ((rowsFor sv s).zipIdx.filter (fun e => decide (first ≤ e.1) && decide (e.1 < first + count))).map (fun e => (e.1 - first, e.2))

/-- The rows that a step serves: context, row of the share, place among the stream's rows. -/
def Hw.stepRows (h : Hw) (sv : Serve) (first count : Nat) : List (Nat × Nat × Nat) :=
  (h.served sv first count).flatMap (fun e => (shareRows sv first count e.2).map (fun r => (e.1, r.1, r.2)))

/-- Do something for every row. -/
def Hw.eachRow (h : Hw) (sv : Serve) (first count : Nat) (f : Hw → Nat → Stream → Nat → Nat → Hw) : Hw :=
  (h.stepRows sv first count).foldl (fun a e => match a.stream e.1 with | some s => f a e.1 s e.2.1 e.2.2 | none => a) h

/-- Do something once for every stream that a step serves. -/
def Hw.eachStream (h : Hw) (sv : Serve) (first count : Nat) (f : Hw → Nat → Stream → Hw) : Hw :=
  (h.served sv first count).foldl (fun a e => match a.stream e.1 with | some s => f a e.1 s | none => a) h

/-! ### Array passes (R39 to R56, R67 to R71) -/

/-- Bytes of one group of weights (R38). -/
def groupBytes (wf : WFmt) (g : Nat) : Nat :=
  match wf with
  | .w4 => g / 2
  | .w6 => g / 4 * 3
  | .w8 => g

/-- An array pass of a layer of the image. Groups and scales stand column by column (DESIGN CHOICE, log 17). -/
structure ArrayPass where
  step : Nat
  lay : FeLayer
  src : Loc
  dst : Loc
  red0 : Nat
  red : Nat
  col0 : Nat
  cols : Nat
  wOff : Nat
  sOff : Nat
  start : AccStart
  hand : Bool
  last : Bool

def ArrayPass.groups (p : ArrayPass) : Nat := p.red / p.lay.group

/-- The array pass that the operation of step `p` describes. -/
def opPass (i : ImageFile) (p : Nat) : TileOp → Option ArrayPass
  | .array l src dst red0 red col0 cols w sc start hand last =>
    (i.parts.fe.layers[l]?).map (fun x =>
      { step := p, lay := x, src := src, dst := dst, red0 := red0, red := red, col0 := col0, cols := cols, wOff := w, sOff := sc, start := start
        hand := hand, last := last })
  | _ => none

/-- Bytes of one weight block, which stands in the front plane while the rows pass (R67, R68). -/
def ArrayPass.blockBytes (p : ArrayPass) : Nat := p.cols * p.groups * groupBytes p.lay.wfmt p.lay.group

/-- Software-supplied codes of a row, two A4 codes in a byte, and after them the scales of its groups (R39, R41; the place
of the scales is a DESIGN CHOICE, log 85). -/
def Hw.rowCodes (h : Hw) (t : Nat) (p : ArrayPass) (r : Nat) : List QuantGroup :=
  let k := p.lay.reduction
  let bytes := if p.lay.afmt = .a4 then k / 2 else k
  let bs := h.rowRead t p.src r (bytes + k / p.lay.group)
  let codes := match p.lay.afmt with
    | .a4 => (bs.take bytes).flatMap (fun b => [b % 16, b / 16])
    | _ => bs.take bytes
  (pieces p.lay.group codes).zipIdx.map (fun e => { scale := nth 0 bs (bytes + e.2), codes := e.1, saturated := false })

/-- The groups of a whole activation row: smoothed, rotated and quantised, or as software supplied them (R39 to R47). -/
def Hw.rowGroups (h : Hw) (t : Nat) (p : ArrayPass) (r : Nat) : List QuantGroup :=
  if p.lay.codes then h.rowCodes t p r
  else
    let k := p.lay.reduction
    let y := rotateRow p.lay.rotation (p.lay.smooth.map (fun a => h.rowF16s t a 0 k)) (h.rowF16s t p.src r k)
    (pieces p.lay.group y).map (quantiseGroup p.lay.afmt)

/-- The groups of a row that the pass presents to its block. -/
def Hw.passGroups (h : Hw) (t : Nat) (p : ArrayPass) (r : Nat) : List QuantGroup :=
  ((h.rowGroups t p r).drop (p.red0 / p.lay.group)).take p.groups

/-- The error in one sum that the unit forms. -/
def errorAt (errs : List SumError) (row col block : Nat) : Int :=
  ((errs.filter (fun e => e.row == row && e.col == col && e.block == block)).map (fun e => e.err)).foldl (· + ·) 0

/-- Entry `n` of the scales from the chamber in use on: those that have arrived in the idle chamber follow it (R49, R50). -/
def Hw.scaleEntry (h : Hw) (t n : Nat) : Byte :=
  let u := h.tileU t
  let inUse : Nat := if h.inB (tileLock t .scale) then TileLock.scale.size else 0
  let at0 := TileLock.scale.base + if n < u.scales then inUse else TileLock.scale.size - inUse
  nth 0 (h.partRead t at0 TileLock.scale.size (if n < u.scales then n else n - u.scales) 1) 0

/-- The group terms of column `c` for a row's groups, with the sums that the array formed (R49, R52). -/
def Hw.columnTerms (h : Hw) (t : Nat) (p : ArrayPass) (block : List Byte) (errs : List SumError) (r c : Nat) (row : List QuantGroup) : List GroupTerm :=
  let gb := groupBytes p.lay.wfmt p.lay.group
  (List.range p.groups).map (fun j =>
    let n := c * p.groups + j
    let w := unpackWeights p.lay.wfmt ((block.drop (n * gb)).take gb)
    let g := nth { scale := 0, codes := [], saturated := false } row j
    { w := w, sw := h.scaleEntry t (p.sOff + n), codes := g.codes, sa := g.scale,
      formed := groupSum p.lay.afmt w g.codes + errorAt errs r c j })

/-- The weight block of a pass: in the front plane where it was loaded while the pass before ran, and else from the chamber in
use (R68). -/
def Hw.passBlock (h : Hw) (t : Nat) (p : ArrayPass) : List Byte :=
  if (h.tileU t).loaded = some p.step then (h.tileU t).front else h.chamberRead t .weight p.wOff p.blockBytes

/-- The next array pass of a tile after a step. -/
def nextPass (i : ImageFile) (t p : Nat) : Option ArrayPass :=
  (i.parts.tick.steps.zipIdx.filterMap (fun e => match e.1.op with
    | .tile u _ _ _ op => if u = t ∧ p < e.2 then opPass i e.2 op else none
    | _ => none)).head?

/-- The block that the back plane loads while a pass runs: the next pass's, where no swap of the weight lock stands between the
two, whose chamber it is read from (R68, R73). -/
def Hw.nextBlock (h : Hw) (i : ImageFile) (t p : Nat) : Option (Nat × List Byte) :=
  (nextPass i t p).bind (fun y =>
    if swapsBefore i (tileLock t .weight) p = swapsBefore i (tileLock t .weight) y.step then
      some (y.step, h.chamberRead t .weight y.wOff y.blockBytes)
    else none)

/-- The planes after a pass: they exchange, so that the next block stands in the front plane and the block just used in the one
that is loaded next; with no next block loaded the pass's own block stays in front (R68; the moment is a DESIGN CHOICE, log
110). -/
def Hw.planesAfter (h : Hw) (i : ImageFile) (t : Nat) (p : ArrayPass) (u : Tile) : Tile :=
  let block := h.passBlock t p
  match h.nextBlock i t p.step with
  | some (q, b) => { u with front := b, back := block, loaded := some q }
  | none => { u with front := block, back := u.front, loaded := none }

/-- The terms of every row and column. -/
def Hw.passTerms (h : Hw) (t : Nat) (p : ArrayPass) (errs : List SumError) (rows : List (Nat × Nat × Nat)) : List (List (List GroupTerm)) :=
  let block := h.passBlock t p
  rows.map (fun e =>
    let gs := h.passGroups t p e.2.1
    (List.range p.cols).map (fun c => h.columnTerms t p block errs e.2.1 c gs))

/-- Scales that a pass consumes: one for each column and group, and the excess of a fault (R51). -/
def ArrayPass.sums (p : ArrayPass) : Nat := p.cols * p.groups

/-- The residue test of every row, column and group (R70), and at a layer's last pass the count of scales against the
count of groups (R51). -/
def Hw.arrayOk (h : Hw) (t : Nat) (p : ArrayPass) (slip : Int) (errs : List SumError) (rows : List (Nat × Nat × Nat)) : Bool :=
  let u := h.tileU t
  (h.passTerms t p errs rows).all (fun r => r.all (fun c => c.all (fun g => residueOk p.lay.afmt g.w g.codes g.formed)))
  && (!p.last || decide (u.used + (p.sums : Int) + slip = ((u.summed + p.sums : Nat) : Int)))

/-- The scales of the pass have arrived (R50), and so have the accumulators handed to it (R71). -/
def Hw.arrayReady (h : Hw) (t : Nat) (p : ArrayPass) : Bool :=
  let u := h.tileU t
  decide (p.sOff + p.sums ≤ u.scales + u.idle) && (match p.start with | .handed q => u.accs.any (fun e => e.1 == q) | _ => true)

/-- The stream's saturated groups are flagged and counted (R48). -/
def Hw.flagGroups (h : Hw) (c : Nat) (n : Nat) : Hw :=
  if n = 0 then h
  else { (h.modStream c (fun s => s.flagSat true)) with cnt := { h.cnt with saturated := h.cnt.saturated + BitVec.ofNat 64 n } }

/-- Flag a non-finite result (R57). -/
def Hw.flagResult (h : Hw) (c : Nat) (xs : List F32) : Hw :=
  if xs.any (fun x => (val32 x).nonfinite) then h.modStream c (fun s => s.flagNan true) else h

/-- Where the accumulator of a row and column starts (R54, R55). -/
def Hw.accStart (h : Hw) (t : Nat) (p : ArrayPass) (k r c : Nat) : F32 :=
  match p.start with
  | .zero => 0
  | .kept => nth 0 (h.rowF32s t { p.dst with off := p.dst.off + 4 * (p.col0 + c) } r 1) 0
  | .handed q => nth 0 (nth [] (tget [] (h.tileU t).accs q) k) c

/-- An array pass takes effect: the accumulators of every row and column go to the destination or to the next tile, the counts
of R51 go on, and the planes exchange. A row's saturated groups count at the pass of the layer's first columns, once each
(R48; DESIGN CHOICE, log 86). -/
def Hw.arrayDo (h : Hw) (i : ImageFile) (p : Nat) (t : Nat) (x : ArrayPass) (slip : Int) (errs : List SumError) (rows : List (Nat × Nat × Nat)) : Hw :=
  let terms := h.passTerms t x errs rows
  let accs := terms.zipIdx.map (fun r => r.1.zipIdx.map (fun c =>
    accumulate x.lay.afmt x.lay.expOffset (h.accStart t x r.2 (nth (0, 0, 0) rows r.2).2.1 c.2) c.1))
  let u := h.tileU t
  let u := { h.planesAfter i t x u with
    used := if x.last then 0 else u.used + (x.sums : Int) + slip
    summed := if x.last then 0 else u.summed + x.sums
    outs := if x.hand then tput [] u.outs p accs else u.outs }
  let sats (r : Nat) : Nat := if x.col0 = 0 then ((h.passGroups t x r).filter (fun g => g.saturated)).length else 0
  (rows.zip accs).foldl (fun a e =>
    let a := a.flagGroups e.1.1 (sats e.1.2.1)
    let a := a.flagResult e.1.1 e.2
    if x.hand then a else a.rowWrite t x.dst e.1.2.1 (4 * x.col0) (f32Bytes e.2)) (h.setTile t u)

/-! ### The vector unit (R40, R60, R76 to R78, R199) -/

/-- Two operands element by element. -/
def map2 (f : F32 → F32 → F32) (xs ys : List F32) : List F32 := List.zipWith f xs ys

/-- Every NaN that the device produces is canonical (R40). -/
def canon32 (x : F32) : F32 := if (val32 x).isNan then nan32 else x

/-- A quiet comparison (R60): 1.0 where it holds, else +0.0 (the form of the result is a DESIGN CHOICE, log 87). -/
def compare32 (r : Cmp) (x y : F32) : F32 :=
  let b := match r with
    | .lt => (val32 x).lt (val32 y)
    | .le => (val32 x).lt (val32 y) || (val32 x).eq (val32 y)
    | .eq => (val32 x).eq (val32 y)
  if b then one32 else 0

/-- z ≥ 0, false of a NaN (R110). -/
def geZero (z : F32) : Bool := !(val32 z).isNan && !((val32 z).lt (.fin false 0 0))

/-- A vector operation on operands x, y and the selector z: the FP32 results, every NaN canonical. Products that are not
both binary16 are rounded before they are terms of a block sum (R59). -/
def vecResult (fn : VecFn) (half : Bool) (x y z : List F32) : List F32 :=
  (match fn with
  | .add => map2 fp32Add x y
  | .sub => map2 fp32Sub x y
  | .mul => map2 fp32Mul x y
  | .min => map2 fp32Min x y
  | .max => map2 fp32Max x y
  | .div => map2 fp32Div x y
  | .neg => x.map fp32Neg
  | .sqrt => x.map fp32Sqrt
  | .round => x.map fp32Round
  | .exp => x.map fp32Exp
  | .sigmoid => x.map fp32Sigmoid
  | .silu => x.map fp32Silu
  | .tanh => x.map fp32Tanh
  | .recip => x.map fp32Recip
  | .rsqrt => x.map fp32Rsqrt
  | .scale k => x.map (fun v => fp32Scale v k)
  | .softmax => softmax x
  | .rmsnorm eps => rmsnorm x y eps
  | .mask _ _ => []
  | .compare r => map2 (compare32 r) x y
  | .select _ => List.zipWith (fun z (p : F32 × F32) => if !(val32 z).isZero then p.1 else p.2) z (x.zip y)
  | .selectGe _ => List.zipWith (fun z (p : F32 × F32) => if geZero z then p.1 else p.2) z (x.zip y)
  | .sum => [r59Sum 0 (x.map val32)]
  | .dot => [r59Sum 0 (List.zipWith (fun a b => if half then (val32 a).mul (val32 b) else val32 (fp32Mul a b)) x y)]
  | .toF16 => x
  | .toF32 => x).map canon32

/-- The selector of an operation. -/
def vecSelector : VecFn → Option Loc
  | .select c => some c
  | .selectGe c => some c
  | _ => none

/-- The operation reads binary16 operands, and writes binary16 results. -/
def readsHalf (fn : VecFn) (half : Bool) : Bool := match fn with | .toF32 => true | .toF16 => false | _ => half
def writesHalf (fn : VecFn) (half : Bool) : Bool :=
  match fn with
  | .toF32 => false
  | .toF16 => true
  | .sum => false
  | .dot => false
  | .mask _ _ => true
  | _ => half

/-- The step of a mask instruction's draws for a row: the sample index at the start of the tick's run, the frame index, or
in the feature section the row's feature position (R193; the last is a DESIGN CHOICE, log 90). -/
def maskStep (i : ImageFile) (sv : Serve) (s : Stream) (m q : Nat) : Nat :=
  match (nth { prob := 0, rate := .frame } i.parts.tick.masks m).rate with
  | .sample => s.idx.toNat
  | .frame => match sv, s.work.chunk with
    | .chunks _, some (p, _) => p + q
    | _, _ => s.frameNo

/-- A vector operation on one row: the words written and the values they stand for. -/
def Hw.vectorRow (h : Hw) (i : ImageFile) (t : Nat) (sv : Serve) (fn : VecFn) (half : Bool) (a b : Loc) (n : Nat) (s : Stream) (r q : Nat) :
    List Byte × List F32 :=
  let ld (l : Loc) : List F32 := if readsHalf fn half then (h.rowF16s t l r n).map f16to32 else h.rowF32s t l r n
  match fn with
  | .mask m e =>
    let p := (nth { prob := 0, rate := .frame } i.parts.tick.masks m).prob
    let v := (List.range n).map (fun k => maskValue (maskYes s.seed s.ident (.mask m) (e + k) (maskStep i sv s m q) p))
    (f16Bytes v, v.map f16to32)
  | _ =>
    let z := match vecSelector fn with | some c => ld c | none => []
    let v := vecResult fn half (ld a) (ld b) z
    if writesHalf fn half then
      let w := v.map f32to16
      (f16Bytes w, w.map f16to32)
    else (f32Bytes v, v)

/-- A vector operation: its results are written and flagged. Intermediate values of a composed function are no results of
the unit: only what it writes is flagged (R57; DESIGN CHOICE, log 91). -/
def Hw.vectorDo (h : Hw) (i : ImageFile) (t : Nat) (sv : Serve) (fn : VecFn) (half : Bool) (a b dst : Loc) (n : Nat) (c : Nat) (s : Stream) (r q : Nat) : Hw :=
  let v := h.vectorRow i t sv fn half a b n s r q
  (h.rowWrite t dst r 0 v.1).flagResult c v.2

/-! ### Recurrences of the frame model (R62, R63, R82, R83, R147 to R150) -/

/-- Random bits of a state write of recurrence k (R193, R194). -/
def recBits (s : Stream) (k ch step : Nat) (d : BitVec 8) : W64 := drawAt s.seed s.ident (.recurrence k) ch step d

/-- A check point: the words as they stand after it, and whether it tripped (R147 to R149). -/
def checkPoint (r : Recurrence) (ws : List W32) (saturated : Bool) : List W32 × Bool :=
  let trip := driftTrips r.prec r.theta ws saturated
  (if trip && r.resets then ws.map (fun _ => 0) else ws, trip)

/-- Write every channel of a recurrence and check it: words, trip, saturated, non-finite. -/
def writeRec (i : ImageFile) (s : Stream) (k : Nat) (r : Recurrence) (xs : List F32) (step : Nat) : List W32 × Bool × Bool × Bool :=
  let ws := xs.zipIdx.map (fun e => stateWrite r.prec (imgRbits i) (recBits s k e.2 step) e.1)
  let sat := ws.any (fun w => w.sat)
  let chk := checkPoint r (ws.map (fun w => w.word)) sat
  (chk.1, chk.2, sat, ws.any (fun w => w.nonfinite))

/-- Stored words of a recurrence; +0 where none were written. -/
def recWords (t : Table (List W32)) (k n : Nat) : List W32 := (tget [] t k ++ List.replicate n 0).take n

/-- The frame step of a frame-section recurrence (R82): x = a × h + u per channel, from the committed state. Its binary16
outputs go on to the next layer; the state in FP32 waits for stage 7 (R80; the outputs' form is a DESIGN CHOICE, log 92). -/
def Hw.recurDo (h : Hw) (i : ImageFile) (t k : Nat) (a u dst : Loc) (c : Nat) (s : Stream) (r : Nat) : Hw :=
  match i.parts.recs[k]? with
  | none => h
  | some x =>
    if x.kind != .frame then h
    else
      let n := x.channels
      let hs := (recWords s.bank.frame.ssm k n).map (stateValue x.prec)
      let xs := List.zipWith (fun (a : F32) (p : F32 × F32) => fp32Add (fp32Mul a p.1) p.2) (h.rowF32s t a r n) (hs.zip (h.rowF32s t u r n))
      let out := xs.map f32to16
      ((h.setStream c { s with work := { s.work with ssm := tput [] s.work.ssm k xs } }).rowWrite t dst r 0 (f16Bytes out)).flagResult c
        (xs ++ out.map f16to32)

/-- Stage 7: the new state of a frame-section recurrence is written under R62 or R63 into the shadow, and checked (R75, R80,
R147). -/
def Hw.stateWriteDo (h : Hw) (i : ImageFile) (k c : Nat) (s : Stream) : Hw :=
  match i.parts.recs[k]?, s.work.ssm.find? (fun e => e.1 == k) with
  | some x, some (_, xs) =>
    let w := writeRec i s k x xs s.frameNo
    let s1 := ((s.flagSat w.2.2.1).flagNan w.2.2.2).trip k (w.2.1 && !(k ∈ s.work.checks))
    h.setStream c { s1 with
      work := { s1.work with checks := s1.work.checks ++ [k] }
      wbank := { s1.wbank with frame := { s1.wbank.frame with ssm := tput [] s1.wbank.frame.ssm k w.1 } } }
  | _, _ => h

/-- A feature-section recurrence over the admitted chunk (R83, R150): binary16 outputs at every position, the end state
written with the chunk's last position as step. -/
def Hw.chunkDo (h : Hw) (i : ImageFile) (t k : Nat) (a u dst : Loc) (rows : List (Nat × Nat)) (c : Nat) (s : Stream) : Hw :=
  match i.parts.recs[k]?, s.work.chunk with
  | some x, some (p, n) =>
    if x.kind != .feature then h
    else
      let m := x.channels
      let h0 := (recWords s.bank.chunk.scans k m).map (stateValue x.prec)
      let as := rows.map (fun e => h.rowF16s t a e.1 m)
      let us := rows.map (fun e => h.rowF16s t u e.1 m)
      let outs := (List.range m).map (fun ch => chunkScan (nth 0 h0 ch) ((as.zip us).map (fun e => (nth 0 e.1 ch, nth 0 e.2 ch))))
      let w := writeRec i s k x (outs.map (fun o => nth 0 o (n - 1))) (p + n - 1)
      let s1 := ((s.flagSat w.2.2.1).flagNan w.2.2.2).trip k (w.2.1 && !(k ∈ s.work.chunkRecs))
      let h := h.setStream c { s1 with
        work := { s1.work with chunkRecs := s1.work.chunkRecs ++ [k] }
        wbank := { s1.wbank with chunk := { s1.wbank.chunk with scans := tput [] s1.wbank.chunk.scans k w.1 } } }
      rows.foldl (fun b e =>
        let v := outs.map (fun o => f32to16 (nth 0 o e.2))
        (b.rowWrite t dst e.1 0 (f16Bytes v)).flagResult c (v.map f16to32)) h
  | _, _ => h

/-- The chunk's feature-section outputs enter the stream's area at commit (R83). -/
def Hw.featureOutDo (h : Hw) (t : Nat) (src : Loc) (width : Nat) (rows : List (Nat × Nat)) (c : Nat) (s : Stream) : Hw :=
  match s.work.chunk with
  | none => h
  | some (p, n) =>
    let outs := rows.map (fun e => (p + e.2, h.rowF16s t src e.1 width))
    h.setStream c { s with work := { s.work with chunkOuts := outs }
                           wbank := { s.wbank with chunk := { s.wbank.chunk with nextChunkPos := p + n } } }

/-- The raw frames of the chunk as the feature section reads them (R83). -/
def Hw.chunkInputDo (h : Hw) (t : Nat) (dst : Loc) (rows : List (Nat × Nat)) (s : Stream) : Hw :=
  rows.foldl (fun a e => match s.area.raw[e.2]? with | some f => a.rowWrite t dst e.1 0 (f16Bytes f.values) | none => a) h

/-! ### Frame inputs and embeddings (R80, R81) -/

/-- Feature-section output at a position: kept in the area, or produced in this tick. -/
def Stream.featureAt (s : Stream) (p : Nat) : List F16 :=
  match areaOut s.area p with
  | some v => v
  | none => ((s.work.chunkOuts.find? (fun o => o.1 == p)).map Prod.snd).getD []

/-- The embeddings of tokens, one codebook after the other: row cb × V + token of the table. -/
def Hw.embeddings (h : Hw) (i : ImageFile) (t : Nat) (table : Loc) (width : Nat) (tokens : List Nat) : List F16 :=
  let fe := i.parts.fe
  (List.range fe.codebooks).flatMap (fun cb => h.rowF16s t table (cb * 2 ^ fe.tokenBits + nth 0 tokens cb) width)

/-- The frame inputs of R81: embeddings are zero for frame 0. After a jump of the frame index (R279) frame f − 1 was never
computed: the tokens are those of the last frame computed (DESIGN CHOICE, log 93). -/
def Hw.frameInputDo (h : Hw) (i : ImageFile) (t : Nat) (feat table : Loc) (width : Nat) (emb fb : Loc) (s : Stream) (r : Nat) : Hw :=
  let fe := i.parts.fe
  let f := s.featureAt (readPos fe.lookAhead s.area s.frameNo)
  let e := if s.frameNo = 0 then List.replicate (fe.codebooks * width) 0 else h.embeddings i t table width s.bank.frame.tokens
  ((h.rowWrite t feat r 0 (f16Bytes f)).rowWrite t emb r 0 (f16Bytes e)).rowWrite t fb r 0 (feedbackBytes s.bank.feedback)

/-- The embeddings of the tokens that this frame has sampled (R80, stage 6). -/
def Hw.tokenInputDo (h : Hw) (i : ImageFile) (t : Nat) (table : Loc) (width : Nat) (emb : Loc) (s : Stream) (r : Nat) : Hw :=
  h.rowWrite t emb r 0 (f16Bytes (h.embeddings i t table width s.wbank.frame.tokens))

/-! ### Local attention (R86, R87) -/

/-- The head `k` of a row of keys or values: the head dimension's values one head after the other. -/
def Hw.rowHead (h : Hw) (i : ImageFile) (t : Nat) (l : Loc) (r k : Nat) : List QuantGroup :=
  let d := i.parts.fe.headDim
  packHead ((h.rowF16s t l r ((k + 1) * d)).drop (k * d))

/-- The frame's keys and values go to slot f mod W of the layer's window, in the shadow (R75, R86). -/
def Hw.kvWriteDo (h : Hw) (i : ImageFile) (t layer : Nat) (k v : Loc) (c : Nat) (s : Stream) (r : Nat) : Hw :=
  let fe := i.parts.fe
  if fe.attnLayers ≤ layer || fe.window = 0 then h
  else
    let heads (l : Loc) := (List.range fe.kvHeads).map (fun n => h.rowHead i t l r n)
    let w : WindowSlot := { keys := heads k, vals := heads v }
    let sats := ((w.keys ++ w.vals).flatten.filter (fun g => g.saturated)).length
    let ws := (List.range fe.attnLayers).map (fun l =>
      let old := nth [] s.wbank.frame.windows l
      if l = layer then tput { keys := [], vals := [] } old (s.frameNo % fe.window) w else old)
    (h.setStream c { s with wbank := { s.wbank with frame := { s.wbank.frame with windows := ws } } }).flagGroups c sats

/-- One query head over frames max(0, f − W + 1) to f (R86, R87): earlier frames from the committed window, frame f from
its own keys and values. A slot of an index that a jump of R279 skipped is read as it stands, an empty one as zeros
(DESIGN CHOICE, log 94). -/
def Hw.attendDo (h : Hw) (i : ImageFile) (t layer head : Nat) (q k v dst : Loc) (c : Nat) (s : Stream) (r : Nat) : Hw :=
  let fe := i.parts.fe
  if fe.attnLayers ≤ layer || fe.window = 0 || fe.qPerKv = 0 || fe.kvHeads * fe.qPerKv ≤ head then h
  else
    let f := s.frameNo
    let kv := head / fe.qPerKv
    let old := nth [] s.bank.frame.windows layer
    let lo := f + 1 - fe.window
    let past := (List.range (f - lo)).map (fun d => tget { keys := [], vals := [] } old ((lo + d) % fe.window))
    let keys := past.map (fun w => nth [] w.keys kv) ++ [h.rowHead i t k r kv]
    let vals := past.map (fun w => nth [] w.vals kv) ++ [h.rowHead i t v r kv]
    let x := h.rowF16s t q r fe.headDim
    (h.rowWrite t dst r 0 (f16Bytes (attendHead x keys vals))).modStream c (fun s => s.flagNan (attendNonfinite x keys vals))

/-! ### Tokens and conditioning (R80, R95 to R98, R167) -/

/-- The token of one codebook (R95 to R98). -/
def Hw.sampleDo (h : Hw) (i : ImageFile) (t cb : Nat) (z : Loc) (c : Nat) (s : Stream) (r : Nat) : Hw :=
  let fe := i.parts.fe
  if fe.codebooks ≤ cb then h
  else
    let (tok, bad) := sampleToken s.seed s.ident cb s.frameNo s.bank.utt.tau s.bank.utt.topk.toNat (h.rowF32s t z r (2 ^ fe.tokenBits))
    let toks := (List.range fe.codebooks).map (fun k => if k = cb then tok else nth 0 s.wbank.frame.tokens k)
    h.setStream c { (s.flagNan bad) with wbank := { s.wbank with frame := { s.wbank.frame with tokens := toks } } }

/-- Stage 6: the conditioning of the frame goes to the output side of its polder entry (R80, R167). -/
def Hw.conditionDo (h : Hw) (i : ImageFile) (t : Nat) (src : Loc) (c : Nat) (s : Stream) (r : Nat) : Hw :=
  let v := h.rowF16s t src r (imgCd i)
  let e : CondEntry := { frame := s.bank.frame.nextFrame, valid := true, first := s.bank.frame.nextFrame == s.history.firstFrame,
                         lastFrame := s.area.eou == some s.frameNo, values := v }
  (h.setStream c { s with wbank := { s.wbank with cond := e } }).flagResult c (v.map f16to32)

/-! ### Steps (R80, R163) -/

/-- What a step that has passed its checks writes for the rows it serves. -/
def Hw.tileDo (h : Hw) (i : ImageFile) (p t : Nat) (sv : Serve) (first count : Nat) (op : TileOp) (slip : Int) (errs : List SumError) : Hw :=
  let rows (s : Stream) := shareRows sv first count s
  match op with
  | .array .. => match opPass i p op with | some x => h.arrayDo i p t x slip errs (h.stepRows sv first count) | none => h
  | .vector fn half a b dst n => h.eachRow sv first count (fun a0 c s r q => a0.vectorDo i t sv fn half a b dst n c s r q)
  | .frameInput feat tb w emb fb => h.eachRow sv first count (fun a _ s r _ => a.frameInputDo i t feat tb w emb fb s r)
  | .tokenInput tb w emb => h.eachRow sv first count (fun a _ s r _ => a.tokenInputDo i t tb w emb s r)
  | .chunkInput dst => h.eachStream sv first count (fun a _ s => a.chunkInputDo t dst (rows s) s)
  | .recur k a u dst => h.eachRow sv first count (fun b c s r _ => b.recurDo i t k a u dst c s r)
  | .chunk k a u dst => h.eachStream sv first count (fun b c s => b.chunkDo i t k a u dst (rows s) c s)
  | .featureOut src w => h.eachStream sv first count (fun a c s => a.featureOutDo t src w (rows s) c s)
  | .stateWrite k => h.eachStream sv first count (fun a c s => a.stateWriteDo i k c s)
  | .kvWrite l k v => h.eachRow sv first count (fun a c s r _ => a.kvWriteDo i t l k v c s r)
  | .attend l hd q k v dst => h.eachRow sv first count (fun a c s r _ => a.attendDo i t l hd q k v dst c s r)
  | .sample cb z => h.eachRow sv first count (fun a c s r _ => a.sampleDo i t cb z c s r)
  | .condition src => h.eachRow sv first count (fun a c s r _ => a.conditionDo i t src c s r)

/-- The operation draws random bits, whose two products the generator checks by their residues (R197). -/
def opDraws : TileOp → Bool
  | .vector (.mask _ _) .. => true
  | .chunk .. => true
  | .stateWrite _ => true
  | .sample .. => true
  | _ => false

/-- The residue checks of a step: sums of an array pass, products of the random generator (R51, R70, R197). An error of a
product that its residue does not show is left out (DESIGN CHOICE, log 95). -/
def Hw.tileOk (h : Hw) (i : ImageFile) (p t : Nat) (sv : Serve) (first count : Nat) (op : TileOp) (slip : Int) (errs : List SumError) : Bool :=
  match opPass i p op with
  | some x => h.arrayOk t x slip errs (h.stepRows sv first count)
  | none => !opDraws op || errs.all (fun e => decide (e.err % 3 = 0))

/-- The unit that a step is charged to: the cluster's sampler for a token, the tile otherwise. -/
def passUnit (t : Nat) : TileOp → UnitId
  | .sample .. => { kind := .sampler, index := t / 16 }
  | _ => { kind := .tile, index := t }

/-- The locks of a tile stand where the tick program has them at a step (R73, R166). -/
def Hw.locksAt (h : Hw) (i : ImageFile) (t p : Nat) : Bool :=
  [3 * t, 3 * t + 1, 3 * t + 2].all (fun l => decide (tget 0 h.eng.locks l = swapsBefore i l p) && !(l ∈ h.eng.swapWait))

/-- A tile step can end now: it serves a row, every earlier place is done, its tile does not stall, and no replay of its
unit waits (R73, R80, R163). -/
def Hw.stepOpen (h : Hw) (i : ImageFile) (p : Nat) (x : TickStep) (t : Nat) : Bool :=
  !h.stepDone p x && h.placeReached i x.place && h.locksAt i t p && (h.tileU t).waits.isNone
  && !h.replayWaits ((unitOf i p).getD 0) (fun r => r.who.kind != .csu)

/-- Note a verdict in the tile's control mailbox, which holds 4,096 records a tick (R72). -/
def Hw.mailbox (h : Hw) (t p : Nat) (ok : Bool) : Hw :=
  let u := h.tileU t
  if u.records < 4096 then
    { h.setTile t { u with records := u.records + 1 } with
      mem := { h.mem with tile := writeN h.mem.tile (recordAt t u.records) (natBytesLE 4 p ++ natBytesLE 4 (b2n ok)) } }
  else h

/-- A step ends at tile `runner`: one that lacks a scale or an accumulator waits (R50, R71); a failed check queues its replay
unit and writes nothing (R70, R74); otherwise its results are written. -/
def Hw.endStep (h : Hw) (i : ImageFile) (w : WaitPass) (t : Nat) (sv : Serve) (first count : Nat) (op : TileOp) : Hw :=
  let ready := match opPass i w.step op with | some x => h.arrayReady t x | none => true
  let unit := (unitOf i w.step).getD 0
  if !ready then h.setTile t { h.tileU t with waits := some w }
  else
    let ok := h.tileOk i w.step t sv first count op w.slip w.errs
    let bad := match w.chk with | .fault => true | .doubleBit _ => true | _ => !ok
    (h.mailbox w.runner w.step (!bad)).checked (passUnit w.runner op) { kind := .tile, index := t } unit none w.chk ok
      (fun a => let a := a.tileDo i w.step t sv first count op w.slip w.errs
                { a with eng := { a.eng with steps := a.eng.steps ++ [w.step] } })

/-- The tile that runs a step of tile `t`: the tile itself, and for a fenced one a live tile of its cluster, to which its steps
are dealt round-robin in ascending tile number, in program order (R368). -/
def Hw.tileRunner (h : Hw) (i : ImageFile) (p t : Nat) : Nat :=
  if !(⟨.tile, t⟩ ∈ h.eng.fenced) then t
  else
    let live := ((List.range 16).map (fun k => t / 16 * 16 + k)).filter (fun k => !(⟨.tile, k⟩ ∈ h.eng.fenced))
    let before := (i.parts.tick.steps.take p).filter (fun x => match x.op with | .tile u _ _ _ _ => u == t | _ => false)
    nth t live (before.length % live.length)

/-- The tile that a command names may run the step: the one that the step is dealt to, and for a token any tile of the cluster
whose sampler draws it (R368). -/
def Hw.mayRun (h : Hw) (i : ImageFile) (runner p t : Nat) (op : TileOp) : Bool :=
  let u := passUnit runner op
  !(u ∈ h.eng.fenced) && (match op with | .sample .. => h.standsFor u (passUnit t op) | _ => runner == h.tileRunner i p t)

/-- TILE_PASS_COMPLETE: a step of the tick program ends on its tile, or on the peer that runs the work of a fenced one
(R367, R368); a peer works on the data of the step's own tile (DESIGN CHOICE, log 111). What it does stands in the image;
the sender says what went wrong in it. -/
def Hw.tilePass (h : Hw) (w : WaitPass) : Hw :=
  match h.ex.image with
  | none => h
  | some i =>
    match tickStep i w.step with
    | some x =>
      match x.op with
      | .tile t sv first count op =>
        if !h.engOn || decide (128 ≤ w.runner) || !h.mayRun i w.runner w.step t op || !h.stepOpen i w.step x t then h
        else h.endStep i w t sv first count op
      | _ => h
    | none => h

def execTilePassComplete (tile step : Nat) (slip : Int) (errs : List SumError) (chk : PassCheck) (s : State) : Host.Outcome State Fault Refusal :=
  .next { s with hw := s.hw.tilePass { runner := tile, step := step, slip := slip, errs := errs, chk := chk } }

/-- The pass that waits at a tile goes on, or waits again. -/
def Hw.resume (h : Hw) (t : Nat) : Hw :=
  match (h.tileU t).waits with
  | none => h
  | some w => (h.setTile t { h.tileU t with waits := none }).tilePass w


/-- ACCUMULATOR_HANDOVER: the running accumulators that a step has handed on reach tile `t`, and a waiting tile goes on
(R55, R71). -/
def Hw.handover (h : Hw) (t q : Nat) : Hw :=
  match h.ex.image with
  | none => h
  | some i =>
    match (tickStep i q).map TickStep.op with
    | some (StepOp.tile from0 _ _ _ _) =>
      if !h.engOn || decide (128 ≤ t) || !(q ∈ h.eng.steps) then h
      else
        let u := h.tileU t
        (h.setTile t { u with accs := tput [] u.accs q (tget [] (h.tileU from0).outs q) }).resume t
    | _ => h

def execAccumulatorHandover (tile step : Nat) (s : State) : Host.Outcome State Fault Refusal :=
  .next { s with hw := s.hw.handover tile step }

/-! ### Locks (R73, R166) -/

/-- A swap of the scale lock: the entries of the fill are in use, and those that were are shelved (R49, R73). -/
def Tile.swapScales (u : Tile) : Tile := { u with scales := u.idle, idle := 0, due := 0, shelf := u.scales }

/-- The scale lock goes back to the chamber that was in use before (R163). -/
def Tile.unswapScales (u : Tile) : Tile := { u with scales := u.shelf, idle := 0, due := 0, shelf := u.scales }

/-- Change the scale entries of a lock's tile. -/
def Hw.onScales (h : Hw) (l : Nat) (f : Tile → Tile) : Hw :=
  if l < 384 ∧ l % 3 = 1 then h.setTile (l / 3) (f (h.tileU (l / 3))) else h

/-- A swap of a lock. -/
def Hw.swapLock (h : Hw) (l : Nat) : Hw :=
  let h := h.onScales l Tile.swapScales
  { h with eng := { h.eng with locks := tput 0 h.eng.locks l (tget 0 h.eng.locks l + 1), filled := tput false h.eng.filled l false
                               swapWait := h.eng.swapWait.filter (fun k => k != l) } }

/-- The swap instruction of a lock that comes next in the tick. -/
def Hw.nextSwap (h : Hw) (i : ImageFile) (l : Nat) : Option Nat := (swapSteps i l)[tget 0 h.eng.locks l]?

/-- The fill of a lock's idle chamber is complete; where a tile waits for it the lock swaps (R73). -/
def Hw.filledNow (h : Hw) (l : Nat) : Hw :=
  let h := { h with eng := { h.eng with filled := tput false h.eng.filled l true } }
  if l ∈ h.eng.swapWait then h.swapLock l else h

/-- GROUP_SCALE_ARRIVAL: the next entries of the scale stream arrive in the idle chamber, at most 8 groups ahead of the
weights, and a stalled tile goes on (R49, R50, R73). How many arrive at once is the stream's pace (DESIGN CHOICE, log 96). -/
def Hw.scaleArrival (h : Hw) (t n : Nat) : Hw :=
  if !h.engOn || decide (128 ≤ t) then h
  else
    let u := h.tileU t
    let m := min n (min u.due u.lead)
    let h := h.setTile t { u with idle := u.idle + m, due := u.due - m, lead := u.lead - m }
    (if 0 < u.due ∧ u.due = m then h.filledNow (tileLock t .scale) else h).resume t

def execGroupScaleArrival (tile n : Nat) (s : State) : Host.Outcome State Fault Refusal :=
  .next { s with hw := s.hw.scaleArrival tile n }

/-- The tile of a lock has reached a step: every earlier step of its own is done. -/
def Hw.tileReached (h : Hw) (i : ImageFile) (t p : Nat) : Bool :=
  i.parts.tick.steps.zipIdx.all (fun e => match e.1.op with
    | .tile x _ _ _ _ => x != t || decide (p ≤ e.2) || h.stepDone e.2 e.1
    | _ => true)

/-- Base and chamber size of a lock beyond the tiles', in SE SRAM (R166; where they stand is the image's, DESIGN CHOICE, log 97). -/
def auxLock (i : ImageFile) (l : Nat) : Nat × Nat := nth (0, 0) i.parts.tick.aux (l - 384)

/-- LOCK_SWAP: at a swap instruction the chambers exchange once the idle chamber is filled; until then the tile stalls. The
lane weight stores, which no Pump addresses, swap at once (log 97). -/
def Hw.lockSwapNow (h : Hw) (l : Nat) : Hw :=
  match h.ex.image with
  | none => h
  | some i =>
    match h.nextSwap i l with
    | none => h
    | some p =>
      if !h.engOn || decide (i.parts.tick.locks ≤ l) then h
      else if 384 ≤ l ∧ (auxLock i l).2 = 0 then h.swapLock l
      else if decide (l < 384) && !h.tileReached i (l / 3) p then h
      else if tget false h.eng.filled l then h.swapLock l
      else if l ∈ h.eng.swapWait then h
      else { h with eng := { h.eng with swapWait := h.eng.swapWait ++ [l] } }

def execLockSwap (lock : Nat) (s : State) : Host.Outcome State Fault Refusal := .next { s with hw := s.hw.lockSwapNow lock }

/-! ### Replay (R163) -/

/-- A lock returns to where it stood at a step: its count, and the chamber in use. -/
def Hw.restoreLock (i : ImageFile) (p : Nat) (h : Hw) (l : Nat) : Hw :=
  let n := swapsBefore i l p
  let k := tget 0 h.eng.locks l
  if k = n && !(l ∈ h.eng.swapWait) then h
  else
    let h := if k % 2 = n % 2 then h else h.onScales l Tile.unswapScales
    { h with eng := { h.eng with locks := tput 0 h.eng.locks l n, filled := tput false h.eng.filled l false
                                 swapWait := h.eng.swapWait.filter (fun x => x != l) } }

/-- A tile forgets what its steps in a replayed unit have begun. -/
def Hw.rewindTile (i : ImageFile) (unit : Nat) (h : Hw) (t : Nat) : Hw :=
  let mine := i.parts.tick.steps.zipIdx.any (fun e => inUnit i unit e.2 && (match e.1.op with | .tile x _ _ _ _ => x == t | _ => false))
  if mine then h.setTile t { h.tileU t with used := 0, summed := 0, waits := none, loaded := none, lead := 8 } else h

/-- The step has handed a berm on, or has released the one that it read. -/
def bermDone (i : ImageFile) (s : Stream) (p : Nat) : Bool :=
  ((csuPlace i p).2.isSome || (csuSteps i).any (fun e => (csuPlace i e.1).2 == some p))
  && (csuSteps i).any (fun e => e.1 == p && stepCovered i s p e.2)

/-- REPLAY_START: the replay unit whose fault was detected first restarts at its first step. Every lock returns to the
chamber in use there, and its steps, fills and swaps are repeated. A Conv-Scan Unit step that has handed its berm on, or
released the one that it read, is complete and stands (DESIGN CHOICE, log 120). Lane work is reissued, not replayed (R133,
R163). -/
def Hw.startReplay (h : Hw) : Hw :=
  if !h.engOn then h
  else
    match h.ex.image, h.eng.replays.find? (fun r => !r.running && !r.refetch && r.who.kind != .lane) with
    | some i, some r =>
      let same (x : Replay) : Bool := x.unit == r.unit && !x.refetch && x.who.kind != .lane && (x.who.kind == .csu) == (r.who.kind == .csu)
        && (r.who.kind != .csu || x.who.index / 4 == r.who.index / 4)
      let up (x : Replay) : Replay := if same x then { x with running := true } else x
      let h := { h with eng := { h.eng with replays := h.eng.replays.map up } }
      let first := match i.parts.tick.units[r.unit]? with | some u => u.first | none => 0
      let h := (List.range i.parts.tick.locks).foldl (Hw.restoreLock i first) h
      let h := if r.who.kind == .csu then h
        else (List.range 128).foldl (Hw.rewindTile i r.unit) { h with eng := { h.eng with steps := h.eng.steps.filter (fun p => !inUnit i r.unit p) } }
      h.mapStreams (fun c s => { s with work := { s.work with cover := s.work.cover.filter (fun e => !r.repeats i e.1 c || bermDone i s e.1) } })
    | _, _ => h

def execReplayStart (s : State) : Host.Outcome State Fault Refusal := .next { s with hw := s.hw.startReplay }

end Sys2Proof.Machine
end

