-- ==== Sys2Proof/Machine/Commit.lean ====
section
/-!
DEFINITION. Intake close and commit: incomplete work, the final samples, the state banks, the records, the snapshot and
the messages (R12, R26, R162, R455), and the idle publications (R275).
-/
namespace Sys2Proof.Machine

/-! ### Incomplete work (R12, R455) -/

/-- A replay of work of the context's output run has not passed: of a lane step, or of Conv-Scan Unit steps that it repeats
for the context, be they late through a pass, a Pump fill or a granule (R455). -/
def Hw.replayOpen (h : Hw) (c : Nat) : Bool :=
  h.eng.replays.any (fun r => r.ctx == some c || (match h.ex.image with | some i => r.serves i c && h.replayOn i r | none => false))

/-- A Frame Engine replay unit that has not passed holds one of some steps. -/
def Hw.stepsOpen (h : Hw) (ps : List Nat) : Bool :=
  match h.ex.image with
  | some i => h.eng.replays.any (fun r => r.ctx.isNone && r.who.kind != .csu && h.replayOn i r && ps.any (inUnit i r.unit))
  | none => false

/-- The step numbers of the tick program that serve the stream, of the feature section or of the frame. -/
def Hw.stepsOf (h : Hw) (s : Stream) (feature : Bool) : List Nat :=
  match h.ex.image with
  | some i => stepsFor i s feature
  | none => []

/-- The output run of T is incomplete: a pass, scan or lane step of it, or what no state of the model shows, such as a Pump
write of the run, which can be late for a fill run too (R455). -/
def Hw.runIncomplete (h : Hw) (late : List Late) (c : Nat) (s : Stream) : Bool :=
  s.work.run && ((s.speaking && !s.work.begins) || s.life == .lost)
  && (decide (Late.run c ∈ late)
      || (s.synth && (decide (s.work.samples.length < s.n) || decide (s.work.lane.sample < s.n) || h.replayOpen c)))

/-- The frame of T is incomplete (R455). -/
def Hw.frameIncomplete (h : Hw) (late : List Late) (c : Nat) (s : Stream) : Bool :=
  s.work.advance && (!h.frameDone s || decide (Late.frame c ∈ late) || h.stepsOpen (h.stepsOf s false))

/-- The feature chunk admitted in T is incomplete (R455). -/
def Hw.chunkIncomplete (h : Hw) (late : List Late) (c : Nat) (s : Stream) : Bool :=
  s.work.chunk.isSome && (!h.chunkDone s || decide (Late.chunk c ∈ late) || h.stepsOpen (h.stepsOf s true))

/-- Index at the start of the next tick, by whether the stream has a run in this one. -/
def Stream.after (s : Stream) : W64 := if s.work.run then s.idx + BitVec.ofNat 64 s.n else s.idx

/-- Post the miss of incomplete work under a reason: the run alone, the frame alone, or both (R272). -/
def Hw.missWork (h : Hw) (c : Nat) (s : Stream) (reason : Nat) (run frame : Bool) : Hw :=
  match run, frame with
  | true, true => h.miss c s reason 6 0 s.idx
  | true, false => h.miss c s reason 1 0 s.idx
  | false, true => h.miss c s reason 5 1 s.after
  | false, false => h

/-- Resolve one stream's incomplete work: the run becomes a spillway run with its fifth lost, the frame is discarded, the
chunk counts as not admitted. Drift trips of the discarded work stay counted, as they happened (DESIGN CHOICE, log 131). -/
def Stream.resolve (s : Stream) (run frame chunk : Bool) : Stream :=
  { s with work := { s.work with
      spill := if run then some (s.work.spill.getD .lostFifth) else s.work.spill
      advance := s.work.advance && !frame
      chunk := if chunk then none else s.work.chunk } }

/-- What a stream's group loses at intake close: a member's run, or a member's frame, is incomplete (R185, R455). -/
def Hw.groupLoss (h : Hw) (own : Nat → Bool × Bool × Bool) (s : Stream) : Bool × Bool :=
  match s.group.bind h.group with
  | some x => if x.hold then (x.members.any (fun m => (own m).1), x.members.any (fun m => (own m).2.1)) else (false, false)
  | none => (false, false)

/-- Resolve one stream's incomplete work and what its group loses. Under group-hold a member's incomplete run discards the
tick's results of every member, runs, frames and chunks; an incomplete frame discards the frames. The member at fault posts
REPLAY_EXHAUSTED and the others GROUP_HOLD (R12, R185, R455; the counts of a member that loses both are a DESIGN CHOICE,
log 101). -/
def Hw.resolveStream (h : Hw) (own : Nat → Bool × Bool × Bool) (c : Nat) (s : Stream) : Hw :=
  let (r, f, k) := own c
  let (gr, gf) := h.groupLoss own s
  let lose := gr && s.work.advance
  let hr := gr && !r && s.speaking && s.work.run && !s.work.begins
  let hf := !f && s.speaking && (lose || (gf && (s.work.advance || h.inPhase s)))
  let h := h.missWork c s 0x05 r (f || (r && lose))
  let h := h.missWork c s 0x03 hr (hf && !r)
  h.modStream c (fun t => t.resolve (r || hr) (f || hf || lose) (k || gr))

/-- Intake close: incomplete runs, frames and chunks, and the groups they hold (R12, R185, R455). -/
def Hw.resolveWork (h : Hw) (late : List Late) : Hw :=
  let info := h.ctxs.map (fun e => (e.1, h.runIncomplete late e.1 e.2, h.frameIncomplete late e.1 e.2, h.chunkIncomplete late e.1 e.2))
  let own (c : Nat) : Bool × Bool × Bool := ((info.find? (fun e => e.1 == c)).map Prod.snd).getD (false, false, false)
  let spilled := (info.filter (fun e => e.2.1 || e.2.2.1)).length
  let h := h.ctxs.foldl (fun a e => a.resolveStream own e.1 e.2) h
  if spilled = 0 then h
  else
    let h := { h with cnt := { h.cnt with exhausted := h.cnt.exhausted + 1 } }
    h.note (entry 0x0003 1 0 moduleUnit spilled 0)

/-! ### Final samples and feedback (R65, R171, R180) -/

/-- The final samples of the run and the shaper after it. A spillway run that follows a played one starts the count of the
fade-in anew, however late the spill was decided; one that opens the utterance leaves no fade-in pending, for its first
synthesised samples are never faded in (R180). A member between utterances and a LOST stream emit +0.0. -/
def Stream.finalRun (s : Stream) : List F32 × Shaper :=
  let sh := s.bank.sample.shaper
  if s.life == .lost || !s.speaking || s.work.begins then (List.replicate s.n 0, { sh with last := 0 })
  else
    match s.work.spill with
    | some _ => fillRun s.fade s.n (if sh.k = 0 ∧ s.idx ≠ s.bank.utt.uttFirst then { sh with j := 0 } else sh)
    | none => shapeRun s.fade (s.work.samples.take s.n) sh

/-- The features of one source, through the extractor of the stream's rate. -/
def features (i : ImageFile) (rate : Nat) (xs : List F16) : FeedSlot :=
  (extractorOf i rate).map (fun e => extract e.matrix e.bias e.fn xs)

/-- Shift a slot in: slot 4 is the most recent (R170). -/
def shiftSlot (l : List FeedSlot) (x : FeedSlot) : List FeedSlot := l.drop 1 ++ [x]

/-- The feedback vector written at commit: the output slot from the final samples, the reference slots from the window
committed one tick earlier, with the kinds that the sources had then (R21, R170, R171; DESIGN CHOICE for the kinds, log 109). -/
def Stream.newFeedback (s : Stream) (i : ImageFile) (final : List F32) : Feedback :=
  let f := s.bank.feedback
  let ref (w : Option (List F16)) : FeedSlot := match w with | some xs => features i s.rate xs | none => none
  { out := shiftSlot f.out (features i s.rate (final.map f32to16)), refA := shiftSlot f.refA (ref s.window.1),
    refB := shiftSlot f.refB (ref s.window.2), kindA := s.windowKind.1, kindB := s.windowKind.2 }

/-! ### Capture windows (R169, R173, R306, R312) -/

/-- The window of a port slot: N captured frames, none muted. -/
def Hw.portWindow (h : Hw) (p sl n : Nat) : Option (List F16) :=
  let x := h.port p
  if x.windowBad || x.state != .running || x.openLine || decide (x.frames.length ≠ n) then none
  else some (x.frames.map (fun f => refSample x.width (if sl = 0 then f.1 else f.2)))

/-- The code of the sample at an index that an opened AUDIO_IN gives; none in a block whose read failed (R252). -/
def audioSample (a : WaitAudio) (idx : Nat) : Option F16 :=
  match a.data with
  | .ok d =>
    let k := idx - a.start0.toNat
    let gone := a.lost.any (fun r => decide (r.1 ≤ k) && decide (k < r.1 + r.2))
    if a.opened && decide (a.start0.toNat ≤ idx) && decide (idx < a.start0.toNat + a.expect) && !gone then
      some (refSample (match a.bits with | 0 => 16 | 1 => 24 | _ => 32) (nth 0 d.samples (idx - a.start0.toNat)))
    else none
  | .failed => none

/-- The window of an AUDIO_IN channel: none where any of its N samples is missing. -/
def Stream.audioWindow (s : Stream) (chanB : Bool) : Option (List F16) :=
  let xs := (List.range s.n).map (fun k =>
    (s.audio.filter (fun a => a.chanB == chanB)).findSome? (fun a => audioSample a (s.idx.toNat + k)))
  if xs.all Option.isSome then some (xs.filterMap id) else none

/-- A channel's window at the commit of its tick. -/
def Hw.captured (h : Hw) (s : Stream) (b : RefBind) (chanB : Bool) : Option (List F16) :=
  match b with
  | .none => none
  | .port p sl => h.portWindow p sl s.n
  | .audio => s.audioWindow chanB

/-! ### One stream's commit -/

/-- The bank after the tick (R143, R168, R179). -/
def Stream.newBank (s : Stream) (i : ImageFile) (final : List F32) (sh : Shaper) (frameKept chunkKept : Bool) : Bank :=
  let next := s.idx + BitVec.ofNat 64 s.n
  let base := if s.synth then s.wbank.sample else s.bank.sample
  let fifths := if !s.speaking || s.work.begins then base.fifths
                else if s.work.spill == some .noFrame then 5 else min 5 (s.bank.sample.fifths + 1)
  let sample := if s.work.run then { base with shaper := sh, nextSample := next, fifths := fifths } else s.bank.sample
  let sample := if frameKept then { sample with fifths := 0 } else sample
  let frame := if frameKept then { s.wbank.frame with nextFrame := s.bank.frame.nextFrame + 1 } else s.bank.frame
  let utt := { s.bank.utt with uttNumber := s.bank.utt.uttNumber + (if s.work.begins then 1 else 0) }
  { frame := frame, sample := sample, chunk := if chunkKept then s.wbank.chunk else s.bank.chunk, utt := utt,
    cond := if frameKept then s.wbank.cond else s.bank.cond,
    feedback := if s.work.run then s.newFeedback i final else s.bank.feedback }

/-- The feature area after the tick: a kept chunk's raw frames leave and its outputs enter; outputs below the position
the next frame reads leave (R214; DEDUCED, log 13). -/
def Stream.newArea (s : Stream) (lf : Nat) (frameKept chunkKept : Bool) : FeatArea :=
  let a := match chunkKept, s.work.chunk with
    | true, some (p, n) => { s.area with
        outs := s.area.outs ++ sortBy Prod.fst s.work.chunkOuts, raw := s.area.raw.drop n, rawPos := p + n, positioned := s.area.positioned - n }
    | _, _ => s.area
  if frameKept then
    let need := readPos lf a (s.bank.frame.nextFrame.toNat + 1)
    { a with outs := a.outs.filter (fun o => decide (need ≤ o.1)) }
  else a

/-- The conditioning history after the tick (R155). -/
def Stream.newHistory (s : Stream) (i : ImageFile) (frameKept : Bool) : CondHistory :=
  if !imgUttScope i then { s.history with whole := false }
  else
    let h := s.history
    let h := if s.work.run && s.speaking && !s.work.begins then
        if h.spill.length < 20480 then
          { h with spill := h.spill ++ [match s.work.spill with | none => 0 | some .noFrame => 1 | some .lostFifth => 2] }
        else { h with whole := false }
      else h
    if frameKept then
      if h.frames.length < historyMax i then { h with frames := h.frames ++ [s.wbank.cond.values] } else { h with whole := false }
    else h

/-- Write the run into the output ring (R176, R292, R293). Under RING_LATE nothing is written, and the block without
room closes. -/
def Hw.writeRun (h : Hw) (c : Nat) (s : Stream) (final : List F32) (ends : Bool) : Hw :=
  let n := runBytes s
  if s.ringAddr == 0 || !s.work.run then h
  else
    let fits := match s.ring.block with | some b => blockFits b n | none => false
    let h := if fits then h else h.closeBlock c false
    match h.stream c with
    | none => h
    | some s1 =>
      let opened : Option (OutRing × OpenBlock) :=
        match s1.ring.block with
        | some b => some (s1.ring, b)
        | none =>
          match s1.ring.next with
          | none => none
          | some (d, k) =>
            let (ad, len) := nth (0, 0) d.blocks k
            if len < n + 64 then none
            else some ({ s1.ring with descs := s1.ring.descs.map (fun e => if e.seq = d.seq then { e with used := k + 1 } else e) },
                  { addr := ad, length := len, index := k, offset := 0, runs := 0, firstSample := s.idx, firstEpoch := h.ex.tick,
                    lastEpoch := h.ex.tick, fill := false, begins := false, ends := false, gap := s1.ring.gap })
      match opened, s.work.ringLate with
      | some (r, b), false =>
        let cv := final.map (sampleBytes s.fmt)
        let bytes := padTo n (cv.flatMap Prod.fst)
        let b' := { b with
          offset := b.offset + n, runs := b.runs + 1, lastEpoch := h.ex.tick
          fill := b.fill || s.work.spill.isSome || s.life == .lost
          begins := b.begins || (s.speaking && !s.work.begins && s.idx == s.bank.utt.uttFirst), ends := b.ends || ends }
        let last := s.idx + BitVec.ofNat 64 s.n
        let holder := (r.holder).map (fun d => d.seq)
        let descs := r.descs.map (fun d => if some d.seq = holder then { d with lastIndex := some last } else d)
        let h := h.setStream c { s1 with ring := { descs := descs, block := some b', gap := false } }
        h.post (.bytes (b.addr + BitVec.ofNat 64 b.offset) bytes true)
      | _, _ => h.setStream c { s1 with ring := { s1.ring with gap := true } }

/-- Hand the run to the port: it plays in the next tick (R305, R309). -/
def Hw.routeRun (h : Hw) (c : Nat) (s : Stream) (final : List F32) : Hw :=
  match s.route with
  | some (p, sl) =>
    let x := h.port p
    -- a muted port's tick side takes the samples and discards them (R315)
    if s.work.run && !s.gated && x.isOutput && x.state == .running then h.setPort p { x with fifoNext := x.fifoNext ++ [(c, sl, final)] } else h
  | none => h

/-- UTTERANCE_START and WEIGHT_SWITCH of the tick (R272, R278, R287). -/
def Hw.startEvents (h : Hw) (c : Nat) (s : Stream) (frameKept : Bool) : Hw :=
  let h := if s.work.begins then
      match s.bound with
      | some b => h.event c s 0x80 stDone (b.idx % 8 + (h.trunk b.trunk).nearSlot.getD 0 * 8) s.bank.utt.uttFirst
      | none => h
    else h
  let sw := if frameKept then s.work.switched else 0
  let idx := BitVec.ofNat 64 s.frameNo
  let h := if bitOf sw 0 then h.event c s 0x87 stDone 1 idx else h
  if bitOf sw 1 then h.event c s 0x87 stDone 2 idx else h

/-- At the commit of the frame that first used a new version, the utterance moves its reference and its binding from the
old version to the new one; a frame that is discarded leaves both with the old one (R223, R287, R451). -/
def Hw.moveSwitch (h : Hw) (c : Nat) : Hw :=
  match h.stream c with
  | none => h
  | some s =>
    match s.work.advance && s.life != .exported, s.bound, s.frameBound with
    | true, some b, some n =>
      let trunk := bitOf s.work.switched 0
      let expert := bitOf s.work.switched 1
      let h := if trunk then h.dropRef true 0 b.trunk else h
      let h := if expert then h.dropRef false b.idx b.slot else h
      let u := s.bank.utt
      h.setStream c { s with
        bound := some n, toTrunk := if trunk then none else s.toTrunk, toExpert := if expert then none else s.toExpert
        bank := { s.bank with utt := { u with
          trunkHash := if trunk then hash16 (h.trunk n.trunk).hash else u.trunkHash
          expertHash := if expert then hash16 (h.vslot false n.idx n.slot).hash else u.expertHash } } }
    | _, _, _ => h

/-- Commit one stream: the shaper converts its final samples whether or not a ring takes them (R65); a tick without a run
has no capture window (R21, R169); a member between utterances posts no REFERENCE_LATE, a LOST stream does (R173, R183,
R276). Its run, its bank, its area and history, its windows and its events. -/
def Hw.commitStream (h : Hw) (i : ImageFile) (c : Nat) : Hw :=
  match h.stream c with
  | none => h
  | some s =>
    if s.life == .exported then h
    else
      let frameKept := s.work.advance
      let chunkKept := s.work.chunk.isSome
      let (final, sh) := s.finalRun
      let oldCond := s.bank.cond
      let bank := s.newBank i final sh frameKept chunkKept
      let ends := s.speaking && !s.work.begins && s.work.run && oldCond.valid && oldCond.lastFrame && decide (bank.sample.fifths = 5)
                  && decide (s.bank.sample.fifths < 5)
      let bad := s.work.run && final.any (fun x => (sampleBytes s.fmt x).2)
      let miss := ((s.speaking && !s.work.begins) || s.life == .lost) && ((s.refA == .audio && (s.audioWindow false).isNone) || (s.refB == .audio && (s.audioWindow true).isNone))
      let h := match s.refLate with
        | some at0 => h.miss c s 0x04 0 (-1) at0
        | none => h
      let h := h.startEvents c s frameKept
      let h := match s.work.drift with
        | some (l, n) => h.event c s 0x86 stDone l (BitVec.ofNat 64 n)
        | none => h
      let h := if s.work.run then (h.writeRun c s final ends).routeRun c s final else h
      let h := h.modStream c (fun t => { t.flagNan bad with
        bank := bank, wbank := bank, area := s.newArea i.parts.fe.lookAhead frameKept chunkKept
        history := s.newHistory i frameKept, delivered := bank.sample.nextSample
        work := { t.work with drift := none }
        window := if s.work.run then (h.captured s s.refA false, h.captured s s.refB true) else (none, none)
        windowKind := (refKind s.refA, refKind s.refB)
        refLate := if s.work.run && miss then some s.idx else none
        audio := s.audio.filter (fun a => !a.opened || decide (bank.sample.nextSample.toNat < a.start0.toNat + a.expect)) })
      let h := if frameKept && s.wbank.cond.lastFrame then h.unbind c else h
      if ends then h.endUtterance c false else h

/-! ### IMPORT completion (R144, R271, R282, R453) -/

/-- The held FEEDs whose generation differs complete with STALE_STATE; the others are released at the next boundary. -/
def Hw.staleHeld (h : Hw) (c : Nat) : Hw :=
  match h.stream c with
  | none => h
  | some s =>
    let bad (f : WaitFeed) : Bool := decide (dField f.a.desc 0x10 4 ≠ s.bank.utt.generation.toNat)
    let h := (s.held.filter bad).foldl (fun a f => a.finish0 f.a stStale) h
    h.setStream c { s with held := s.held.filter (fun f => !bad f) }

/-- An IMPORT completes once its record is read, any rebuild has ended and the bound expert is usable; the next tick is
the stream's first output tick. A mid-utterance stream takes the phase group that this tick fixes, and where that group is
full by then the IMPORT ends with NO_CONTEXT (R19, R271, R453). -/
def Hw.commitImport (h : Hw) (c : Nat) : Hw :=
  match h.stream c with
  | none => h
  | some s =>
    match s.importSeq with
    | none => h
    | some (seq, q, tag) =>
      let ready := !s.rebuilding && (match s.bound with
        | some b => (h.vslot false b.idx b.slot).resident && (h.vslot false b.idx b.slot).usable
        | none => true)
      if !ready then h
      else
        let out := h.ex.tick + 1
        let old := s.firstOut
        let phase := if s.speaking then (s.phase + (out.toNat - old.toNat)) % 5 else s.phase
        if phase ≠ s.phase ∧ h.groupLimit ≤ h.phaseCount phase then
          ((h.complete q seq opImport tag (s.handle c) stNoContext 0 0).modStream c (fun t => { t with importSeq := none })).release c
        else
          let h := h.complete q seq opImport tag (s.handle c) stDone phase s.idx
          (h.setStream c { s with importSeq := none, firstOut := out, phase := phase }).staleHeld c

/-! ### Ports at commit (R306, R320) -/

/-- Streams routed to or bound to a port, with the slot of each: the routed one, else reference A's, else B's (DESIGN CHOICE,
log 126). -/
def Hw.portStreams (h : Hw) (p : Nat) : List (Nat × Stream × Nat) :=
  h.ctxs.filterMap (fun e =>
    let s := e.2
    let viaRoute := match s.route with | some (x, sl) => if x = p then some sl else none | none => none
    let viaRef (b : RefBind) : Option Nat := match b with | .port x sl => if x = p then some sl else none | _ => none
    match viaRoute, viaRef s.refA, viaRef s.refB with
    | some sl, _, _ => some (e.1, s, sl)
    | none, some sl, _ => some (e.1, s, sl)
    | none, none, some sl => some (e.1, s, sl)
    | none, none, none => none)

/-- PORT_FAULT records of a port's new causes and of its recovery (those that arise in the commit window wait for the next
commit; DEDUCED, log 124), with each stream's sample index `at0` at the start of the
tick; and the port's next capture window (R272, R306, R320). -/
def Hw.commitPort (at0 : List (Nat × W64)) (h : Hw) (p : Nat) : Hw :=
  let x := h.port p
  let captured := !x.isOutput && x.state == .running && !x.windowBad && decide (x.frames.length = x.n) && !x.openLine
  let plays := x.isOutput && x.state == .running
  let back := x.recover && (captured || plays)
  let causes := x.newCauses ++ (if back then [0xF] else [])
  let h := causes.foldl (fun a k =>
    (h.portStreams p).foldl (fun y e =>
      y.event e.1 e.2.1 0x85 stPort (p + e.2.2 * 16 + k * 256) (tget e.2.1.idx at0 e.1)) a) h
  h.setPort p { x with
    newCauses := [], recover := x.recover && !back
    frames := [], windowBad := x.state != .running || x.nonaudio || x.openLine }

/-! ### Faults at commit (R365, R371 to R373) -/

/-- One TRANSIENT entry per unit and tick, with the replay unit and the attempts (R365, R383). -/
def Hw.transientEntries (h : Hw) : Hw :=
  let h1 := (h.eng.hist.filter (fun x => decide (0 < x.count))).foldl (fun a x =>
    a.note { entry 0x0001 1 0 x.who x.unit x.tries with merged := BitVec.ofNat 32 x.count }) h
  { h1 with eng := { h1.eng with hist := h1.eng.hist.map (fun x => { x with count := 0, tries := 0 }) } }

/-- FENCED entries of the fences since the last commit (R371, R383). -/
def Hw.fenceEntries (h : Hw) : Hw :=
  let new := h.eng.fenceNew
  new.foldl (fun a e => a.note (entry 0x0004 2 (fenceClass e.1.kind) e.1 e.2 a.degradedLimit)) { h with eng := { h.eng with fenceNew := [] } }

/-- A DEGRADED event for every entry of a permanent fault, with the entry's sequence number (R371). -/
def Hw.degradedEvents (h : Hw) : Hw :=
  let bad (e : LogEntry) : Bool := e.kind == 0x0004#16 || (e.kind == 0x0010#16 && e.cls != 0)
  (h.log.pending.zipIdx.filter (fun e => bad e.1)).foldl (fun a e =>
    (a.moduleEvent 0x84 stDegraded (h.log.newest + BitVec.ofNat 64 (e.2 + 1)))) h

/-- The streams a fence makes leave: above the per-group limit in descending context number, then above the module's
limit (R369, R372). -/
def Hw.mustLeave (h : Hw) : List Nat :=
  if !h.ex.fencedAny || !h.fencesCovered then (if h.ex.fencedAny then h.ctxs.map Prod.fst else [])
  else
    let cs := h.ctxs
    let lim := h.groupLimit
    let extra := [0, 1, 2, 3, 4].flatMap (fun g =>
      ((cs.filter (fun e => e.2.phase == g)).map Prod.fst).drop lim)
    let rest := (cs.map Prod.fst).filter (fun c => !(c ∈ extra))
    extra ++ rest.drop h.degradedLimit

/-- Advise a stream to leave under a fault class; with an eviction buffer the next tick is its last output tick, and detail1
is its index at the boundary after that; a LOST stream is advised without a plan (R372 to R374). -/
def Hw.advise (h : Hw) (cls : Nat) (c : Nat) : Hw :=
  match h.stream c with
  | none => h
  | some s =>
    if s.advised || s.life == .exported || s.work.cancelled then h
    else
      let plan := s.evictAddr != 0 && s.life != .lost
      let runs := (s.speaking && decide (s.firstOut ≤ h.ex.tick + 1) && s.importSeq.isNone) || (s.life == .idle && s.group.isSome) || s.life == .lost
      let at2 := if runs then s.idx + BitVec.ofNat 64 s.n else s.idx
      let h := h.event c s 0x83 stMigrate cls (if s.evictAddr != 0 then at2 else stoppedEpoch)
      h.modStream c (fun t => { t with advised := true, adviceClass := cls, adviseAgain := false, plan := if plan then some (h.ex.tick + 1) else none })

/-- All advice of the tick: the streams over the limits, those bound to a DAMAGED version, and those whose plan a STOP
cancelled at an earlier commit (R372, R374). -/
def Hw.adviseAll (h : Hw) : Hw :=
  let cls := match h.eng.fenced.getLast? with | some u => fenceClass u.kind | none => 0
  let h1 := h.mustLeave.foldl (fun a c => a.advise cls c) h
  let hit (s : Stream) : Bool := match s.bound with
    | some b => (h.trunk b.trunk).damaged || (h.vslot false b.idx b.slot).damaged
    | none => false
  let h2 := (h1.ctxs.filter (fun e => hit e.2)).foldl (fun a e => a.advise 0x07 e.1) h1
  (h2.ctxs.filter (fun e => e.2.adviseAgain)).foldl (fun a e => a.advise e.2.adviceClass e.1) h2

/-- A planned eviction whose last output tick is this one: EVICTED posts beside the run when the copy has completed and
the tick was no spillway tick; otherwise the plan moves one tick later (R373). -/
def Hw.commitEviction (h : Hw) (c : Nat) (spilled : Bool) (copied : Bool) : Hw :=
  match h.stream c with
  | none => h
  | some s =>
    match s.plan with
    | none => h
    | some p =>
      if p ≠ h.ex.tick then h
      else if s.life == .lost then h.setStream c { s with plan := none }
      else if copied && !spilled then
        let r := h.mkRecord s s.bank (h.ex.tick + 1) false
        (h.postRecord s.evictAddr r).event c s 0x88 stDone (recUnits r) s.idx
      else h.setStream c { s with plan := some (h.ex.tick + 1) }

/-! ### Publication (R26, R256, R257, R262, R270, R274, R290) -/

/-- Record bytes (R270). -/
def recordBytes32 (r : Record) : List Byte :=
  natBytesLE 1 r.kind.toNat ++ natBytesLE 1 r.status.toNat ++ natBytesLE 2 (b2n r.event) ++ natBytesLE 4 r.tag.toNat
  ++ natBytesLE 4 r.handle.toNat ++ natBytesLE 2 r.head.toNat ++ natBytesLE 2 r.detail0.toNat ++ natBytesLE 8 r.epoch.toNat
  ++ natBytesLE 8 r.detail1.toNat

/-- Free entries of a completion queue: from the published tail up to the entry before cq_head (R262). -/
def freeEntries (p : QueuePair) : Nat := ringSub (2 ^ p.cqLog.toNat) (p.cqHead.toNat + 2 ^ p.cqLog.toNat - 1) p.cqTail.toNat

/-- Completions that this publication would write, by sequence number (R262). -/
def Hw.willPublish (h : Hw) : List Nat :=
  h.enabledCqs.flatMap (fun q =>
    let p := h.queue q
    ((p.waiting ++ h.rings.done.filter (fun d => d.q == q)).take (freeEntries p)).filterMap (fun d => if d.r.event then none else some d.seq))

/-- A FENCE completes when nothing of its scope stays unpublished; its record follows theirs (R274, R290). -/
def Hw.sweepFences (h : Hw) (f : FenceWait → Bool) : Hw :=
  h.rings.fences.foldl (fun a w =>
    let pub := a.willPublish
    let opens := a.rings.openDescs.map (fun o => o.seq)
    if f w && w.scope.all (fun n => !(n ∈ opens) || n ∈ pub) then
      let keys := (a.rings.openDescs.filter (fun o => o.seq ∈ w.scope || o.seq == w.seq)).filterMap (fun o => o.applied)
      let up (o : OpenDesc) : OpenDesc := if o.seq = w.seq then { o with applied := if keys.isEmpty then none else some (keys.foldl max 0) } else o
      ({ a with rings := { a.rings with fences := a.rings.fences.filter (fun x => x.seq != w.seq), openDescs := a.rings.openDescs.map up } }).complete
        w.q w.seq opFence w.tag 0 stDone (min w.count 65535) 0
    else a) h

/-- Order of events: module events first, then by context and event code (R274). -/
def sortEvents (es : List Pending) : List Pending :=
  es.filter (fun p => p.module) ++ sortBy (fun p => p.ctx * 256 + p.r.kind.toNat) (es.filter (fun p => !p.module))

/-- Write records of a queue from its published tail upward. -/
def Hw.writeRecords (h : Hw) (q : Nat) (epoch : W64) : List Pending → Hw
  | [] => h
  | p :: ps =>
    let x := h.queue q
    let r := { p.r with epoch := epoch, head := x.fetch }
    let h := h.post (.bytes (x.cqBase + BitVec.ofNat 64 (x.cqTail.toNat * 32)) (recordBytes32 r) true)
    let h := h.setQueue q { x with cqTail := BitVec.ofNat 16 ((x.cqTail.toNat + 1) % 2 ^ x.cqLog.toNat), head := x.fetch }
    let h := if p.r.event then h
             else { h with rings := { h.rings with openDescs := h.rings.openDescs.filter (fun o => o.seq != p.seq) } }
    h.writeRecords q epoch ps

/-- The status line of a queue (R256). -/
def Hw.statusLine (h : Hw) (q : Nat) (epoch : W64) : HostWrite :=
  let x := h.queue q
  .bytes (x.cqBase + BitVec.ofNat 64 (2 ^ x.cqLog.toNat * 32))
    (natBytesLE 4 x.cqTail.toNat ++ natBytesLE 4 x.dropped.toNat ++ natBytesLE 8 epoch.toNat ++ List.replicate 48 0) false

/-- Keep at most 1,024 waiting events, the oldest; the others are dropped and counted (R262). -/
def capEvents : Nat → List Pending → List Pending × Nat
  | _, [] => ([], 0)
  | room, p :: ps =>
    if !p.r.event then
      let r := capEvents room ps
      (p :: r.1, r.2)
    else
      match room with
      | 0 =>
        let r := capEvents 0 ps
        (r.1, r.2 + 1)
      | k + 1 =>
        let r := capEvents k ps
        (p :: r.1, r.2)

/-- Publish the records of one queue: those that fit, in order; the excess waits (R262, R274). Gives whether any was written. -/
def Hw.publishQueue (h : Hw) (q : Nat) (epoch : W64) (new : List Pending) : Bool × Hw :=
  let x := h.queue q
  let all := x.waiting ++ new
  let n := freeEntries x
  let now := all.take n
  let left := capEvents 1024 (all.drop n)
  let h := h.writeRecords q epoch now
  let h := h.modQueue q (fun y => { y with
    waiting := left.1, dropped := satAdd y.dropped left.2, overflow := y.overflow || decide (0 < left.2) })
  let h := if left.2 = 0 then h
           else ({ h with cnt := { h.cnt with dropped := h.cnt.dropped + BitVec.ofNat 64 left.2 } }).raise 511
  (!now.isEmpty, if now.isEmpty then h else h.raise x.vector.toNat)

/-- Completions in the order in which their descriptors were applied: by tick and class, then in order of decode; those of
the idle time follow in order of decode (R273, R274). -/
def Hw.sortDone (h : Hw) : List Pending :=
  let key (p : Pending) : Nat := match h.rings.openDescs.find? (fun o => o.seq == p.seq) with | some o => o.applied.getD (2 ^ 70) | none => 2 ^ 70
  sortBy key (sortBy (fun p => p.seq) h.rings.done)

/-- Every queue's records, module events to every enabled queue (R255), then its block trailers, position records and, last, the status lines (R26, R162, R256). -/
def Hw.publishRecords (h : Hw) (epoch : W64) (positions : List HostWrite) : Hw :=
  let done := h.sortDone
  let events := sortEvents h.rings.events
  let trailers := h.rings.trailers
  let qs := h.enabledCqs
  let h := { h with rings := { h.rings with done := [], events := [], trailers := [] } }
  let r := qs.foldl (fun (acc : List Nat × Hw) q =>
    let (b, h) := acc.2.publishQueue q epoch (done.filter (fun p => p.q == q) ++ events.filter (fun p => p.module || p.q == q))
    (if b then acc.1 ++ [q] else acc.1, h)) ([], h)
  let h := (trailers ++ positions).foldl Hw.post r.2
  r.1.foldl (fun a q => a.post (a.statusLine q epoch)) h

/-- The position record of a stream with a ring (R295). -/
def Hw.positionRecord (h : Hw) (s : Stream) : HostWrite :=
  let avail := s.ring.descs.foldl (fun n d => n + (d.blocks.length - d.used)) 0
  let tag := match s.ring.holder with | some d => d.tag | none => 0
  let (tg, bi, off, runs) : Nat × Nat × Nat × Nat :=
    match s.ring.block, s.ring.next with
    | some b, _ => (tag.toNat, b.index, b.offset, b.runs)
    | none, some (d, k) => (d.tag.toNat, k, 0, 0)
    | none, none => (0, 0, 0, 0)
  .bytes s.ringAddr (natBytesLE 8 h.epoch.toNat ++ natBytesLE 8 s.idx.toNat ++ natBytesLE 4 tg ++ natBytesLE 4 bi ++ natBytesLE 4 off
    ++ natBytesLE 4 runs ++ natBytesLE 4 avail ++ List.replicate 28 0) false

def Hw.positions (h : Hw) : List HostWrite :=
  (h.ctxs.filter (fun e => e.2.ringAddr != 0)).map (fun e => h.positionRecord e.2)

/-- Send the messages of the tick: one per vector; a masked vector's pending bit is set instead (R242). -/
def Hw.sendMsix (h : Hw) : Hw :=
  let vs := h.link.raise
  vs.foldl (fun a v =>
    let m := tget MsixEntry.reset a.msix v
    if a.link.msixOn && !a.link.funcMask && !m.masked then a.post (.msix v m.addr m.data)
    else { a with msix := tput MsixEntry.reset a.msix v { m with pending := true } }) { h with link := { h.link with raise := [] } }

/-- Write the entries of the tick (R381). -/
def Hw.flushLog (h : Hw) : Hw :=
  { h with log := { (h.log.pending.foldl appendLog h.log) with pending := [] } }

/-- Steps 6 to 8 of R162: records, snapshot, messages. -/
def Hw.publish (h : Hw) (epoch : W64) : Hw :=
  let h := (h.publishRecords epoch h.positions).flushLog
  (h.snapshot epoch).sendMsix

/-! ### The commit -/

/-- Close every context without completions: streams, waiting descriptors and groups are gone, and with them the open
descriptors but stagings, FENCEs and those whose completion is composed; versions left unreferenced are freed (R223, R253). -/
def Hw.closeAll (h : Hw) : Hw :=
  let h := (h.ctxs.map Prod.fst).foldl (fun a c => (a.unbind c).dropSelection c) h
  let composed := h.rings.done.map (fun p => p.seq) ++ h.qs.flatMap (fun e => e.2.waiting.map (fun p => p.seq))
  let keep (o : OpenDesc) : Bool :=
    o.seq ∈ composed || h.rings.fences.any (fun f => f.seq == o.seq) || h.cat.staging.any (fun g => g.seq == o.seq)
  ({ h with
    streams := [], groups := []
    rings := { h.rings with admitted := [], laneWait := [], events := [], trailers := [], openDescs := h.rings.openDescs.filter keep }
    eng := { h.eng with leaving := [] } }).freeVersions

/-- Every descriptor not yet completed completes with ABORTED (R270, R358). -/
def Hw.abortOpen (h : Hw) : Hw :=
  let composed := h.rings.done.map (fun p => p.seq) ++ (h.qs.flatMap (fun e => e.2.waiting.map (fun p => p.seq)))
  let todo := h.rings.openDescs.filter (fun o => !(o.seq ∈ composed))
  let h1 := todo.foldl (fun a o => a.complete o.q o.seq o.op o.tag o.handle stAborted 0 0) h
  let h2 := h1.cat.staging.foldl (fun a g =>
    a.setVslot g.trunk g.idx g.slot (if g.restore then { a.vslot g.trunk g.idx g.slot with restoring := false } else VSlot.reset)) h1
  { h2 with rings := { h2.rings with admitted := [], laneWait := [], fences := [] }, cat := { h2.cat with staging := [] } }

/-- The commit of the tick in which SAFE is entered (R358). -/
def Hw.safeCommit (h : Hw) : Hw :=
  let h := h.ctxs.foldl (fun a e =>
    match e.2.heldRec with
    | some r => if e.2.work.copied then (a.postRecord e.2.evictAddr r).event e.1 e.2 0x88 stDone (recUnits r) e.2.idx else a
    | none => a) h
  let h := (List.range 16).foldl (Hw.commitPort (h.ctxs.map (fun e => (e.1, e.2.idx)))) h
  let h := h.abortOpen.flushDrops.transientEntries.fenceEntries
  let h := h.degradedEvents
  let h := { h with ex := { h.ex with last := some h.ex.tick, safePlan := some (h.ex.safePlan.getD 0) } }
  let tick := h.ex.tick
  let h := (h.rest 0x0358).publish tick
  let h := h.closeAll.haltExec
  { h with ex := { h.ex with linkLost := false } }

/-- Completion of a WEIGHT_STAGE that succeeds: slot, and the first 8 bytes of the version hash (R271). -/
def Hw.stageDone (h : Hw) (g : Staging) : Hw :=
  let h := { h with cat := { h.cat with staging := h.cat.staging.filter (fun x => x.seq != g.seq) } }
  h.complete g.q g.seq opStage g.tag 0 stDone g.slot (g.hash.setWidth 64)

/-- A restore whose hash has verified: at the commit the version takes its fresh granules and a new granule map, frees the
old ones, and returns to the state that it remembers (R456). -/
def Hw.restoreVersion (h : Hw) (g : Staging) : Hw :=
  let v := h.vslot g.trunk g.idx g.slot
  let m := h.takeFree
  (m.2.setVslot g.trunk g.idx g.slot { v with damaged := false, restoring := false, granules := g.granules, mapAddr := m.1 }).stageDone g

def Hw.commitRestores (h : Hw) : Hw := (h.cat.staging.filter (fun g => g.verified)).foldl Hw.restoreVersion h

/-- A trial image counts a committed tick (R396). -/
def Hw.countTrials (h : Hw) : Hw :=
  { h with sec := { h.sec with fw := h.sec.fw.map (fun e => (e.1, if e.2.trial then { e.2 with trialTicks := e.2.trialTicks + 1 } else e.2)) } }

/-- The ports after a link loss: output ports play out what their FIFOs hold, the others are muted (R253). -/
def Port.drain (x : Port) : Port :=
  if x.state != .running then x
  else if x.isOutput && !(x.fifo.isEmpty && x.fifoNext.isEmpty) then { x with draining := true }
  else x.mute

/-- The stop of a link loss: contexts close without completions, the ports drain, DEV_STATE becomes READY and the last
committed epoch is recorded (R253). -/
def Hw.linkStop (h : Hw) : Hw :=
  let last := (h.ex.last.getD stoppedEpoch).toNat
  let h := h.closeAll.haltExec
  let h := { h with ex := { h.ex with linkLost := false }, ports := h.ports.map (fun (e : Nat × Port) => (e.1, e.2.drain)) }
  (h.rest 0x0253).note (entry 0x0030 0 0 moduleUnit (Config.eventCode 0x0253).toNat last)

/-- A free word of W bits as a signed code. -/
def freeCode (w : W64) (W : Nat) : Int := (w.toNat % 2 ^ W : Nat) - (if w.toNat / 2 ^ (W - 1) % 2 = 1 then (2 ^ W : Int) else 0)

/-- `n` frames of free words (log 5). -/
def Hw.freeFrames (W : Nat) : Nat → Hw → List (Int × Int) × Hw
  | 0, h => ([], h)
  | n + 1, h =>
    let a := h.takeFree
    let b := a.2.takeFree
    let r := Hw.freeFrames W n b.2
    ((freeCode a.1 W, freeCode b.1 W) :: r.1, r.2)

/-- The N frames that a slave input port's drift follower delivers in a window: the conversion's codes are free (R306, R314). -/
def Hw.followerFrames (h : Hw) (p : Nat) : Hw :=
  let x := h.port p
  if x.slave && !x.isOutput && x.state == .running && !x.windowBad && !x.openLine then
    let r := Hw.freeFrames x.width x.n h
    r.2.setPort p { x with frames := r.1 }
  else h

/-- Commit and publish the tick (R162, steps 5 to 8). -/
def Hw.commitTick (h : Hw) (i : ImageFile) : Hw :=
  let h := (List.range 16).foldl Hw.followerFrames h
  let before := h.ctxs.map (fun e => (e.1, e.2.work.spill.isSome, e.2.work.copied))
  let at0 := h.ctxs.map (fun e => (e.1, e.2.idx))
  let h := (h.ctxs.map Prod.fst).foldl Hw.moveSwitch h
  let h := (h.ctxs.map Prod.fst).foldl (fun a c => a.commitStream i c) h
  let h := (h.ctxs.map Prod.fst).foldl Hw.commitImport h
  let h := before.foldl (fun a e => a.commitEviction e.1 e.2.1 e.2.2) h
  let h := (List.range 16).foldl (Hw.commitPort at0) h
  let h := h.commitRestores.adviseAll.freeVersions
  let h := h.flushDrops.transientEntries.fenceEntries
  let h := h.degradedEvents
  let h := if h.ex.mode == .running || h.ex.mode == .degraded then h.setMode h.runMode 0x0371 else h
  let h := h.sweepFences (fun _ => true)
  let h := h.publish h.ex.tick
  let h := h.countTrials
  let h := { h with ex := { h.ex with window := .commit, last := some h.ex.tick }, ts := { h.ts with own := false } }
  if h.ex.linkLost then h.linkStop else h

/-- INTAKE_CLOSE: incomplete work is resolved, and the tick commits (R12, R162). -/
def Hw.intakeClose (h : Hw) (late : List Late) : Hw :=
  if !h.ex.running || !h.decodes || h.ex.rerun || (h.ex.window != .work && h.ex.window != .reserve) then h
  else if h.ex.safeTick then h.safeCommit
  else
    match h.ex.image with
    | none => h
    | some i => (h.resolveWork late).commitTick i

def execIntakeClose (late : List Late) (s : State) : Host.Outcome State Fault Refusal := .next { s with hw := s.hw.intakeClose late }

/-- IDLE_PUBLICATION: while the executive is stopped, records and the snapshot are published with an all-ones epoch
(R275, R430); latched writes that no tick work waits for take effect (DESIGN CHOICE, log 14), and descriptors that a
published barrier held are handled (R291). -/
def Hw.idlePublish (h : Hw) : Hw :=
  if h.ex.running || !h.decodes then h
  else
    let h := h.latchIdle.coolBoundary.flushDrops.commitRestores
    ((((h.sweepFences (fun _ => true)).publishRecords stoppedEpoch []).flushLog.snapshot stoppedEpoch).sendMsix).drainStopped

def execIdlePublication (s : State) : Host.Outcome State Fault Refusal := .next { s with hw := s.hw.idlePublish }

/-- CQ_WAITING_PUBLISH: records held back for want of space are published at an idle point once entries free. While the
executive runs they belong to a commit, which publishes them itself ahead of its own records, so that none carries an epoch
already published and no vector sends a second message in a tick (R242, R249, R262; DEDUCED, log 113). -/
def Hw.publishWaiting (h : Hw) (q : Nat) : Hw :=
  if !h.decodes || h.ex.running || !(h.queue q).cqOn then h
  else
    let (b, h) := h.publishQueue q stoppedEpoch []
    if b then (h.post (h.statusLine q stoppedEpoch)).sendMsix else h

def execCqWaitingPublish (q : Fin 256) (s : State) : Host.Outcome State Fault Refusal :=
  .next { s with hw := s.hw.publishWaiting q }

/-- FENCE_COMPLETE: the FENCEs of a queue whose scope has completed compose their completion, which the next publication
writes; that publication releases the barrier (R290, R291). -/
def execFenceComplete (q : Fin 256) (s : State) : Host.Outcome State Fault Refusal :=
  .next { s with hw := if s.hw.decodes then s.hw.sweepFences (fun w => w.q == q.val) else s.hw }

end Sys2Proof.Machine
end

