-- ==== Sys2Proof/Machine/Pumps.lean ====
section
/-!
DEFINITION. Device address spaces, far-memory regions and the catalogue directory in them, and Pump descriptors (R204 to
R209, R215 to R220, R368).
-/
namespace Sys2Proof.Machine

/-! ### Spaces and regions (R204, R207 to R209, R427) -/

/-- Far capacity as CAP_DIMS reports it: 0 after a training failure (R204, R206, R413). -/
def Hw.farBytes (h : Hw) : Nat := if h.mem.trainFail.isSome then 0 else Config.farCapacity

/-- The base of far memory. -/
def farBase : Nat := 0x100000000000

/-- The sub-channel of its channel that a far address lies on (R208). -/
def subChannelOf (a : Nat) : Nat := (a - farBase) / 512 / 48 % 2

/-- The regions of R209 at the addresses of R427. -/
def Hw.dirBase (h : Hw) : Nat := farBase + h.mem.imageSize.toNat * 0x40000000
/-- Bytes of one copy of the directory (R209, R216). -/
def Hw.dirBytes (h : Hw) : Nat := h.mem.voiceMax.toNat * 4096 + 65536
def Hw.storeBase (h : Hw) : Nat := h.dirBase + ceilDiv (2 * h.dirBytes) 0x200000 * 0x200000
def Hw.workBase (h : Hw) : Nat := (farBase + h.farBytes - 0x80000000) / 0x200000 * 0x200000
/-- Granules of 2 MiB in the weight store (R209, R427). -/
def Hw.storeGranules (h : Hw) : Nat := (h.workBase - h.storeBase) / 0x200000

/-- Far address of a granule of the weight store. -/
def Hw.granuleAddr (h : Hw) (g : Nat) : Nat := h.storeBase + g * 0x200000

/-- Bounds of a device space; the host has none of its own (R207). -/
def Hw.spaceRange (h : Hw) (sp : Nat) : Nat × Nat :=
  match sp with
  | 0 => (0, 0x2000000000)
  | 1 => (farBase, farBase + h.farBytes)
  | 2 => (0, 0x14000000)
  | 3 => (0, 0x4000000)
  | 4 => (0, 0x1000000)
  | _ => (0, 0)

/-- The address lies in the space. -/
def Hw.inSpace (h : Hw) (sp a : Nat) : Bool := decide ((h.spaceRange sp).1 ≤ a) && decide (a < (h.spaceRange sp).2)

/-! ### The directory in far memory (R216, R217) -/

/-- The code of a version slot's state (R222). -/
def VSlot.code (v : VSlot) : Nat :=
  if v.damaged then 5
  else
    match v.state with
    | .free => 0
    | .staging => 1
    | .staged => 2
    | .current => 3
    | .retiring => 4

/-- The 128 bytes of a version slot (R217). -/
def VSlot.bytes (v : VSlot) : List Byte :=
  hashBytes v.hash ++ natBytesLE 8 v.mapAddr.toNat ++ natBytesLE 8 v.length ++ natBytesLE 1 v.code ++ natBytesLE 3 0 ++ natBytesLE 4 v.refs
  ++ natBytesLE 8 v.epoch.toNat ++ natBytesLE 8 (if v.resident then v.nearMap.toNat else 0) ++ natBytesLE 24 0

/-- The 512 bytes of a variant record (R216). -/
def Variant.bytes (x : Variant) : List Byte :=
  padTo 128 (f16Bytes x.key) ++ natBytesLE 4 ((if x.present then 1 else 0) + 2 * x.current) ++ natBytesLE 12 0 ++ x.slot0.bytes ++ x.slot1.bytes
  ++ natBytesLE 112 0

/-- A byte of the directory: the header area, with the trunk table at its foot (DESIGN CHOICE, log 88), and the voice
entries (R215, R216). -/
def Hw.dirByte (h : Hw) (o : Nat) : Byte :=
  if o < 65536 then (h.cat.trunk0.bytes ++ h.cat.trunk1.bytes ++ h.cat.trunk2.bytes).getD o 0
  else (h.voice ((o - 65536) / 512)).bytes.getD ((o - 65536) % 512) 0

/-- A byte of a device space; far memory holds the image and, twice, the directory in regions of their own (R207, R209). -/
def Hw.spaceByte (h : Hw) (sp a : Nat) : Byte :=
  match sp with
  | 0 => read8 h.mem.near a
  | 1 =>
    if a < h.dirBase then (match h.mem.region with | some i => i.file.getD (a - farBase) 0 | none => 0)
    else if a < h.dirBase + 2 * h.dirBytes then h.dirByte ((a - h.dirBase) % h.dirBytes)
    else read8 h.mem.far a
  | 2 => read8 h.mem.tile a
  | 3 => read8 h.mem.se a
  | 4 => read8 h.mem.ctl a
  | _ => 0

/-- Write one byte of a device space. The image copy and the firmware keep the first two regions of far memory (R209). -/
def Hw.spacePut (h : Hw) (sp a : Nat) (b : Byte) : Hw :=
  match sp with
  | 0 => { h with mem := { h.mem with near := write8 h.mem.near a b } }
  | 1 => if a < h.storeBase then h else { h with mem := { h.mem with far := write8 h.mem.far a b } }
  | 2 => { h with mem := { h.mem with tile := write8 h.mem.tile a b } }
  | 3 => { h with mem := { h.mem with se := write8 h.mem.se a b } }
  | 4 => { h with mem := { h.mem with ctl := write8 h.mem.ctl a b } }
  | _ => h

/-- Write bytes from an address of a space upward; bytes outside the space are not written. -/
def Hw.spaceWrite (h : Hw) (sp : Nat) : Nat → List Byte → Hw
  | _, [] => h
  | a, b :: bs => (if h.inSpace sp a then h.spacePut sp a b else h).spaceWrite sp (a + 1) bs

/-! ### Pump descriptors (R166, R218, R220) -/

/-- The bytes [a, a + n) meet the chamber of a lock that is in use when the lock has been swapped `swaps` times. -/
def LockPlace.meets (k : LockPlace) (a n swaps : Nat) : Bool :=
  let base := k.base + if swaps % 2 = 1 then k.size else 0
  decide (a < base + k.size) && decide (base < a + n)

/-- A write of [a, a + n) to a space meets a chamber in use, by the swap counts that `swaps` gives (R73, R166). -/
def meetsInUse (aux : List (Nat × Nat)) (swaps : Nat → Nat) (sp a n : Nat) : Bool :=
  (locksNear aux sp a n).any (fun k => k.meets a n (swaps k.num))

/-- A transfer whose SRAM destination is sound when locks have been swapped as `swaps` says: with idle_chamber it names
a lock by its base and its rows fit one chamber; otherwise no row meets a chamber in use (R73, R166, R220). -/
def fillOk (aux : List (Nat × Nat)) (swaps : Nat → Nat) (d : BitVec 256) : Bool :=
  if pumpIdle d then
    match pumpLock aux d with
    | some k => decide ((pumpRows d - 1) * pumpDstPitch d + pumpLen d ≤ k.size)
    | none => false
  else (List.range (pumpRows d)).all (fun r => !meetsInUse aux swaps (pumpDstSpace d) (pumpDstField d + r * pumpDstPitch d) (pumpLen d))

/-! ### Classes (R218, R368) -/

/-- The cluster that a class-0 transfer serves: that of the tile it reads or writes; any where it names no tile. -/
def pumpCluster (d : BitVec 256) : Option Nat :=
  if pumpDstSpace d = 2 then some (pumpDstField d / tileSize / 16)
  else if pumpSrcSpace d = 2 then some (pumpSrc d / tileSize / 16)
  else none

/-- The Pumps 8 to 15 by the class whose place they hold, in class order: classes 3 and 4 share one (R218). -/
def poolPlaces : List Nat := [1, 1, 1, 1, 2, 2, 3, 5]

def pumpUnit (p : Nat) : UnitId := { kind := .pump, index := p }

/-- Pump `p` runs transfers of the descriptor's class: its own, or those of a fenced Pump. Pump c of class 0 serves cluster
c, and Pump c XOR 1 for it; once a Pump from 8 to 15 is fenced, the live ones of that pool take the places of classes 1 to 5 in
class order, round-robin (R218, R368; the round-robin is a DESIGN CHOICE, log 99). -/
def Hw.pumpServes (h : Hw) (p : Nat) (d : BitVec 256) : Bool :=
  let c := pumpClass d
  if pumpUnit p ∈ h.eng.fenced then false
  else if c = 0 then
    decide (p < 8) && (match pumpCluster d with | some k => h.standsFor (pumpUnit p) (pumpUnit k) | none => true)
  else
    let live := ((List.range 8).map (fun k => k + 8)).filter (fun k => !(pumpUnit k ∈ h.eng.fenced))
    poolPlaces.zipIdx.any (fun e => (e.1 == c || (e.1 == 3 && c == 4)) && nth 16 live (e.2 % live.length) == p)

end Sys2Proof.Machine
end

