-- ==== Sys2Proof/Machine/Synth.lean ====
section
/-!
DEFINITION. The Sample Engine: Conv-Scan Unit passes, scans, berms, Sample Lane steps, and the rebuild of carried state
from conditioning (R102 to R138, R147 to R155).
-/
namespace Sys2Proof.Machine

/-! ### Weights and polders in SE SRAM (R103, R107, R125) -/

/-- A binary16 value of section 0x0B, which stands at the foot of SE SRAM (R103, R125; log 74). -/
def seF16 (se : Memory) (off : Nat) : F16 := BitVec.ofNat 16 (bytesToNatLE (readN se off 2))
def seF16s (se : Memory) (off n : Nat) : List F16 := (List.range n).map (fun k => seF16 se (off + 2 * k))

/-- P of an output region of `n` samples (R107). -/
def planar (n : Nat) : Nat := up64 (2 * n)

/-- Sample `t` of channel `c` of a planar region of `n` samples. -/
def planarAt (b : Bytes) (n c t : Nat) : F16 := f16At b (c * planar n + 2 * t)

/-- Write samples of channel `c` from position `t` upward. -/
def planarPut (b : Bytes) (n c t : Nat) (xs : List F16) : Bytes := writeN b (c * planar n + 2 * t) (f16Bytes xs)

/-- The first `n` samples of a channel. -/
def planarRun (b : Bytes) (n c : Nat) : List F16 := (List.range n).map (planarAt b n c)

/-! ### Convolution layers (R104 to R118) -/

/-- What a run reads: the conditioning values, and the output polders of its earlier layers and scans. -/
structure RunIn where
  cond : List F16
  fifth : Nat
  layers : Table Bytes
  scans : Table Bytes

/-- Samples of a source in a run; the conditioning is one sample of its channels (R105). -/
def srcN (i : ImageFile) (rate : Nat) : LayerSrc → Nat
  | .conditioning => 1
  | .layer m => match i.parts.csu[m]? with | some l => layerN l rate | none => 0
  | .scan k => match i.parts.recs[k]? with
    | some r => match i.parts.csu[r.aLayer]? with | some l => layerN l rate | none => 0
    | none => 0

/-- Input samples of channel `c` of a layer in this run. -/
def inputRun (i : ImageFile) (rate : Nat) (r : RunIn) (l : CsuLayer) (c : Nat) : List F16 :=
  match l.src with
  | .conditioning => [nth 0 r.cond c]
  | .layer m => planarRun (tget [] r.layers m) (srcN i rate l.src) c
  | .scan k => planarRun (tget [] r.scans k) (srcN i rate l.src) c

/-- First position of the run in the coordinate of its input: fifth p of the frame for the conditioning, else 0. -/
def layerBase (r : RunIn) (l : CsuLayer) (rate : Nat) : Nat :=
  match l.src with
  | .conditioning => r.fifth * layerN l rate
  | _ => 0

/-- The input index of an output position (R105, R111). -/
def inIndex (l : CsuLayer) (t : Nat) : Nat :=
  match l.src with
  | .conditioning => 0
  | _ => if l.transposed then t / l.dil else t

/-- A layer's input region in the polder (R107): channel c at c × P, its H history samples, oldest first, and then the run.
A history that reaches back only to its segment's start stands just below the run. -/
def inputPolder (i : ImageFile) (rate : Nat) (r : RunIn) (hist : List (List F16)) (l : CsuLayer) : Bytes :=
  let k := layerHist l
  let n := k + srcN i rate l.src
  (List.range l.inCh).foldl (fun b c =>
    let old := (nth [] hist c).drop ((nth [] hist c).length - k)
    planarPut (planarPut b n c (k - old.length) old) n c k (inputRun i rate r l c)) []

/-- What a pass reads of its layer's input: the input region of `n` samples a channel with `k` of history, how many history
samples each channel has, and above a berm the index that it ends below and its samples (R107, R118). -/
structure TapSource where
  polder : Bytes
  n : Nat
  k : Nat
  held : List Nat
  berm : Option (Nat × List (List F16))

/-- The source of a pass. -/
def tapSource (i : ImageFile) (rate : Nat) (r : RunIn) (hist : List (List F16)) (berm : Option (Nat × List (List F16))) (l : CsuLayer) : TapSource :=
  let k := layerHist l
  { polder := inputPolder i rate r hist l, n := k + srcN i rate l.src, k := k, held := hist.map (fun h => min k h.length), berm := berm }

/-- What a tap reads at a position of the run: the berm below its end, the input region, and before the segment the padding
(R107, R112, R118). -/
def TapSource.read (x : TapSource) (pad : Padding) (c : Nat) (pos : Int) : F16 :=
  let held : Int := (nth 0 x.held c : Nat)
  let first := planarAt x.polder x.n c (x.k - nth 0 x.held c)
  let polder := if pos < -held then tapValue pad 0 [] first (-1) else planarAt x.polder x.n c (pos + x.k).toNat
  match x.berm with
  | some (at0, b) =>
    let xs := nth [] b c
    let q := pos - at0 + xs.length
    if pos < at0 ∧ 0 ≤ q then nth 0 xs q.toNat else polder
  | none => polder

/-- The terms of output channel `o` at run position `t`, in logical index order (R108, R111, R112). -/
def layerTerms (se : Memory) (rate : Nat) (r : RunIn) (x : TapSource) (l : CsuLayer) (o t : Nat) : List Exact :=
  let g := l.perGroup
  let per := l.outCh / max 1 (l.inCh / max 1 g)
  let grp := o / max 1 per
  let read (k : Nat) (pos : Int) : F16 := x.read l.pad (grp * g + k) pos
  let w := seF16s se (l.weights + 2 * (o * (g * l.kernel))) (g * l.kernel)
  let at0 : Int := ((layerBase r l rate + t : Nat) : Int)
  if l.transposed then transTerms l.kernel l.dil w read g at0 else convTerms l.kernel l.dil w read g at0

/-- Terms whose first is off by an error in units of 2^-48 (R124). -/
def offBy (d : Int) : List Exact → List Exact
  | [] => []
  | x :: xs => if d = 0 then x :: xs else x.add (ofInt d (-48)) :: xs

/-- The blocks of a sum, each with the error of its block sum (R59, R124). -/
def errBlocks (err : Nat → Int) (ts : List Exact) : List (List Exact × Int) := (pieces 64 ts).zipIdx.map (fun e => (e.1, err e.2))

/-- The terms of a sum with the errors of its blocks. -/
def withErrors (err : Nat → Int) (ts : List Exact) : List Exact := (errBlocks err ts).flatMap (fun e => offBy e.2 e.1)

/-- The residue test of every block of a sum (R124). -/
def blocksOk (err : Nat → Int) (ts : List Exact) : Bool := (errBlocks err ts).all (fun e => blockResidueOk e.1 (fixed48 e.1 + e.2))

/-- One output sample of a layer (R108 to R111). -/
def layerOut (se : Memory) (rate : Nat) (r : RunIn) (x : TapSource) (l : CsuLayer) (errs : List SumError) (o t : Nat) : F16 :=
  let ts := withErrors (errorAt errs t o) (layerTerms se rate r x l o t)
  let res := l.residual.map (fun m => planarAt (tget [] r.layers m) (layerN l rate) o t)
  outputStage l.fn res (r59Sum (f16to32 (seF16 se (l.bias + 2 * o))) ts)

/-- Output channels of a column set: 64 of them, one pass each (R114). -/
def setChannels (l : CsuLayer) (set : Nat) : List Nat := ((List.range 64).map (fun k => 64 * set + k)).filter (fun o => decide (o < l.outCh))

/-- Column sets of a layer. -/
def layerSets (l : CsuLayer) : Nat := ceilDiv l.outCh 64

/-- Terms of an output: of a transposed layer, those of its longest phase with a full input group (R114, R115). -/
def layerTermCount (l : CsuLayer) : Nat := l.perGroup * (if l.transposed then ceilDiv l.kernel l.dil else l.kernel)

/-- Rows of a segment: the smallest of 4 to 64 that holds the terms of an output (R114). -/
def segmentRows (l : CsuLayer) : Nat := ([4, 8, 16, 32, 64].find? (fun r => decide (layerTermCount l ≤ r))).getD 64

/-- Positions that a base position serves: one for each segment, times the fold factor (R114, R116). -/
def segmentSpan (l : CsuLayer) (rate : Nat) : Nat :=
  (if layerTermCount l ≤ 64 then 64 / segmentRows l else 1) * (((l.folds.find? (fun f => f.1 == rate)).map Prod.snd).getD 1)

/-- Write the outputs of `count` positions from `t0` of some channels. -/
def layerPut (se : Memory) (rate : Nat) (r : RunIn) (x : TapSource) (l : CsuLayer) (errs : List SumError) (os : List Nat) (t0 count : Nat) (b : Bytes) : Bytes :=
  os.foldl (fun b o => planarPut b (layerN l rate) o t0 ((List.range count).map (fun k => layerOut se rate r x l errs o (t0 + k)))) b

/-- The layer's history after the run: the last H input samples (R106); a frame enters it when its fifth 4 has been
played (DEDUCED, log 18). -/
def histAfter (i : ImageFile) (rate : Nat) (r : RunIn) (hist : List (List F16)) (l : CsuLayer) : List (List F16) :=
  let push := match l.src with
    | .conditioning => decide (r.fifth = 4)
    | _ => true
  if push then
    (List.range l.inCh).map (fun c =>
      let x := nth [] hist c ++ inputRun i rate r l c
      x.drop (x.length - layerHist l))
  else hist

/-! ### Sample-rate scans (R121 to R123) -/

/-- What the scan of a run gives: outputs per channel, stored words, trips, saturation and non-finite writes, and whether
every product has passed its residue check. -/
structure ScanRun where
  outs : List (List F16)
  words : List W32
  trips : Nat
  sat : Bool
  nan : Bool
  ok : Bool

/-- One chunk of a scan: positions `a, u` per channel from run position `at0`, whose last has logical index `last`. An error
names the position, the channel and the product: of level l 2 l and 2 l + 1, of the join 12 and 13, of the last step 14. -/
def scanChunk (i : ImageFile) (s : Stream) (k : Nat) (r : Recurrence) (errs : List SumError) (x : ScanRun) (au : List (List (F16 × F16))) (at0 last : Nat) :
    ScanRun :=
  let hs := au.zipIdx.map (fun e => chunkScanWith (fun t n => errorAt errs (at0 + t) e.2 n) (stateValue r.prec (nth 0 x.words e.2)) e.1)
  let w := writeRec i s k r (hs.map (fun h => (h.getLastD (0, true)).1)) last
  { outs := hs.zipIdx.map (fun e => nth [] x.outs e.2 ++ e.1.map (fun y => f32to16 y.1)), words := w.1, trips := x.trips + b2n w.2.1,
    sat := x.sat || w.2.2.1, nan := x.nan || w.2.2.2, ok := x.ok && hs.all (fun c => c.all Prod.snd) }

/-- The chunks of a run from its first position onward (R121). -/
def scanChunks (i : ImageFile) (s : Stream) (k : Nat) (r : Recurrence) (errs : List SumError) (au : List (List (F16 × F16))) (first : Nat) :
    Nat → Nat → ScanRun → ScanRun
  | 0, _, x => x
  | fuel + 1, at0, x =>
    let here := au.map (fun c => (c.drop at0).take r.chunk)
    let n := (nth [] here 0).length
    if n = 0 then x else scanChunks i s k r errs au first fuel (at0 + n) (scanChunk i s k r errs x here at0 (first + at0 + n - 1))

/-- Logical index, at a layer's rate, of the sample index where a run begins. -/
def layerIndex (l : CsuLayer) (rate idx : Nat) : Nat := idx * layerN l rate / rateN rate

/-- The sample-rate recurrence of a run, from its stored words (R121 to R123). -/
def scanRun (i : ImageFile) (s : Stream) (k : Nat) (r : Recurrence) (errs : List SumError) (words : List W32) (layers : Table Bytes) (idx : Nat) : ScanRun :=
  let n := srcN i s.rate (.scan k)
  let au := (List.range r.channels).map (fun c => (planarRun (tget [] layers r.aLayer) n c).zip (planarRun (tget [] layers r.uLayer) n c))
  let first := match i.parts.csu[r.aLayer]? with
    | some l => layerIndex l s.rate idx
    | none => 0
  scanChunks i s k r errs au first n 0 { outs := [], words := words, trips := 0, sat := false, nan := false, ok := true }

/-- The output polder of a scan. -/
def ScanRun.polder (x : ScanRun) (n : Nat) : Bytes := x.outs.zipIdx.foldl (fun b e => planarPut b n e.2 0 e.1) []

/-- A flagged result: a non-finite write, or a non-finite output at a position (R57). -/
def ScanRun.nonfinite (x : ScanRun) : Bool := x.nan || x.outs.any (fun c => c.any (fun v => (val16 v).nonfinite))

/-! ### Conv-Scan Unit steps of the tick program (R114, R118 to R120, R124) -/

/-- The run of a stream as the Sample Engine reads it. -/
def Stream.runIn (s : Stream) : RunIn :=
  { cond := s.bank.cond.values, fifth := s.bank.sample.fifths, layers := s.work.layers, scans := s.work.scanOuts }

/-- A position of a layer is there in every channel. -/
def layerAt (i : ImageFile) (s : Stream) (l : Nat) (x : CsuLayer) (t : Nat) : Bool :=
  (List.range (layerSets x)).all (fun j => (csuSteps i).any (fun e => match e.2 with
    | .layer m k _ => m == l && k == j && covers (tget [] s.work.cover e.1) t
    | .scan _ => false))

/-- Every position of a layer is there. -/
def layerFull (i : ImageFile) (s : Stream) (l : Nat) : Bool :=
  match i.parts.csu[l]? with
  | some x => (List.range (layerN x s.rate)).all (layerAt i s l x)
  | none => false

/-- A scan of the run has been done. -/
def scanFull (i : ImageFile) (s : Stream) (k : Nat) : Bool := (csuSteps i).any (fun e => e.2 == .scan k && stepCovered i s e.1 e.2)

/-- The samples of a source from position `lo` to position `hi` are there. -/
def srcReady (i : ImageFile) (s : Stream) (lo hi : Nat) : LayerSrc → Bool
  | .conditioning => true
  | .layer m => match i.parts.csu[m]? with
    | some x => (List.range (hi + 1 - lo)).all (fun k => layerAt i s m x (lo + k))
    | none => false
  | .scan k => scanFull i s k

/-- A pass of a layer lies in its stripe, begins at one of the stripe's base positions, and ends at one or at the stripe's
end (R114, R118). -/
def passFits (l : CsuLayer) (rate m t0 count : Nat) : Bool :=
  let b := stripeSpan l rate m
  let w := segmentSpan l rate
  decide (0 < count) && decide (b.1 ≤ t0) && decide (t0 + count ≤ b.2) && decide ((t0 - b.1) % w = 0)
  && (decide (count % w = 0) || decide (t0 + count = b.2))

/-- Every other column set of the stripe is done. -/
def otherSets (i : ImageFile) (s : Stream) (l set m : Nat) : Bool :=
  (csuSteps i).all (fun e => match e.2 with
    | .layer x j n => x != l || n != m || j == set || stepCovered i s e.1 e.2
    | .scan _ => true)

/-- The Conv-Scan Unit steps of a stream that read the berm of a step, with their operations: those whose stripe is not empty
at the stream's rate (R118, R119). -/
def bermReaders (i : ImageFile) (s : Stream) (p : Nat) : List (Nat × CsuOp) :=
  (csuSteps i).filter (fun e => (csuPlace i e.1).2 == some p && (match e.2 with
    | .layer l _ m => (match i.parts.csu[l]? with | some x => decide ((stripeSpan x s.rate m).1 < (stripeSpan x s.rate m).2) | none => false)
    | .scan _ => false))

/-- Whether the inputs of a pass are there. A pass above a berm reads no sample below its stripe but the berm's; the step
that hands a berm on is the last of its stripe's column sets (R114, R118, R119). -/
def csuReady (i : ImageFile) (s : Stream) (p : Nat) (op : CsuOp) (t0 count : Nat) : Bool :=
  match op with
  | .layer l set m =>
    match i.parts.csu[l]? with
    | some x =>
      let lo := if (csuPlace i p).2.isSome then inIndex x (stripeSpan x s.rate m).1 else inIndex x t0 - layerHist x
      passFits x s.rate m t0 count && srcReady i s lo (inIndex x (t0 + count - 1)) x.src
      && (match x.residual with | some r => srcReady i s t0 (t0 + count - 1) (.layer r) | none => true)
      && ((bermReaders i s p).isEmpty || otherSets i s l set m)
    | none => false
  | .scan k =>
    match i.parts.recs[k]? with
    | some r => r.kind == .sample && decide (0 < r.chunk) && layerFull i s r.aLayer && layerFull i s r.uLayer
    | none => false

/-- The residue test of every block of every output, and of every product that a scan forms in FP32 (R124). -/
def csuOk (se : Memory) (i : ImageFile) (s : Stream) (op : CsuOp) (t0 count : Nat) (berm : Option (Nat × List (List F16))) (errs : List SumError) : Bool :=
  match op with
  | .layer l set _ =>
    match i.parts.csu[l]? with
    | some x =>
      let src := tapSource i s.rate s.runIn (tget [] s.bank.sample.hist l) berm x
      (setChannels x set).all (fun o => (List.range count).all (fun k =>
        blocksOk (errorAt errs (t0 + k) o) (layerTerms se s.rate s.runIn src x o (t0 + k))))
    | none => true
  | .scan k =>
    match i.parts.recs[k]? with
    | some r => (scanRun i s k r errs (recWords s.bank.sample.scans k r.channels) s.work.layers s.idx.toNat).ok
    | none => true

/-- Repeat a trip. -/
def tripN : Nat → Nat → Stream → Stream
  | 0, _, s => s
  | n + 1, k, s => tripN n k (s.trip k true)

/-- A layer that is complete leaves its history for the next run, in the written bank (R106, R143). -/
def layerDone (i : ImageFile) (l : Nat) (x : CsuLayer) (s : Stream) : Stream :=
  if layerFull i s l then
    { s with wbank := { s.wbank with sample := { s.wbank.sample with
        hist := tput [] s.wbank.sample.hist l (histAfter i s.rate s.runIn (tget [] s.bank.sample.hist l) x) } } }
  else s

/-- What a pass that has passed its checks writes: the outputs of its column set at its positions, and the history of a
layer that is complete; or scan outputs and state, in the written bank (R106, R107, R123, R143). -/
def csuDo (se : Memory) (i : ImageFile) (s : Stream) (p : Nat) (op : CsuOp) (t0 count : Nat) (berm : Option (Nat × List (List F16)))
    (errs : List SumError) : Stream :=
  match op with
  | .layer l set _ =>
    match i.parts.csu[l]? with
    | none => s
    | some x =>
      let os := setChannels x set
      let src := tapSource i s.rate s.runIn (tget [] s.bank.sample.hist l) berm x
      let b := layerPut se s.rate s.runIn src x errs os t0 count (tget [] s.work.layers l)
      let bad := os.any (fun o => (List.range count).any (fun k => (val16 (planarAt b (layerN x s.rate) o (t0 + k))).nonfinite))
      let s := { s with work := { s.work with
        layers := tput [] s.work.layers l b, cover := tput [] s.work.cover p (tget [] s.work.cover p ++ [(t0, count)]) } }
      layerDone i l x (s.flagNan bad)
  | .scan k =>
    match i.parts.recs[k]? with
    | none => s
    | some r =>
      let x := scanRun i s k r errs (recWords s.bank.sample.scans k r.channels) s.work.layers s.idx.toNat
      let again := s.work.scanOuts.any (fun e => e.1 == k)
      let s := (s.flagSat x.sat).flagNan x.nonfinite
      let s := if again then s else tripN x.trips k s
      { s with work := { s.work with scanOuts := tput [] s.work.scanOuts k (x.polder (srcN i s.rate (.scan k)))
                                     cover := tput [] s.work.cover p [(0, srcN i s.rate (.scan k))] }
               wbank := { s.wbank with sample := { s.wbank.sample with scans := tput [] s.wbank.sample.scans k x.words } } }

/-- The berm that a stripe hands on: its last H output samples of every channel, H the longest history of the layers that
read this one (R118, R119). -/
def bermOf (i : ImageFile) (s : Stream) (op : CsuOp) : List (List F16) :=
  match op with
  | .layer l _ m =>
    match i.parts.csu[l]? with
    | some x =>
      let h := (i.parts.csu.filter (fun y => y.src == .layer l)).foldl (fun a y => max a (layerHist y)) 0
      let b := stripeSpan x s.rate m
      let n := min h (b.2 - b.1)
      (List.range x.outCh).map (fun c => (List.range n).map (fun k => planarAt (tget [] s.work.layers l) (layerN x s.rate) c (b.2 - n + k)))
    | none => []
  | .scan _ => []

/-- The tag of a berm flag: epoch modulo 2^16 and step (R119). -/
def bermTag (tick : W64) (step : Nat) : BitVec 32 := BitVec.ofNat 32 (tick.toNat % 65536 * 65536 + step % 65536)

/-- The Conv-Scan Units of a unit's group. -/
def csuGroup (c : Nat) : List Nat := (List.range 4).map (fun k => c / 4 * 4 + k)

/-- A step without its column set: all the column sets of a stripe run on one unit. -/
def stripeKey : CsuOp → CsuOp
  | .layer l _ m => .layer l 0 m
  | .scan k => .scan k

/-- The unit that runs a step for a context: the one that the tick program places it on, and for a fenced one a live unit of
its group, to which its stripes and passes are dealt round-robin in ascending unit number, in program order (R118, R368). -/
def Hw.csuRunner (h : Hw) (i : ImageFile) (p c : Nat) : Nat :=
  let home := placedOn (csuPlace i p).1 c
  if !(⟨.csu, home⟩ ∈ h.eng.fenced) then home
  else
    let live := (csuGroup home).filter (fun k => !(⟨.csu, k⟩ ∈ h.eng.fenced))
    let work := (((csuSteps i).filter (fun e => placedOn (csuPlace i e.1).1 c == home)).map (fun e => stripeKey e.2)).eraseDups
    let key := ((csuSteps i).find? (fun e => e.1 == p)).map (fun e => stripeKey e.2)
    nth home live (((work.findIdx? (fun k => some k == key)).getD 0) % live.length)

/-- The berm buffer with a tag that a unit can read: its own, or one that was written to a unit of its group since fenced
(R119, R368). -/
def Hw.bermAt (h : Hw) (c : Nat) (ok : CsuUnit → Bool) : Option Nat :=
  (c :: (csuGroup c).filter (fun k => k != c && decide (⟨.csu, k⟩ ∈ h.eng.fenced))).find? (fun k => ok (h.csu k))

/-- The berm buffer that the pass of a stream reads: it holds the stream's berm with the tag expected, and its unit has begun
to read it (R119). A step serves every stream, so the buffer's stream counts beside the tag (DESIGN CHOICE, log 120). -/
def Hw.bermFor (h : Hw) (c ctx q : Nat) : Option Nat :=
  h.bermAt c (fun u => u.flag == some (bermTag h.ex.tick q) && u.ctx == ctx && u.reading)

/-- Write a berm buffer and set its flag: a consumer that waits for this tag starts (R119, R120). -/
def Hw.setBerm (h : Hw) (b : Berm) : Hw :=
  let u := h.csu b.goes
  let hit := u.waiting == some b.tag
  h.setCsu b.goes { u with flag := some b.tag, berm := b.samples, ctx := b.ctx, released := false, reading := hit, waiting := if hit then none else u.waiting }

/-- A stripe has passed its checks: the berm buffer that it read is released once no other column set reads it, and its unit
`c` hands its own berm on, or keeps it until the consumer's release arrives (R119). -/
def Hw.bermAfter (h : Hw) (c : Nat) (release : Option Nat) (b : Option Berm) : Hw :=
  let h := match release with
    | some k => h.setCsu k { h.csu k with reading := false, flag := none, berm := [], released := true }
    | none => h
  match b with
  | none => h
  | some x => if (h.csu x.goes).released then h.setBerm x else h.setCsu c { h.csu c with held := some x }

/-- The berm that a step hands on, to the unit that runs the stripe that reads it: none where no stripe does (R119). -/
def Hw.bermOut (h : Hw) (i : ImageFile) (s : Stream) (p ctx : Nat) (op : CsuOp) : Option Berm :=
  (bermReaders i s p).head?.map (fun e =>
    { goes := h.csuRunner i e.1 ctx, tag := bermTag h.ex.tick p, ctx := ctx, samples := bermOf i s op })

/-- The berm buffer that a step releases: the one that it has read, after the last column set of its stripe. -/
def bermLeft (i : ImageFile) (s : Stream) (expects : Option Nat) (buf : Option Nat) : Option Nat :=
  match expects with
  | some q => if (bermReaders i s q).all (fun e => stepCovered i s e.1 e.2) then buf else none
  | none => none

/-- The index of the input at which the stripe of a step begins: the berm ends below it (R118). -/
def stripeFirst (i : ImageFile) (s : Stream) (op : CsuOp) : Nat :=
  match op with
  | .layer l _ m => match i.parts.csu[l]? with | some x => inIndex x (stripeSpan x s.rate m).1 | none => 0
  | .scan _ => 0

/-- What a pass that has passed its checks does: its results, and, where it completes its step, the berms. -/
def Hw.csuEnd (h : Hw) (i : ImageFile) (s : Stream) (c p ctx : Nat) (op : CsuOp) (t0 count : Nat) (expects buf : Option Nat)
    (berm : Option (Nat × List (List F16))) (errs : List SumError) : Hw :=
  let t := csuDo h.mem.se i s p op t0 count berm errs
  let h := h.setStream ctx t
  if stepCovered i t p op then h.bermAfter c (bermLeft i t expects buf) (h.bermOut i t p ctx op) else h

/-- CSU_PASS_COMPLETE: a pass of a step ends for one stream, from base position `t0` over `count` positions. One that waits
for its berm, or whose unit still holds a berm that it must hand on first, does not end; one that fails its checks is queued
for replay and hands nothing on (R119, R120, R124). -/
def Hw.csuPass (h : Hw) (c p ctx t0 count : Nat) (errs : List SumError) (chk : PassCheck) : Hw :=
  let u : UnitId := { kind := .csu, index := c }
  if !h.engOn || decide (32 ≤ c) || u ∈ h.eng.fenced || (h.csu c).waiting.isSome then h
  else
    match h.ex.image, h.stream ctx with
    | some i, some s =>
      match (tickStep i p).map TickStep.op with
      | some (StepOp.csu _ op expects) =>
        let n := (unitOf i p).getD 0
        let buf := expects.bind (h.bermFor c ctx)
        if !s.synth || decide (c ≠ h.csuRunner i p ctx) || (expects.isSome && buf.isNone) || h.replayWaits n (fun r => r.repeats i p ctx)
          || stepCovered i s p op || !csuReady i s p op t0 count || ((h.csu c).held.isSome && !(bermReaders i s p).isEmpty) then h
        else
          let berm := buf.map (fun k => (stripeFirst i s op, (h.csu k).berm))
          h.checked u u n none chk (csuOk h.mem.se i s op t0 count berm errs) (fun a => a.csuEnd i s c p ctx op t0 count expects buf berm errs)
      | _ => h
    | _, _ => h

def execCsuPassComplete (csu step ctx t0 count : Nat) (errs : List SumError) (chk : PassCheck) (s : State) : Host.Outcome State Fault Refusal :=
  .next { s with hw := s.hw.csuPass csu step ctx t0 count errs chk }

/-- BERM_CONSUME: the consumer starts its pass when the flag carries the expected tag; while they differ it waits (R119, R120). -/
def Hw.bermConsumeNow (h : Hw) (c : Nat) (tag : BitVec 32) : Hw :=
  if !h.engOn || decide (32 ≤ c) then h
  else
    match h.bermAt c (fun u => u.flag == some tag) with
    | some k => let h := h.setCsu c { h.csu c with waiting := none }
                h.setCsu k { h.csu k with reading := true }
    | none => h.setCsu c { h.csu c with waiting := some tag }

def execBermConsume (csu : Nat) (tag : BitVec 32) (s : State) : Host.Outcome State Fault Refusal :=
  .next { s with hw := s.hw.bermConsumeNow csu tag }

/-- BERM_RELEASE: the producer writes the berm it holds once the consumer's release has arrived (R119). -/
def Hw.bermReleaseNow (h : Hw) (c : Nat) : Hw :=
  if !h.engOn || decide (32 ≤ c) then h
  else
    match (h.csu c).held with
    | some b => if (h.csu b.goes).released then (h.setCsu c { h.csu c with held := none }).setBerm b else h
    | none => h

def execBermRelease (csu : Nat) (s : State) : Host.Outcome State Fault Refusal := .next { s with hw := s.hw.bermReleaseNow csu }

/-! ### Sample Lanes (R125 to R135) -/

/-- The input of sample `k`: the values of the last Conv-Scan Unit layer at its position, or without one the conditioning. -/
def laneInput (i : ImageFile) (s : Stream) (k : Nat) : List F16 :=
  match i.parts.csu.getLast? with
  | some l => (List.range l.outCh).map (fun c => planarAt (tget [] s.work.layers (i.parts.csu.length - 1)) (layerN l s.rate) c k)
  | none => s.bank.cond.values

/-- The input of the stream's next sample has been delivered (R134). -/
def inputReady (i : ImageFile) (s : Stream) : Bool :=
  match i.parts.csu.getLast? with
  | some l => layerAt i s (i.parts.csu.length - 1) l s.work.lane.sample
  | none => true

/-- The context may issue its next step: an issuing slot, a run to synthesise, no step in flight, samples left. -/
def eligible (i : ImageFile) (s : Stream) : Bool :=
  s.synth && !s.work.lane.inFlight && decide (s.work.lane.sample < s.n) && (decide (0 < s.work.lane.step) || inputReady i s)

/-- Issuing contexts of a lane with their slots. -/
def Hw.laneSlots (h : Hw) (l : Nat) : List (Nat × Nat × Stream) :=
  h.ctxs.filterMap (fun e => match e.2.lane with
    | some x => if x.lane = l ∧ x.mode = .issuing then some (x.slot, e.1, e.2) else none
    | none => none)

/-- Round-robin: the eligible context whose slot comes first after the slot that issued last (R134). -/
def Hw.nextIssue (h : Hw) (i : ImageFile) (l : Nat) : Option (Nat × Nat × Stream) :=
  let last := (h.lane l).lastSlot
  (sortBy (fun e => (e.1 + 47 - last) % 48) ((h.laneSlots l).filter (fun e => eligible i e.2.2))).head?

/-- A gated step that reads S16C state takes a second slot for its lo columns (R132). -/
def twoSlots (i : ImageFile) (p : Nat) : Bool :=
  match laneStep i p with
  | some x => x.gated && x.prec == .s16c
  | none => false

/-- LANE_ISSUE_SLOT: every 12 ACLK; the second slot of an S16C step presents its lo columns, and otherwise the next
eligible context issues its next step, or the slot stays empty (R132, R134). -/
def Hw.laneIssue (h : Hw) (l : Nat) : Hw :=
  let u : UnitId := { kind := .lane, index := l }
  if !h.engOn || decide (24 ≤ l) || u ∈ h.eng.fenced then h
  else
    match h.ex.image with
    | none => h
    | some i =>
      let x := h.lane l
      if x.lo.isSome then h.setLane l { x with slots := x.slots + 1, lo := none }
      else
        match h.nextIssue i l with
        | none => h.setLane l { x with slots := x.slots + 1 }
        | some (slot, c, s) =>
          let p := s.work.lane.step
          (h.setLane l { x with slots := x.slots + 1, lastSlot := slot, flight := x.flight ++ [(c, p)],
                                lo := if twoSlots i p then some c else none }).setStream c
            { s with work := { s.work with lane := { s.work.lane with inFlight := true } } }

def execLaneIssueSlot (lane : Nat) (s : State) : Host.Outcome State Fault Refusal := .next { s with hw := s.hw.laneIssue lane }

/-- An operand of a step; a mask instruction of frame rate takes the index of the frame being played as its step (R127, R193,
R199; DESIGN CHOICE, log 90). -/
def operand (i : ImageFile) (s : Stream) (input : List F16) : OperandRef → F16
  | .input k => nth 0 input k
  | .step p k => nth 0 (nth [] s.work.lane.outs p) k
  | .persistent k => tget 0 s.wbank.sample.persist k
  | .mask n e =>
    let m := nth { prob := 0, rate := .sample } i.parts.tick.masks n
    let step := match m.rate with | .sample => s.idx.toNat + s.work.lane.sample | .frame => s.bank.cond.frame.toNat
    maskValue (maskYes s.seed s.ident (.mask n) e step m.prob)

/-- The weight block of a step (R126). -/
def stepBlock (i : ImageFile) (x : LaneStep) : LaneBlock := nth { weights := 0, bias := 0 } i.parts.blocks x.block

/-- Weights of a row over operands, hi and lo: column X + D + j uses the weight of column X + j (R132). -/
def rowWeights (se : Memory) (i : ImageFile) (x : LaneStep) (row : Nat) : List F16 :=
  let n := x.cols.length + if x.gated then x.width else 0
  let w := seF16s se ((stepBlock i x).weights + 2 * (row * n)) n
  if x.gated && x.prec == .s16c then w ++ w.drop x.cols.length else w

/-- The terms of a row. -/
def rowTerms (se : Memory) (i : ImageFile) (x : LaneStep) (cols : List F16) (row : Nat) : List Exact :=
  List.zipWith prod16 (rowWeights se i x row) cols

/-- The sum of a row from its bias (R59), with the errors of its blocks. -/
def rowSum (se : Memory) (i : ImageFile) (x : LaneStep) (cols : List F16) (errs : List SumError) (row : Nat) : F32 :=
  r59Sum (f16to32 (seF16 se ((stepBlock i x).bias + 2 * row))) (withErrors (errorAt errs row 0) (rowTerms se i x cols row))

/-- The operand columns of a step in logical index order (R127). -/
def stepColumns (i : ImageFile) (s : Stream) (x : LaneStep) (words : List W32) : List F16 :=
  let ops := x.cols.map (operand i s (laneInput i s s.work.lane.sample))
  if !x.gated then ops
  else
    let hi := words.map (fun w => w.extractLsb' 0 16)
    match x.prec with
    | .s16 => ops ++ hi
    | .s16c => ops ++ hi ++ words.map (fun w => w.extractLsb' 16 16)

/-- The recurrence row of a state area: its index and parameters (R147). -/
def areaRec (i : ImageFile) (a : Nat) : Option (Nat × Recurrence) := (recsOf i .lane).find? (fun e => e.2.area == a)

/-- The loop position of the last instruction that names an area (R147). -/
def lastNaming (i : ImageFile) (a : Nat) : Option Nat :=
  ((i.parts.lane.zipIdx.filter (fun e => e.1.gated && e.1.area == a)).getLast?).map (fun e => e.2)

/-- A gated step (R129, R130): the new words, with saturation and non-finite writes. -/
def gatedWords (se : Memory) (i : ImageFile) (s : Stream) (x : LaneStep) (p : Nat) (words : List W32) (errs : List SumError) : List StateWrite :=
  let cols := stepColumns i s x words
  (List.range x.width).map (fun j =>
    let z := rowSum se i x cols errs j
    let c := rowSum se i x cols errs (x.width + j)
    let f := fp32Sigmoid z
    let g := fp32Tanh c
    let h := stateValue x.prec (nth 0 words j)
    let v := fp32Add h (fp32Mul f (fp32Sub g h))
    stateWrite x.prec (imgRbits i) (drawAt s.seed s.ident .lane (p * 256 + j) (s.idx.toNat + s.work.lane.sample)) v)

/-- The drift check of an area at the last sample of the tick (R147 to R149). -/
def areaCheck (i : ImageFile) (s : Stream) (x : LaneStep) (p : Nat) (words : List W32) (sat : Bool) : List W32 × Stream :=
  let before := decide (x.area ∈ s.work.lane.saturated)
  if s.work.lane.sample + 1 = s.n ∧ lastNaming i x.area = some p then
    match areaRec i x.area with
    | some (k, r) =>
      let chk := checkPoint { r with prec := x.prec } words (sat || before)
      (chk.1, s.trip k chk.2)
    | none => (words, s)
  else (words, if sat && !before then { s with work := { s.work with lane := { s.work.lane with saturated := x.area :: s.work.lane.saturated } } } else s)

/-- Persistent operands that the loop's steps mark, written after the last step of a sample (R127). -/
def keepPersistent (i : ImageFile) (s : Stream) (outs : List (List F16)) : Table F16 :=
  i.parts.lane.zipIdx.foldl (fun t e => match e.1.persist with
    | some b => (nth [] outs e.2).zipIdx.foldl (fun t v => tput 0 t (b + v.2) v.1) t
    | none => t) s.wbank.sample.persist

/-- The outputs of a step are written back; after the loop's last step the next sample begins (R127, R131). -/
def stepDone (i : ImageFile) (s : Stream) (p : Nat) (out : List F16) (head : Option F32) : Stream :=
  let outs := s.work.lane.outs ++ [out]
  let s := match head with
    | some y => ({ s with work := { s.work with samples := s.work.samples ++ [y] } }).flagNan (val32 y).nonfinite
    | none => s
  let l := s.work.lane
  if p + 1 < i.parts.lane.length then
    { s with work := { s.work with lane := { l with step := p + 1, outs := outs, inFlight := false } } }
  else
    { s with
      work := { s.work with lane := { l with sample := l.sample + 1, step := 0, outs := [], inFlight := false } }
      wbank := { s.wbank with sample := { s.wbank.sample with persist := keepPersistent i s outs } } }

/-- Row `j` of an affine step in FP32: sum, function, residual (R110, R131). -/
def affineRow (se : Memory) (i : ImageFile) (s : Stream) (x : LaneStep) (cols : List F16) (errs : List SumError) (j : Nat) : F32 :=
  let y := applyFn x.fn (rowSum se i x cols errs j)
  match x.residual with
  | some rs => fp32Add y (f16to32 (match rs[j]? with | some o => operand i s (laneInput i s s.work.lane.sample) o | none => 0))
  | none => y

/-- A step reaches its state write and writeback (R127, R129 to R131). -/
def stepDo (se : Memory) (i : ImageFile) (s : Stream) (x : LaneStep) (p : Nat) (errs : List SumError) : Stream :=
  if x.gated then
    let words := recWords s.wbank.sample.areas x.area x.width
    let ws := gatedWords se i s x p words errs
    let sat := ws.any (fun w => w.sat)
    let r := areaCheck i ((s.flagSat sat).flagNan (ws.any (fun w => w.nonfinite))) x p (ws.map (fun w => w.word)) sat
    let s := { r.2 with wbank := { r.2.wbank with sample := { r.2.wbank.sample with areas := tput [] r.2.wbank.sample.areas x.area r.1 } } }
    stepDone i s p (r.1.map (fun w => w.extractLsb' 0 16)) none
  else
    let cols := stepColumns i s x []
    let ys := (List.range x.width).map (affineRow se i s x cols errs)
    let out := ys.map f32to16
    stepDone i (s.flagNan (out.any (fun v => (val16 v).nonfinite))) p out (if x.head then some (nth 0 ys 0) else none)

/-- The residue test of every block of every row of the step, and of the products by M1 and M2 of the draws of its state writes
and masks, whose errors stand in columns above 0 (R124, R131, R197). An error of such a product that its residue does not
show is left out (DESIGN CHOICE, log 95). -/
def stepOk (se : Memory) (i : ImageFile) (s : Stream) (x : LaneStep) (errs : List SumError) : Bool :=
  let draws := x.gated || x.cols.any (fun c => match c with | .mask _ _ => true | _ => false)
  let cols := stepColumns i s x (recWords s.wbank.sample.areas x.area x.width)
  (List.range (if x.gated then 2 * x.width else x.width)).all (fun j => blocksOk (errorAt errs j 0) (rowTerms se i x cols j))
  && (!draws || errs.all (fun e => e.col == 0 || decide (e.err % 3 = 0)))

/-- LANE_STEP_WRITEBACK: the oldest step in the lane's pipeline reaches its writeback. A rejected step writes nothing and
is issued again in the context's next slot, from unchanged operands; the reissue is counted (R133). -/
def Hw.laneWriteback (h : Hw) (l : Nat) (errs : List SumError) (chk : PassCheck) : Hw :=
  let u : UnitId := { kind := .lane, index := l }
  if !h.engOn || decide (24 ≤ l) then h
  else
    let x := h.lane l
    match x.flight, h.ex.image with
    | (c, p) :: rest, some i =>
      if x.lo == some c then h
      else
        match h.stream c, laneStep i p with
        | some s, some st =>
          let h := h.setLane l { x with flight := rest }
          if !s.synth || !s.work.lane.inFlight || decide (s.work.lane.step ≠ p) then h
          else
            let bad := match chk with
              | .fault => true
              | .doubleBit _ => true
              | _ => !stepOk h.mem.se i s st errs
            let h := if bad then
                ((h.setLane l { h.lane l with reissues := x.reissues + 1 }).reissued u p).setStream c
                  { s with work := { s.work with lane := { s.work.lane with inFlight := false } } }
              else h
            h.checked u u p (some c) chk (stepOk h.mem.se i s st errs) (fun a => a.setStream c (stepDo a.mem.se i s st p errs))
        | _, _ => h.setLane l { x with flight := rest }
    | _, _ => h

def execLaneStepWriteback (lane : Nat) (errs : List SumError) (chk : PassCheck) (s : State) : Host.Outcome State Fault Refusal :=
  .next { s with hw := s.hw.laneWriteback lane errs chk }

/-! ### The rebuild (R150 to R154) -/

/-- Sample-rate scans whose operand layers are complete and that have not run yet. -/
def scansDue (i : ImageFile) (done : Nat) (have0 : Table Bytes) : List (Nat × Recurrence) :=
  (recsOf i .sample).filter (fun e => decide (e.2.aLayer < done) && decide (e.2.uLayer < done) && !(have0.any (fun x => x.1 == e.1)))

/-- What a rebuild has: the carried state so far, the drift trips of its chunk-end writes by recurrence, and whether a write
saturated or a result was not finite (R57, R62, R63, R147). -/
structure Rebuilt where
  part : SamplePart
  trips : List Nat
  sat : Bool
  nan : Bool

/-- A scan of a rebuilt tick. -/
def rebuildScan (i : ImageFile) (s : Stream) (p : SamplePart) (idx : Nat) (acc : RunIn × Rebuilt) (k : Nat × Recurrence) : RunIn × Rebuilt :=
  let x := scanRun i s k.1 k.2 [] (recWords p.scans k.1 k.2.channels) acc.1.layers idx
  ({ acc.1 with scans := tput [] acc.1.scans k.1 (x.polder (srcN i s.rate (.scan k.1))) },
   { part := { acc.2.part with scans := tput [] acc.2.part.scans k.1 x.words }, trips := acc.2.trips ++ List.replicate x.trips k.1
     sat := acc.2.sat || x.sat, nan := acc.2.nan || x.nonfinite })

/-- A layer of a rebuilt tick, and the scans that can run after it. -/
def rebuildLayer (se : Memory) (i : ImageFile) (s : Stream) (p : SamplePart) (idx : Nat) (acc : RunIn × Rebuilt) (e : CsuLayer × Nat) : RunIn × Rebuilt :=
  let hist := tget [] p.hist e.2
  let n := layerN e.1 s.rate
  let b := layerPut se s.rate acc.1 (tapSource i s.rate acc.1 hist none e.1) e.1 [] (List.range e.1.outCh) 0 n []
  let bad := (List.range e.1.outCh).any (fun o => (planarRun b n o).any (fun v => (val16 v).nonfinite))
  let r := { acc.1 with layers := tput [] acc.1.layers e.2 b }
  let q := { acc.2 with part := { acc.2.part with hist := tput [] acc.2.part.hist e.2 (histAfter i s.rate r hist e.1) }, nan := acc.2.nan || bad }
  (scansDue i (e.2 + 1) r.scans).foldl (rebuildScan i s p idx) (r, q)

/-- One played tick of the rebuild: every layer in image order, each scan as soon as its operands are complete, from
histories and scan states to the next. -/
def rebuildTick (se : Memory) (i : ImageFile) (s : Stream) (cond : List F16) (fifth idx : Nat) (x : Rebuilt) : Rebuilt :=
  ((i.parts.csu.zipIdx).foldl (rebuildLayer se i s x.part idx) ({ cond := cond, fifth := fifth, layers := [], scans := [] }, x)).2

/-- The rebuild over the conditioning of the utterance: spill codes place the runs (R151, R181). `f` is the frame in play
and `fifth` the next fifth of it. The reserved code 3 of an imported map counts as a lost fifth (DESIGN CHOICE, log 98). -/
def rebuildTicks (se : Memory) (i : ImageFile) (s : Stream) (frames : List (List F16)) : List (BitVec 2) → Nat → Nat → Nat → Rebuilt → Rebuilt
  | [], _, _, _, x => x
  | code :: rest, f, fifth, idx, x =>
    let next := idx + s.n
    if code = 1#2 then rebuildTicks se i s frames rest f fifth next x
    else
      let f := if fifth = 5 then f + 1 else f
      let fifth := if fifth = 5 then 0 else fifth
      let x := if code = 0#2 then rebuildTick se i s (nth [] frames f) fifth idx x else x
      rebuildTicks se i s frames rest f (fifth + 1) next x

/-- REBUILD_COMPLETE: Conv-Scan Unit layers and sample-rate scans stand as service would have left them, and their writes
set the stream's flags and count as check points of the drift monitor (R57, R62, R63, R147 to R149, R151 to R154). -/
def Hw.rebuildDone (h : Hw) (c : Nat) : Hw :=
  if !h.decodes then h
  else
    match h.ex.image, h.stream c with
    | some i, some s =>
      if !s.rebuilding then h
      else
        let b := s.bank
        let x := rebuildTicks h.mem.se i s s.history.frames s.history.spill 0 0 b.utt.uttFirst.toNat
          { part := { b.sample with hist := [], scans := [] }, trips := [], sat := false, nan := false }
        let b := { b with sample := x.part }
        h.setStream c { (x.trips.foldl (fun s k => s.trip k true) ((s.flagSat x.sat).flagNan x.nan)) with rebuilding := false, bank := b, wbank := b }
    | _, _ => h

def execRebuildComplete (ctx : Nat) (s : State) : Host.Outcome State Fault Refusal := .next { s with hw := s.hw.rebuildDone ctx }

end Sys2Proof.Machine
end

