-- ==== Sys2Proof/Machine/LoadCheck.lean ====
section
/-!
DEFINITION. The load checks of a schedule image, by number (R157, R158, R160).
-/
namespace Sys2Proof.Machine

/-! ### Check 1: structure (R157, R158) -/

def imgBytes (i : ImageFile) : Nat := imgUnits i * 4096

/-- The signature section. -/
def sigSection (i : ImageFile) : Option Section := (sections i).find? (fun s => s.kind == 0x0C)

/-- Two byte ranges share no byte. -/
def apart (a n b m : Nat) : Bool := decide (a + n ≤ b) || decide (b + m ≤ a)

/-- Every pair of a list, earlier against later, satisfies `f`. -/
def pairsOk {α : Type} (f : α → α → Bool) : List α → Bool
  | [] => true
  | x :: r => r.all (f x) && pairsOk f r

/-- Placement of one section. -/
def sectionOk (i : ImageFile) (s : Section) : Bool :=
  decide (1 ≤ s.kind) && decide (s.kind ≤ 0x0C) && decide (s.spare = 0) && decide (s.off % 64 = 0) && decide (256 ≤ s.off)
  && decide (s.off + s.len ≤ imgBytes i) && apart s.off s.len (imgDir i) (16 * imgNSec i)

/-- Load check 1. -/
def check1 (i : ImageFile) (region : Nat) : Bool :=
  decide (256 ≤ i.file.length) && decide (imgMagic i = 0x49485349) && decide (256 ≤ imgBytes i) && decide (imgBytes i ≤ region)
  && ((i.file.drop 0x06C).take 148).all (fun b => b == 0)
  && decide (imgRates i < 32) && decide (imgFills i < 4) && decide (imgAlign i < 4)
  && decide (256 ≤ imgDir i) && decide (imgDir i + 16 * imgNSec i ≤ imgBytes i) && decide (imgNSec i ≤ 12)
  && (let ss := sections i
      ss.all (sectionOk i)
      && (List.range 11).all (fun k => decide ((ss.filter (fun s => s.kind == k + 1)).length = 1))
      && decide ((ss.filter (fun s => s.kind == 0x0C)).length ≤ 1)
      && pairsOk (fun a b => apart a.off a.len b.off b.len) ss
      && (match sigSection i with
          | some g => ss.all (fun s => decide (s.off ≤ g.off))
          | none => true))

/-! ### Checks 2 to 6 -/

/-- Load check 2: the ABI major is listed (R393). -/
def check2 (i : ImageFile) (abi : W64) : Bool := decide (imgMajor i < 64) && bitOf abi.toNat (imgMajor i)

/-- The bytes that the image hash covers: the hash field reads as zero and the signature section is left out (R157). -/
def hashedBytes (i : ImageFile) : List Byte :=
  let bs := i.file.take (imgBytes i)
  let bs := bs.take 8 ++ List.replicate 64 0 ++ bs.drop 72
  match sigSection i with
  | some g => bs.take g.off ++ bs.drop (g.off + g.len)
  | none => bs

/-- Load check 3. An uncorrectable line in the image region fails it (R227). -/
def check3 (i : ImageFile) (bad : Bool) : Bool :=
  !bad && decide (imgBytes i ≤ i.file.length) && decide (sha512 (hashedBytes i) = imgHash i)

/-- Load check 4: `blob` is the payload of the configuration blob in use (R398). -/
def check4 (i : ImageFile) (blob : List Byte) : Bool :=
  match sigSection i with
  | none => decide (leField blob 0 1 ≠ 1)
  | some g =>
    let s := (i.file.drop g.off).take g.len
    let k := leField s 0 1
    decide (136 ≤ g.len) && decide (k < 4) && bitOf (leField blob 2 1) k && decide (leField s 1 3 = 0)
    && verifySig (sha512 (hashBytes (imgHash i))) ((s.drop 4).take 132) ((blob.drop (0x40 + 136 * k)).take 133)

/-- Load check 5. -/
def check5 (i : ImageFile) : Bool :=
  decide (1 ≤ imgS i) && decide (imgS i ≤ 1024) && decide (imgGroupLimit i = ceilDiv (imgS i) 5)

/-- Sum of a list. -/
def sumOf (xs : List Nat) : Nat := xs.foldl (· + ·) 0

/-- Work of the replay units of a unit kind: each holds the work of its steps. -/
def unitSums (i : ImageFile) (w : KindWork) : List Nat := i.parts.tick.units.map (fun u => sumOf ((w.steps.drop u.first).take u.count))

/-- Load check 6 (R11, R157, R158): units of different kinds work at the same time, so the steps of each kind sum to at most
the header figure, and those of the kind that works longest to that figure; replay units hold the work of their steps
(DEDUCED, log 100). -/
def check6 (i : ImageFile) : Bool :=
  let p := i.parts.proof
  decide (imgWork i ≤ 1751808) && decide (imgSlack i = 1751808 - imgWork i)
  && p.work.all (fun w => decide (w.steps.length = i.parts.tick.steps.length) && decide (w.units = unitSums i w))
  && pairsOk (fun a b => a.kind != b.kind) p.work
  && decide ((p.work.map (fun w => sumOf w.units)).foldl max 0 = imgWork i)
  && decide ((p.work.map (fun w => sumOf w.steps)).foldl max 0 = imgWork i)

/-! ### Check 7: limits -/

/-- The arithmetic modes: weights and activations that an array multiplies (R4, R68). -/
def modeOk : WFmt → AFmt → Bool
  | .w4, _ => true
  | _, .a4 => false
  | _, _ => true

/-- Frame Engine limits of R36, R43 and R79. -/
def feOk (f : FeTable) : Bool :=
  decide (f.featureMillions ≤ 250) && decide (f.chunk ∈ [64, 128, 256]) && decide (f.allowance % f.chunk = 0)
  && decide (f.allowance ≤ 4096) && decide (f.lookAhead ≤ 255) && decide (f.attnLayers ≤ 8) && decide (f.window ≤ 256)
  && decide (f.kvHeads ≤ 8) && decide (f.headDim = 128) && decide (f.qPerKv ≤ 16) && decide (f.codebooks ≤ 16) && decide (f.tokenBits ≤ 12)
  && f.layers.all (fun l => decide (l.rotation ∈ [64, 128, 256]) && decide (l.reduction % l.rotation = 0)
      && decide (l.group ∈ [32, 64, 128]) && decide (l.reduction % l.group = 0)
      && decide (-32 ≤ l.expOffset) && decide (l.expOffset ≤ 31) && modeOk l.wfmt l.afmt
      && decide (1 ≤ l.reduction) && decide (1 ≤ l.columns))

/-- Offered rate codes. -/
def offered (i : ImageFile) : List Nat := (List.range 5).filter (fun r => bitOf (imgRates i) r)

/-- Layer rate in Hz at a rate code. -/
def layerHz (l : CsuLayer) (rate : Nat) : Nat := nth 0 l.rateHz rate

/-- Input of a layer: channels and rate, of an earlier layer, a sample-rate recurrence or the conditioning (R104, R105). -/
def srcOk (i : ImageFile) (k : Nat) (l : CsuLayer) : Bool :=
  let mul := if l.transposed then l.dil else 1
  match l.src with
  | .conditioning =>
    l.transposed && decide (l.dil % 5 = 0) && decide (l.inCh = imgCd i) && (offered i).all (fun r => decide (layerHz l r = 80 * l.dil))
  | .layer m =>
    decide (m < k) && (match i.parts.csu[m]? with
      | some s => decide (s.outCh = l.inCh) && (offered i).all (fun r => decide (layerHz l r = layerHz s r * mul))
      | none => false)
  | .scan n =>
    match i.parts.recs[n]? with
    | some r => decide (r.kind = .sample) && decide (r.channels = l.inCh) && decide (r.uLayer < k) && decide (r.aLayer < k)
        && (match i.parts.csu[r.uLayer]? with
            | some s => (offered i).all (fun c => decide (layerHz l c = layerHz s c * mul))
            | none => false)
    | none => false

/-- Shape limits of a layer (R104). -/
def csuShapeOk (l : CsuLayer) : Bool :=
  (if l.transposed then decide (2 ≤ l.dil) && decide (l.dil ≤ 16) && decide (l.dil ≤ l.kernel) && decide (l.kernel ≤ 4 * l.dil)
   else decide (1 ≤ l.dil) && decide (l.dil ≤ 8192))
  && decide (1 ≤ l.kernel) && decide (l.kernel ≤ 64)
  && (decide (l.perGroup ∈ [1, 2, 4, 8, 16, 32]) || (decide (0 < l.perGroup) && decide (l.perGroup % 64 = 0)))
  && decide (1 ≤ l.inCh) && decide (l.inCh ≤ 1024) && decide (1 ≤ l.outCh) && decide (l.outCh ≤ 1024)
  && decide (l.inCh % l.perGroup = 0) && decide (l.outCh % (l.inCh / l.perGroup) = 0) && decide (layerHist l ≤ 16384)
  && (match l.stripe with
      | some s => decide (s % 64 = 0) && decide (64 ≤ s) && decide (s ≤ 4096) && decide (layerHist l ≤ s)
      | none => true)

/-- A run of binary16 values lies within section 0x0B, at an even offset (R103). -/
def seHolds (i : ImageFile) (off n : Nat) : Bool := decide (off % 2 = 0) && decide (off + 2 * n ≤ (seWeights i).length)

/-- The weights and biases of a layer are in section 0x0B (R103, R158). -/
def csuWeightsOk (i : ImageFile) (l : CsuLayer) : Bool := seHolds i l.weights (l.outCh * (l.perGroup * l.kernel)) && seHolds i l.bias l.outCh

/-- Folds and rates of a layer (R104, R105, R116, R117). -/
def csuRateOk (i : ImageFile) (l : CsuLayer) : Bool :=
  (offered i).all (fun r => decide (0 < layerHz l r) && decide (layerHz l r % 400 = 0) && decide (layerHz l r ≤ rateHz r))
  && l.folds.all (fun f => decide (f.2 ∈ [1, 2, 4, 8, 16]) && (decide (f.2 = 1) || decide (l.outCh * f.2 ≤ 64))
      && decide (layerN l f.1 % f.2 = 0))

/-- The residual input: an earlier layer of the same shape and rate (R104). -/
def residualOk (i : ImageFile) (k : Nat) (l : CsuLayer) : Bool :=
  match l.residual with
  | none => true
  | some m => decide (m < k) && (match i.parts.csu[m]? with
      | some s => decide (s.outCh = l.outCh) && (offered i).all (fun r => decide (layerHz s r = layerHz l r))
      | none => false)

/-- The CSU layer table. -/
def csuTableOk (i : ImageFile) : Bool :=
  (i.parts.csu.zipIdx).all (fun e => csuShapeOk e.1 && csuWeightsOk i e.1 && csuRateOk i e.1 && residualOk i e.2 e.1 && srcOk i e.2 e.1)

/-- The recurrence table (R61, R121, R145, R147, R193). -/
def recTableOk (i : ImageFile) : Bool :=
  decide (i.parts.recs.length ≤ 4095)
  && i.parts.recs.all (fun r => decide (1 ≤ r.channels) && decide (r.channels ≤ 65536)
      && (match r.kind with
          | .feature => decide (r.chunk = i.parts.fe.chunk)
          | .sample => decide (r.chunk ∈ [64, 128, 256]) && (match i.parts.csu[r.aLayer]?, i.parts.csu[r.uLayer]? with
              | some a, some u => decide (a.outCh = r.channels) && decide (u.outCh = r.channels)
                  && (offered i).all (fun c => decide (layerHz a c = layerHz u c))
              | _, _ => false)
          | .lane => decide (r.area < 8)
          | .frame => true))
  && pairsOk (fun a b => a.kind != .lane || b.kind != .lane || a.area != b.area) i.parts.recs

/-- Operand columns of a step name what the sample has at that position (R127, R141, R199). -/
def columnOk (i : ImageFile) (p : Nat) : OperandRef → Bool
  | .input k => match i.parts.csu.getLast? with | some l => decide (k < l.outCh) | none => decide (k < imgCd i)
  | .step q k => decide (q < p) && (match i.parts.lane[q]? with | some s => decide (k < s.width) | none => false)
  | .persistent k => decide (k < 256)
  | .mask n e => decide (e < 65536) && decide (n < i.parts.tick.masks.length)

/-- The weight block of a step is there, with its rows and biases in section 0x0B (R125, R126, R158). -/
def blockOk (i : ImageFile) (x : LaneStep) (rows cols : Nat) : Bool :=
  match i.parts.blocks[x.block]? with
  | some b => seHolds i b.weights (rows * cols) && seHolds i b.bias rows
  | none => false

/-- Limits of one step instruction (R126, R127, R128). -/
def laneStepOk (i : ImageFile) (p : Nat) (x : LaneStep) : Bool :=
  let n := x.cols.length
  decide (x.block < 8) && x.cols.all (columnOk i p) && decide (1 ≤ x.width)
  && (if x.gated then
        decide (x.area < 8) && decide (x.width ≤ 192) && decide (2 * x.width * (n + x.width) ≤ 98304)
        && blockOk i x (2 * x.width) (n + x.width) && !x.head && x.residual.isNone
        && (match areaRec i x.area with | some r => decide (r.2.channels = x.width) && decide (r.2.prec = x.prec) | none => false)
      else
        decide (x.width ≤ 384) && decide (n ≤ 256) && decide (x.width * n ≤ 98304)
        && blockOk i x x.width n
        && (match x.residual with | some rs => decide (rs.length = x.width) && rs.all (columnOk i p) | none => true))
  && (match x.persist with | some k => decide (k + x.width ≤ 256) | none => true)

/-- Two steps of one area agree in D and precision (R128). -/
def stepsAgree (x y : LaneStep) : Bool :=
  !(x.gated && y.gated && decide (x.area = y.area)) || (decide (x.width = y.width) && decide (x.prec = y.prec))

/-- Gated steps that read S16C state (R132, R138). -/
def longSteps (i : ImageFile) : Nat := (i.parts.lane.filter (fun x => x.gated && x.prec == .s16c)).length

/-- The lane proof of one rate (R138; the lead counts in the chain, DEDUCED, log 24). -/
def laneProofOk (i : ImageFile) (rate : Nat) : Bool :=
  let steps := i.parts.lane.length
  let long := longSteps i
  let lead := i.parts.proof.laneLead
  decide (rateN rate * ceilDiv (imgS i) 24 * (steps + long) + lead ≤ 145982)
  && decide (12 * lead + rateN rate * (36 * (steps - long) + 48 * long) ≤ 1751778)

/-- The lane program. -/
def laneProgramOk (i : ImageFile) : Bool :=
  decide (i.parts.blocks.length ≤ 8) && decide (1 ≤ i.parts.lane.length) && decide (i.parts.lane.length ≤ 64) && (i.parts.lane.zipIdx).all (fun e => laneStepOk i e.2 e.1)
  && pairsOk stepsAgree i.parts.lane && i.parts.lane.any (fun x => x.head) && (offered i).all (laneProofOk i)

/-! ### Check 7: the tick program (R73, R74, R80, R87, R114, R118, R119, R166, R193, R220) -/

/-- The first row of an operand lies in its region. -/
def locOk (l : Loc) (bytes : Nat) : Bool := decide (l.off + bytes ≤ regionSize l.region)

/-- An array pass is a pass of its layer: within the layer and the weight block, from one half of the activation polder to
the other, and within the lock chambers; accumulators come from an earlier pass that hands on the same columns (R67, R74). -/
def arrayPassOk (i : ImageFile) (p t : Nat) (x : ArrayPass) : Bool :=
  decide (x.red ≤ 128) && decide (x.cols ≤ 128) && decide (1 ≤ x.red) && decide (1 ≤ x.cols)
  && decide (x.red0 % x.lay.group = 0) && decide (x.red % x.lay.group = 0) && decide (x.red0 + x.red ≤ x.lay.reduction)
  && decide (x.col0 + x.cols ≤ x.lay.columns)
  && (match x.src.region, x.dst.region with | .half a, .half b => a != b | _, _ => false)
  && decide (x.wOff + x.blockBytes ≤ TileLock.weight.size) && decide (x.sOff + x.sums ≤ TileLock.scale.size)
  && (match x.start with
      | .handed q => decide (q < p) && (match (tickStep i q).map TickStep.op with
          | some (StepOp.tile u _ _ _ op) => u != t && (match opPass i q op with
              | some y => y.hand && decide (y.col0 = x.col0) && decide (y.cols = x.cols)
              | none => false)
          | _ => false)
      | _ => true)

/-- A mask instruction that a Frame Engine step names is one of the image, and its elements have coordinates (R193). -/
def maskOk (i : ImageFile) (m e n : Nat) : Bool := decide (e + n ≤ 65536) && decide (m < i.parts.tick.masks.length)

/-- The recurrence of a number is of a kind. -/
def recIs (i : ImageFile) (r : Nat) (k : RecKind) : Bool :=
  match i.parts.recs[r]? with
  | some x => x.kind == k
  | none => false

/-- A tile operation names what the other sections define, and stands in a stage that has it (R80). The step of a chunk
recurrence holds every row of the section (DESIGN CHOICE, log 76). -/
def tileOpOk (i : ImageFile) (p t stage first count : Nat) (op : TileOp) : Bool :=
  let fe := i.parts.fe
  match op with
  | .array .. => (match opPass i p op with | some x => arrayPassOk i p t x | none => false) && decide (stage ≤ 6)
  | .vector fn half _ _ dst n => locOk dst ((if writesHalf fn half then 2 else 4) * n) && decide (stage ≤ 6)
      && (match fn with | .mask m e => maskOk i m e n | _ => true)
  | .frameInput .. => decide (stage = 2)
  | .tokenInput .. => decide (stage = 6)
  | .chunkInput _ => decide (stage = 1)
  | .recur r _ _ _ => decide (stage = 3) && recIs i r .frame
  | .chunk r _ _ _ => decide (stage = 1) && recIs i r .feature && decide (first = 0) && decide (fe.allowance ≤ count)
  | .featureOut _ _ => decide (stage = 1)
  | .stateWrite r => decide (stage = 7) && recIs i r .frame
  | .kvWrite l _ _ => decide (stage = 7) && decide (l < fe.attnLayers)
  | .attend l hd _ _ _ _ => decide (stage = 3) && decide (l < fe.attnLayers) && decide (hd < fe.kvHeads * fe.qPerKv)
  | .sample cb _ => decide (stage = 5) && decide (cb < fe.codebooks)
  | .condition _ => decide (stage = 6)

/-- The operation reads weights of a version: of an array, or of an embedding table (R81, R212). -/
def readsWeights (i : ImageFile) : TileOp → Bool
  | .array .. => true
  | .frameInput .. => decide (0 < i.parts.fe.codebooks)
  | .tokenInput .. => decide (0 < i.parts.fe.codebooks)
  | _ => false

/-- Stage 1 serves the chunks, the later stages the streams of the phase group; a step that reads weights serves the rows of
one version (R80, R92, R94). -/
def serveOk (i : ImageFile) (stage : Nat) (sv : Serve) (op : TileOp) : Bool :=
  match sv with
  | .chunks v => stage == 1 && decide (v < trunkSlots i)
  | .rows => stage != 1 && !readsWeights i op
  | .trunk v => stage != 1 && decide (v < trunkSlots i)
  | .expert k => stage != 1 && decide (k < imgGroupLimit i)

/-- Stripes of a layer, at the largest run of the offered rates (R118). -/
def stripesOf (i : ImageFile) (l : CsuLayer) : Nat :=
  match l.stripe with
  | some s => (offered i).foldl (fun a r => max a (ceilDiv (layerN l r) s)) 0
  | none => 1

/-- The stripe of a step's layer that ends where a stripe begins, at a rate: the berm of a step above another (R118). -/
def bermLines (rate : Nat) (x y : CsuLayer) (m : Nat) : Bool :=
  let a := stripeSpan x rate m
  let b := stripeSpan y rate (m - 1)
  decide (a.1 = a.2) || decide (b.2 = inIndex x a.1)

/-- A step that expects a berm stands above stripe 0; the step that it names is earlier, of the stripe below of its layer's
input, and hands it samples enough; no two stripes read one berm (R118, R119). -/
def bermOk (i : ImageFile) (p : Nat) (units : List Nat) (l m q : Nat) : Bool :=
  decide (0 < m) && decide (q < p) && (match i.parts.csu[l]?, (tickStep i q).map TickStep.op with
    | some x, some (StepOp.csu _ (.layer k _ n) _) => x.src == .layer k && decide (n + 1 = m) && (match i.parts.csu[k]? with
        | some y => (match y.stripe with | some s => decide (layerHist x ≤ s) | none => false) && (offered i).all (fun r => bermLines r x y m)
        | none => false)
    | _, _ => false)
  && (csuSteps i).all (fun e => (csuPlace i e.1).2 != some q || ((csuPlace i e.1).1 == units && (match e.2 with | .layer k _ n => k == l && n == m | .scan _ => false)))

/-- A Conv-Scan Unit step names a column set and stripe of a layer, or a sample-rate recurrence, and units that exist. The
column sets of a stripe stand on the same units, and above stripe 0 of a striped input they expect the same berm (R114, R118,
R119). -/
def csuStepOk (i : ImageFile) (p : Nat) (units : List Nat) (op : CsuOp) (expects : Option Nat) : Bool :=
  decide (units ≠ []) && units.all (fun u => decide (u < 32))
  && (match op with
      | .layer l set m => (match i.parts.csu[l]? with
          | some x => decide (set < layerSets x) && decide (m < stripesOf i x)
              && (match expects with | some q => bermOk i p units l m q | none => true)
          | none => false)
          && (csuSteps i).all (fun e => stripeKey e.2 != .layer l 0 m || csuPlace i e.1 == (units, expects))
      | .scan k => recIs i k .sample && expects.isNone)

/-- The steps of a source whose samples a position below `hi` may be. -/
def sourceBefore (i : ImageFile) (p rate hi : Nat) (src : LayerSrc) : Bool :=
  (csuSteps i).all (fun e => match src, e.2 with
    | .layer k, .layer n _ m => k != n || (match i.parts.csu[k]? with
        | some y => decide (hi ≤ (stripeSpan y rate m).1) || decide (e.1 < p)
        | none => true)
    | .scan k, .scan n => k != n || decide (e.1 < p)
    | _, _ => true)

/-- The steps that give a Conv-Scan Unit step its input and residual stand before it (R164). -/
def csuOrderOk (i : ImageFile) (p : Nat) (op : CsuOp) : Bool :=
  (offered i).all (fun r => match op with
    | .layer l _ m => (match i.parts.csu[l]? with
        | some x =>
          let b := stripeSpan x r m
          sourceBefore i p r (inIndex x (b.2 - 1) + 1) x.src && (match x.residual with | some k => sourceBefore i p r b.2 (.layer k) | none => true)
        | none => true)
    | .scan k => (match i.parts.recs[k]? with
        | some x => [x.aLayer, x.uLayer].all (fun l => match i.parts.csu[l]? with | some y => sourceBefore i p r (layerN y r) (.layer l) | none => true)
        | none => true))

/-- The stages of the sample polder stand in the program once each and in order, behind every Conv-Scan Unit step (R164). -/
def sampleOrderOk (i : ImageFile) : Bool :=
  let at0 (s : SampleStage) : List Nat := (i.parts.tick.steps.zipIdx.filter (fun e => e.1.op == .sample s)).map Prod.snd
  match at0 .lanes, at0 .shaper, at0 .extractor with
  | [a], [b], [c] => decide (a < b) && decide (b < c) && (csuSteps i).all (fun e => decide (e.1 < a))
  | _, _, _ => false

/-- One step of the tick program. -/
def tickStepOk (i : ImageFile) (p : Nat) (x : TickStep) : Bool :=
  match x.op with
  | .tile t sv first count op => decide (t < 128) && decide (1 ≤ x.stage) && decide (x.stage ≤ 7) && serveOk i x.stage sv op && decide (1 ≤ count)
      && tileOpOk i p t x.stage first count op
  | .csu units op expects => csuStepOk i p units op expects && csuOrderOk i p op
  | .swap l => decide (l < i.parts.tick.locks)
  | .sample _ => true

/-! ### What the steps read and write (R74, R80, R163) -/

/-- Bytes of a tile's SRAM that an operand takes: `bytes` at `base` and every `stride` above it, in `rows` rows. -/
structure Access where
  base : Nat
  stride : Nat
  bytes : Nat
  rows : Nat
  deriving DecidableEq, Repr

/-- Two accesses share a byte. -/
def Access.meets (a b : Access) : Bool :=
  (List.range a.rows).any (fun r => (List.range b.rows).any (fun q =>
    decide (a.base + a.stride * r < b.base + b.stride * q + b.bytes) && decide (b.base + b.stride * q < a.base + a.stride * r + a.bytes)))

/-- Every byte of `a` is one of `b`. -/
def Access.within (a b : Access) : Bool :=
  (List.range a.rows).all (fun r => decide (a.bytes = 0) || (List.range b.rows).any (fun q =>
    decide (b.base + b.stride * q ≤ a.base + a.stride * r) && decide (a.base + a.stride * r + a.bytes ≤ b.base + b.stride * q + b.bytes)))

/-- The access of an operand with `bytes` a row. -/
def locAccess (l : Loc) (bytes rows : Nat) : Access := { base := regionBase l.region + l.off, stride := l.stride, bytes := bytes, rows := rows }

/-- The vector operation has two operands. -/
def twoOperands : VecFn → Bool
  | .add => true
  | .sub => true
  | .mul => true
  | .min => true
  | .max => true
  | .div => true
  | .rmsnorm _ => true
  | .compare _ => true
  | .select _ => true
  | .selectGe _ => true
  | .dot => true
  | _ => false

/-- Channels of a recurrence. -/
def recChannels (i : ImageFile) (k : Nat) : Nat := match i.parts.recs[k]? with | some r => r.channels | none => 0

/-- Bytes of an activation row of an array pass. -/
def rowBytes (l : FeLayer) : Nat :=
  if l.codes then (if l.afmt = .a4 then l.reduction / 2 else l.reduction) + l.reduction / l.group else 2 * l.reduction

/-- What an operation reads of its tile's row data. -/
def opReads (i : ImageFile) (rows : Nat) (op : TileOp) : List Access :=
  let fe := i.parts.fe
  match op with
  | .array l src dst _ _ col0 cols _ _ start _ _ =>
    (match i.parts.fe.layers[l]? with
    | some x => [locAccess src (rowBytes x) rows] ++ (match x.smooth with | some s => [locAccess s (2 * x.reduction) 1] | none => [])
    | none => []) ++ (if start = .kept then [locAccess { dst with off := dst.off + 4 * col0 } (4 * cols) rows] else [])
  | .vector fn half a b _ n =>
    let w := if readsHalf fn half then 2 else 4
    (match fn with | .mask _ _ => [] | _ => [locAccess a (w * n) rows]) ++ (if twoOperands fn then [locAccess b (w * n) rows] else [])
    ++ (match vecSelector fn with | some c => [locAccess c (w * n) rows] | none => [])
  | .frameInput _ tb w _ _ => if fe.codebooks = 0 then [] else [locAccess tb (2 * w) (fe.codebooks * 2 ^ fe.tokenBits)]
  | .tokenInput tb w _ => if fe.codebooks = 0 then [] else [locAccess tb (2 * w) (fe.codebooks * 2 ^ fe.tokenBits)]
  | .chunkInput _ => []
  | .recur k a u _ => [locAccess a (4 * recChannels i k) rows, locAccess u (4 * recChannels i k) rows]
  | .chunk k a u _ => [locAccess a (2 * recChannels i k) rows, locAccess u (2 * recChannels i k) rows]
  | .featureOut src w => [locAccess src (2 * w) rows]
  | .stateWrite _ => []
  | .kvWrite _ k v => [locAccess k (2 * fe.kvHeads * fe.headDim) rows, locAccess v (2 * fe.kvHeads * fe.headDim) rows]
  | .attend _ _ q k v _ =>
    [locAccess q (2 * fe.headDim) rows, locAccess k (2 * fe.kvHeads * fe.headDim) rows, locAccess v (2 * fe.kvHeads * fe.headDim) rows]
  | .sample _ z => [locAccess z (4 * 2 ^ fe.tokenBits) rows]
  | .condition src => [locAccess src (2 * imgCd i) rows]

/-- What an operation writes of its tile's row data. -/
def opWrites (i : ImageFile) (rows : Nat) (op : TileOp) : List Access :=
  let fe := i.parts.fe
  match op with
  | .array _ _ dst _ _ col0 cols _ _ _ hand _ => if hand then [] else [locAccess { dst with off := dst.off + 4 * col0 } (4 * cols) rows]
  | .vector fn half _ _ dst n =>
    let n := match fn with | .sum => 1 | .dot => 1 | _ => n
    [locAccess dst ((if writesHalf fn half then 2 else 4) * n) rows]
  | .frameInput feat _ w emb fb => [locAccess feat (2 * outWidth i) rows, locAccess emb (2 * w * fe.codebooks) rows, locAccess fb 1024 rows]
  | .tokenInput _ w emb => [locAccess emb (2 * w * fe.codebooks) rows]
  | .chunkInput dst => [locAccess dst (2 * imgFw i) rows]
  | .recur k _ _ dst => [locAccess dst (2 * recChannels i k) rows]
  | .chunk k _ _ dst => [locAccess dst (2 * recChannels i k) rows]
  | .attend _ _ _ _ _ dst => [locAccess dst (2 * fe.headDim) rows]
  | _ => []

/-- Two steps serve no stream in common. -/
def servesApart (a b : Serve) : Bool :=
  match a, b with
  | .trunk v, .trunk w => v != w
  | .expert v, .expert w => v != w
  | .chunks v, .chunks w => v != w
  | _, _ => false

/-- The steps of one place on one tile do not touch what one of them writes: they can end in any order (R80). -/
def placesApart (i : ImageFile) (a b : TickStep) : Bool :=
  match a.op, b.op with
  | .tile t sv f n x, .tile u sw g m y =>
    t != u || a.place != b.place || (servesApart sv sw && f == g)
    || ((opWrites i n x).all (fun w => (opReads i m y ++ opWrites i m y).all (fun r => !w.meets r))
        && (opWrites i m y).all (fun w => (opReads i n x).all (fun r => !w.meets r)))
  | _, _ => true

/-- The Frame Engine steps stand in order: places never fall along the program, and a later stage has a later place (R80). -/
def stagesOk (a b : TickStep) : Bool :=
  match a.op, b.op with
  | .tile .., .tile .. => decide (a.place ≤ b.place) && decide (a.stage ≤ b.stage) && (decide (a.stage = b.stage) || decide (a.place < b.place))
  | _, _ => true

/-- The weights and scales of an array step come from fills of the version that it serves, into the chambers in use at the
step: no step reads what an earlier tick left in a lock (R73, R92, R94, R166). -/
def fillsMatch (i : ImageFile) (p t : Nat) (sv : Serve) (op : TileOp) : Bool :=
  let base : PumpBase := match sv with
    | .chunks v => .chunkTrunk v
    | .rows => .space
    | .trunk v => .trunk v
    | .expert k => .expert k
  match op with
  | .array .. => [TileLock.weight, .scale].all (fun k =>
      let l := tileLock t k
      let n := swapsBefore i l p
      let fills := i.parts.pumps.filter (fun x => (pumpLock i.parts.tick.aux x.desc).map LockPlace.num == some l && decide (swapsBefore i l x.step + 1 = n))
      !fills.isEmpty && fills.all (fun x => x.base == base && (k != .weight || (match x.layer with | some y => decide (y < i.parts.fe.layers.length) | none => false))))
  | _ => !readsWeights i op || i.parts.pumps.any (fun x => x.base == base && decide (pumpDstSpace x.desc = 2) && decide (pumpDstField x.desc / tileSize = t))

/-- Every row below a limit has a step of an operation. -/
def rowsCovered (i : ImageFile) (limit : Nat) (f : Nat → Serve → TileOp → Bool) : Bool :=
  (List.range limit).all (fun r => i.parts.tick.steps.any (fun x => match x.op with
    | .tile _ sv first count op => f x.stage sv op && decide (first ≤ r) && decide (r < first + count)
    | _ => false))

/-- Every row of the phase group has a step of an operation, whatever trunk version its stream has bound. -/
def groupCovered (i : ImageFile) (f : Nat → TileOp → Bool) : Bool :=
  (List.range (trunkSlots i)).all (fun v => rowsCovered i (imgGroupLimit i) (fun st sv op => (sv == .rows || sv == .trunk v) && f st op))

/-- Every row of the admitted chunks has a step of an operation, whatever trunk version runs its chunk. -/
def chunksCovered (i : ImageFile) (f : TileOp → Bool) : Bool :=
  (List.range (trunkSlots i)).all (fun v => rowsCovered i i.parts.fe.allowance (fun _ sv op => sv == .chunks v && f op))

/-- A layer that a step of one rank runs has a step of every rank, for every row (R92, R94). -/
def ranksCovered (i : ImageFile) : Bool :=
  i.parts.tick.steps.all (fun x => match x.op with
    | .tile _ sv _ _ (.array l _ _ _ _ _ _ _ _ _ _ _) =>
      let here (op : TileOp) : Bool := match op with | .array k _ _ _ _ _ _ _ _ _ _ _ => k == l | _ => false
      (match sv with
      | .trunk _ => groupCovered i (fun _ op => here op)
      | .chunks _ => chunksCovered i here
      | .expert _ => (List.range (imgGroupLimit i)).all (fun k => rowsCovered i (imgGroupLimit i) (fun _ sv op => sv == .expert k && here op))
      | .rows => true)
    | _ => true)

/-- The program does what R80 asks of it for every stream: frame inputs, token heads, tokens of every codebook, the
conditioning, state and key/value writes, and the feature section over the allowance. -/
def programWhole (i : ImageFile) : Bool :=
  let fe := i.parts.fe
  groupCovered i (fun _ op => match op with | .condition _ => true | _ => false)
  && groupCovered i (fun _ op => match op with | .frameInput .. => true | _ => false)
  && (decide (fe.codebooks = 0) || groupCovered i (fun st op => st == 4 && (match op with | .array .. => true | _ => false)))
  && (List.range fe.codebooks).all (fun cb => groupCovered i (fun _ op => match op with | .sample k _ => k == cb | _ => false))
  && (List.range fe.attnLayers).all (fun l => groupCovered i (fun _ op => match op with | .kvWrite k _ _ => k == l | _ => false))
  && (recsOf i .frame).all (fun e => groupCovered i (fun _ op => match op with | .stateWrite k => k == e.1 | _ => false))
  && (recsOf i .feature).all (fun e => chunksCovered i (fun op => match op with | .chunk k _ _ _ => k == e.1 | _ => false))
  && chunksCovered i (fun op => match op with | .featureOut _ _ => true | _ => false)
  && ranksCovered i

/-- Every column set of every stripe of every Conv-Scan Unit layer, and every sample-rate recurrence, has a step. -/
def synthWhole (i : ImageFile) : Bool :=
  let has (op : CsuOp) : Bool := (csuSteps i).any (fun e => e.2 == op)
  (i.parts.csu.zipIdx).all (fun e => (List.range (layerSets e.1)).all (fun s => (List.range (stripesOf i e.1)).all (fun m => has (.layer e.2 s m))))
  && (recsOf i .sample).all (fun e => has (.scan e.1))

/-- Every gated step's area is in the recurrence table, and every lane recurrence has a step (R128, R147). -/
def areasWhole (i : ImageFile) : Bool :=
  (recsOf i .lane).all (fun e => i.parts.lane.any (fun x => x.gated && x.area == e.2.area))

/-- A Pump program: in the form of R220, without host addresses, and clear of every chamber in use at its step (R73, R166). -/
def pumpStepOk (i : ImageFile) (x : PumpStep) : Bool :=
  pumpForm x.desc && decide (pumpClass x.desc = 0) && decide (pumpSrcSpace x.desc < 5) && decide (pumpDstSpace x.desc < 5)
  && decide (x.step < i.parts.tick.steps.length) && fillOk i.parts.tick.aux (fun l => swapsBefore i l x.step) x.desc

/-- Locks of SE SRAM stand there clear of the weights and of each other; one of a lane weight store takes no bytes (R166). -/
def auxOk (i : ImageFile) : Bool :=
  let a := i.parts.tick.aux
  decide (i.parts.tick.locks = 384 + a.length)
  && a.all (fun x => decide (x.2 = 0) || (decide ((seWeights i).length ≤ x.1) && decide (x.1 + 2 * x.2 ≤ 0x4000000)))
  && pairsOk (fun x y => apart x.1 (2 * x.2) y.1 (2 * y.2)) a

/-- Steps, locks, masks and Pump programs. -/
def tickProgramOk (i : ImageFile) : Bool :=
  let t := i.parts.tick
  t.steps.zipIdx.all (fun e => tickStepOk i e.2 e.1) && pairsOk (fun a b => stagesOk a b && placesApart i a b) t.steps
  && t.steps.zipIdx.all (fun e => match e.1.op with | .tile t sv _ _ op => fillsMatch i e.2 t sv op | _ => true)
  && (List.range t.locks).all (fun l => decide ((swapSteps i l).length % 2 = 0)) && auxOk i
  && decide (t.masks.length ≤ 4096) && t.masks.all (fun m => decide (m.prob ≤ 65536))
  && i.parts.pumps.all (pumpStepOk i) && programWhole i && synthWhole i && sampleOrderOk i && areasWhole i

/-- The weighted layers whose weights a kind of version holds. -/
def layersOf (i : ImageFile) (expert : Bool) : List Nat :=
  i.parts.tick.steps.filterMap (fun x => match x.op with
    | .tile _ sv _ _ (.array l _ _ _ _ _ _ _ _ _ _ _) => (match sv with
        | .expert _ => if expert then some l else none
        | _ => if expert then none else some l)
    | _ => none)

/-- The tensor that a layer expects. -/
def layerShape (l : FeLayer) : Shape := { rows := l.reduction, cols := l.columns, group := l.group, rotation := l.rotation, expOffset := l.expOffset }

/-- The weight manifest: a trunk at least, blocks of the whole payload on clusters that exist, and the shapes of the layers that
the tick program runs on versions of its kind (R43, R53, R158, R212). -/
def manifestOk (i : ImageFile) : Bool :=
  i.parts.manifest.any (fun e => !e.expert)
  && i.parts.manifest.all (fun e =>
      let want := (layersOf i e.expert).filterMap (fun l => (i.parts.fe.layers[l]?).map layerShape)
      decide (1 ≤ e.length) && e.blocks.all (fun b => decide (b.1 < 8)) && decide ((e.blocks.map Prod.snd).foldl (· + ·) 0 = e.length)
      && e.shapes.all (fun s => decide (s ∈ want)) && want.all (fun s => decide (s ∈ e.shapes)))

/-- The state directory holds what the other sections make of a record: Frame Engine state, histories, scans and the part of them
that the feature section takes (R139, R154, R158). -/
def stateDirOk (i : ImageFile) : Bool :=
  let d := i.parts.dir
  let recs (f : RecKind → Bool) : Nat := (recsIn i f).foldl (fun n e => n + recBytes e.2) 0
  decide (frameImageBytes i ≤ d.f)
  && decide (i.parts.csu.foldl (fun n l => n + l.inCh * up64 (2 * layerHist l)) 0 ≤ d.hc)
  && decide (recs (fun k => k == .sample || k == .feature) ≤ d.hs) && decide (recs (fun k => k == .feature) ≤ d.hf) && decide (d.hf ≤ d.hs)

/-- Feedback extractors of the offered rates (R171). -/
def extractorsOk (i : ImageFile) : Bool :=
  (offered i).all (fun r => match extractorOf i r with
    | some x => decide (x.matrix.length = 32) && x.matrix.all (fun w => decide (w.length = rateN r)) && decide (x.bias.length = 32)
    | none => false)

/-- Load check 7. -/
def check7 (i : ImageFile) : Bool :=
  let d := i.parts.dir
  feOk i.parts.fe && csuTableOk i && recTableOk i && laneProgramOk i && tickProgramOk i && extractorsOk i && manifestOk i
  && decide (imgRbits i = 3 ∨ imgRbits i = 4) && decide (1 ≤ imgCd i) && decide (imgCd i ≤ 512) && decide (1 ≤ imgFw i) && decide (imgFw i ≤ 256)
  && decide (0x40000 ≤ d.featureArea) && decide (d.featureArea ≤ 0x400000) && decide (d.historyArea ≤ d.featureArea) && stateDirOk i

/-! ### Checks 8 to 11 -/

/-- Bytes of a layer's input and output polder at a rate: planar channels padded to 64 B (R107; DEDUCED, log 25). -/
def layerPolder (l : CsuLayer) (rate : Nat) : Nat :=
  let n := layerN l rate
  let nin := if l.transposed then ceilDiv n l.dil else n
  l.inCh * (ceilDiv (2 * (layerHist l + nin)) 64 * 64) + l.outCh * (ceilDiv (2 * n) 64 * 64)

/-- Bytes of the fixed polders in SE SRAM: 2.125, 2, 1 and 1 MiB (R165). -/
def fixedPolders : Nat := 0x220000 + 0x200000 + 0x100000 + 0x100000

/-- Load check 8. -/
def check8 (i : ImageFile) : Bool :=
  let layers := i.parts.csu.foldl (fun n l => n + (offered i).foldl (fun a r => max a (layerPolder l r)) 0) 0
  decide ((seWeights i).length + layers + fixedPolders ≤ 0x4000000)

/-- Load check 9. -/
def check9 (i : ImageFile) : Bool := decide (imgS i * 2 * recordBytes i + 2 * largestTrunk i ≤ 137438953472)

/-- Units are contiguous ranges of steps that divide the program. -/
def unitsCover : Nat → List ReplayUnit → Option Nat
  | n, [] => some n
  | n, u :: r => if u.first = n ∧ 0 < u.count then unitsCover (n + u.count) r else none

/-- The tile steps of a range of the program, with their places: place, tile, rows and operation. -/
def tileOps (steps : List TickStep) : List (Nat × Nat × Nat × TileOp) :=
  steps.filterMap (fun s => match s.op with | .tile t _ _ n op => some (s.place, t, n, op) | _ => none)

/-- A replay finds what a unit reads as it was: walks the unit's steps on a tile with what they have written, and holds each read
that they have not themselves written first against the unit's later writes, its own among them, and against the writes of other
units, which must stand wholly before or wholly behind the unit (R74, R163). -/
def inputsKept (i : ImageFile) (lo hi : Nat) (others : List (Nat × Access)) : List Access → List (Nat × TileOp) → Bool
  | _, [] => true
  | done, (n, op) :: r =>
    let later := (((n, op) :: r).flatMap (fun e => opWrites i e.1 e.2))
    (opReads i n op).all (fun x => done.any x.within
      || (later.all (fun w => !w.meets x) && others.all (fun w => !w.2.meets x || decide (w.1 < lo) || decide (hi < w.1))))
    && inputsKept i lo hi others (done ++ opWrites i n op) r

/-- A replay unit meets R163 on a tile. -/
def unitOk (i : ImageFile) (u : ReplayUnit) (t : Nat) : Bool :=
  let steps := i.parts.tick.steps
  let mine := tileOps ((steps.drop u.first).take u.count)
  let rest := (tileOps (steps.take u.first ++ steps.drop (u.first + u.count))).filter (fun e => e.2.1 == t)
  let lo := mine.foldl (fun a e => min a e.1) ((mine.head?.map Prod.fst).getD 0)
  let hi := mine.foldl (fun a e => max a e.1) 0
  let others := rest.flatMap (fun e => (opWrites i e.2.2.1 e.2.2.2).map (fun w => (e.1, w)))
  inputsKept i lo hi others [] ((mine.filter (fun e => e.2.1 == t)).map (fun e => e.2.2))

/-- Load check 10. -/
def check10 (i : ImageFile) : Bool :=
  let t := i.parts.tick
  decide (unitsCover 0 t.units = some t.steps.length) && t.units.all (fun u => (List.range 128).all (unitOk i u))

/-- Load check 11. -/
def check11 (i : ImageFile) : Bool := decide (imgRates i ≠ 0) && decide (imgFills i ≠ 0) && decide (imgAlign i ≠ 0)

/-- The number of the first load check that fails, or 0 (R160). -/
def failedCheck (i : ImageFile) (region : Nat) (abi : W64) (bad : Bool) (blob : List Byte) : Nat :=
  if !check1 i region then 1
  else if !check2 i abi then 2
  else if !check3 i bad then 3
  else if !check4 i blob then 4
  else if !check5 i then 5
  else if !check6 i then 6
  else if !check7 i then 7
  else if !check8 i then 8
  else if !check9 i then 9
  else if !check10 i then 10
  else if !check11 i then 11
  else 0

end Sys2Proof.Machine
end

