-- ==== Sys2Proof/Machine/Descriptors.lean ====
section
/-!
DEFINITION. Doorbells, failed link reads, and the decoding of descriptors: the commands of the submission queues.
-/
namespace Sys2Proof.Machine

/-! ### Doorbells (R258 to R262) -/

/-- The submission or completion half is dropped: a reserved bit, a disabled queue, or an index at or above the size (R259). -/
def Hw.sqTailBad (h : Hw) (q : Nat) (w : W32) : Bool :=
  decide (w.toNat / 131072 ≠ 0) || !(h.queue q).sqOn || decide (ringSize (h.queue q).sqLog ≤ w.toNat % 65536)
def Hw.cqHeadBad (h : Hw) (q : Nat) (w : W32) : Bool :=
  decide (65536 ≤ w.toNat) || !(h.queue q).cqOn || decide (ringSize (h.queue q).cqLog ≤ w.toNat)

/-- The urgent reads of n descriptors from ring position `at0`: one read does not cross the ring's end (R261). -/
def urgentReads (q size at0 n : Nat) : List (Nat × Nat) :=
  let first := min n (size - at0 % size)
  [(q, first), (q, n - first)].filter (fun e => decide (0 < e.2))

/-- A write of the submission half (R259 to R261): dropped with a reserved bit, a disabled queue or an index at or above
the size; a write that leaves the tail unchanged announces nothing; urgent sends the first 8 announced to the urgent class
(DEDUCED, log 60): those that are new to it take one read, or two where the ring's end lies between them, and the reads of
every write keep their place in the order of receipt. -/
def Hw.sqTailWrite (h : Hw) (q off : Nat) (w : W32) : Hw :=
  let p := h.queue q
  let tail := w.toNat % 65536
  if h.sqTailBad q w then h.dropWrite off
  else if tail = p.tail.toNat then h
  else
    let n := ringSub (ringSize p.sqLog) tail p.fetch.toNat
    let urgent := if bitOf w.toNat 16 then max p.urgent (min 8 n) else p.urgent
    let h := h.setQueue q { p with tail := BitVec.ofNat 16 tail, urgent := urgent }
    let reads := if p.fault then [] else urgentReads q (ringSize p.sqLog) (p.fetch.toNat + p.urgent) (urgent - p.urgent)
    ({ h with link := { h.link with urgentWait := h.link.urgentWait ++ reads } }).issueReads

/-- A write of the completion half (R259, R262). -/
def Hw.cqHeadWrite (h : Hw) (q off : Nat) (w : W32) : Hw :=
  if h.cqHeadBad q w then h.dropWrite off
  else h.setQueue q { h.queue q with cqHead := w.setWidth 16 }

/-- A write of 4 or 8 bytes that lands in a doorbell page, at page offset `r`; `off` is the offset of the access (R259). -/
def Hw.doorbellWrite (h : Hw) (q r size off : Nat) (data : W64) : Hw :=
  let lo := data.setWidth 32
  let hi := (data >>> 32).setWidth 32
  if r = 0 ∧ size = 4 then h.sqTailWrite q off lo
  else if r = 4 ∧ size = 4 then h.cqHeadWrite q off lo
  else if r = 0 ∧ size = 8 ∧ !h.sqTailBad q lo ∧ !h.cqHeadBad q hi then (h.sqTailWrite q off lo).cqHeadWrite q off hi
  else h.dropWrite off

/-- A write through BAR2. A dropped one is counted in the snapshot too, also where the tick's count stands at its limit
(R238, R431). -/
def Hw.viaBar2 (h : Hw) (f : Hw → Hw) : Hw :=
  if (f { h with link := { h.link with dropCount := 0 } }).link.dropCount = 0 then f h
  else { f h with cnt := { (f h).cnt with bar2Dropped := (f h).cnt.bar2Dropped + 1 } }

def execDoorbellSqTail (q : Fin 256) (w : W32) (s : State) : Host.Outcome State Fault Refusal :=
  .next { s with hw := if s.hw.alive then s.hw.viaBar2 (fun h => h.sqTailWrite q (q * 0x1000) w) else s.hw }

def execDoorbellUrgent (q : Fin 256) (w : W32) (s : State) : Host.Outcome State Fault Refusal :=
  .next { s with hw := if s.hw.alive then s.hw.viaBar2 (fun h => h.sqTailWrite q (q * 0x1000) (w ||| 0x10000#32)) else s.hw }

def execDoorbellCqHead (q : Fin 256) (w : W32) (s : State) : Host.Outcome State Fault Refusal :=
  .next { s with hw := if s.hw.alive then s.hw.viaBar2 (fun h => h.cqHeadWrite q (q * 0x1000 + 4) w) else s.hw }

/-! ### Failed reads (R252) -/

/-- A read of the queue's next descriptor is on its way: on a reserved tag, or on an ordinary one (R243 to R246). -/
def Hw.fetching (h : Hw) (q : Nat) : Bool :=
  let p := h.queue q
  p.sqOn && !p.fault && p.fetch != p.tail && (h.reservedRead q || decide (0 < p.outstanding.toNat))

/-- Advanced Error Reporting notes an uncorrectable error of a bit; where the host has not masked it, the header log keeps
the header of the first, whose words are open: free values (R231, R252; log 5). One that the host marks fatal is an entry of
ERR_LOG too, for as long as the link stays active (R252). -/
def Hw.aer (h : Hw) (bit : Nat) : Hw :=
  let p := h.link.pci
  if bitOf p.uncMask.toNat bit then { h with link := { h.link with pci := { p with uncStatus := p.uncStatus ||| (1#32 <<< bit) } } }
  else
    let a := h.takeFree
    let b := a.2.takeFree
    let first := decide (p.uncStatus &&& ~~~p.uncMask = 0)
    let h := { b.2 with link := { b.2.link with pci := { p with
      uncStatus := p.uncStatus ||| (1#32 <<< bit), header := if first then BitVec.append a.1 b.1 else p.header } } }
    if bitOf p.uncFatal.toNat bit then
      h.note (entry 0x0030 1 0 moduleUnit (Config.eventCode 0x0252).toNat (match h.ex.last with | some t => t.toNat | none => stoppedEpoch.toNat))
    else h

/-- The report of a failed read: a poisoned completion, or a completion timeout. The requester's report of the other
completions has no bit there (PRESUMED, log 89). -/
def Hw.aerRead (h : Hw) : ReadCause → Hw
  | .poisoned => h.aer 12
  | .timeout => h.aer 14
  | .refused => h

/-- The payload of a descriptor whose read failed. -/
def failPayload : Payload → Payload
  | .none => .none
  | .feed _ => .feed .failed
  | .style _ => .style .failed
  | .record _ => .record .failed
  | .package _ => .package .failed
  | .members _ => .members .failed
  | .audio _ => .audio .failed
  | .ring _ => .ring .failed

/-- A staging whose payload read fails completes with ABORTED; its slot returns to FREE, and a restore leaves it DAMAGED
(R224, R252, R456). -/
def Hw.failStaging (h : Hw) (g : Staging) (status : Nat) : Hw :=
  let h := { h with cat := { h.cat with staging := h.cat.staging.filter (fun x => x.seq != g.seq) } }
  let v := h.vslot g.trunk g.idx g.slot
  let h := h.setVslot g.trunk g.idx g.slot (if g.restore then { v with restoring := false } else VSlot.reset)
  h.complete g.q g.seq opStage g.tag 0 status 0 0

/-- A failed read of the link: a fetch is tried once more, and then its queue faults; a list or block read aborts its
descriptor; the samples of an AUDIO_IN's block never arrive; the image copy ends with load_err (R252, R426). -/
def Hw.readError (h : Hw) (f : ReadFail) : Hw :=
  match f.target with
  | .fetch q =>
    let p := h.queue q
    if !h.fetching q then h
    else if !p.retried then (h.aerRead f.cause).setQueue q { p with retried := true }
    else ((((h.aerRead f.cause).setQueue q { p with retried := false, fault := true }).dropReads q).note
      (entry 0x0031 1 0 { kind := .queue, index := q } q p.fetch.toNat)).issueReads
  | .audio n first count =>
    (h.aerRead f.cause).mapStreams (fun _ s => { s with
      audio := s.audio.map (fun a => if a.seq = n && a.opened then { a with lost := a.lost ++ [(first, count)] } else a) })
  | .block n =>
    let h := h.aerRead f.cause
    let hit (a : Admitted) : Admitted := if a.seq = n then { a with payload := failPayload a.payload } else a
    let h := { h with rings := { h.rings with admitted := h.rings.admitted.map hit, laneWait := h.rings.laneWait.map hit } }
    let h := h.mapStreams (fun _ s => { s with
      queued := s.queued.map (fun f => { f with a := hit f.a }), held := s.held.map (fun f => { f with a := hit f.a })
      audio := s.audio.map (fun a => if a.seq = n && !a.opened then { a with data := .failed } else a) })
    match h.cat.staging.find? (fun g => g.seq == n && !g.copying) with
    | some g => h.failStaging g stAborted
    | none => h
  | .image => if h.mem.loadBusy then { h.aerRead f.cause with mem := { h.mem with loadBusy := false, loadDone := true, loadErr := true } } else h

/-- LINK_READ_ERROR; with the completion timeout disabled no read times out (R231). -/
def execLinkReadError (t : ReadFail) (s : State) : Host.Outcome State Fault Refusal :=
  .next { s with hw := if s.hw.decodes && !(t.cause == .timeout && s.hw.link.pci.timeoutOff) then s.hw.readError t else s.hw }

/-! ### Decoding (R251, R257, R260 to R263, R13) -/

/-- The Sequencer can decode the queue's next descriptor: a read of it has been issued, and no completion of the pair waits
(R244, R261, R262). -/
def Hw.canDecode (h : Hw) (q : Nat) : Bool :=
  let p := h.queue q
  h.decodes && h.fetching q && !(p.waiting.any (fun r => !r.r.event))

/-- The boundary at which a descriptor decoded now takes effect (R13). -/
def Hw.dueTick (h : Hw) : W64 := if h.ex.window == .commit then h.ex.tick + 2 else h.ex.tick + 1

/-- The version that a BIND_VOICE or a style CTRL selects on decode (R89). -/
def Hw.selectionOnDecode (h : Hw) (a : Admitted) : Option (Nat × Nat) :=
  let d := a.desc
  let style (s : Stream) : List F16 := match a.payload with | .style (.ok v) => v | _ => s.bank.utt.style
  let ask (v : Nat) (st : List F16) : Option (Nat × Nat) :=
    match h.selectVariant v st with
    | some k => ((h.voice (v * 8 + k)).currentSlot).map (fun j => (v * 8 + k, j))
    | none => none
  match h.lookup a.owner (dHandle d) with
  | none => none
  | some (_, s) =>
    if !dFormatOk d || (s.life != .idle && s.life != .speaking) then none
    else if dOpcode d == opBind then ask (dField d 0x10 4 % 0x1000000) (style s)
    else if dOpcode d == opCtrl && dField d 0x10 2 == 4 then
      match s.voiceNext with
      | some v => ask v.toNat (style s)
      | none => none
    else none

/-- The descriptor's selection is pinned from its decode on, and its page-in is requested (R89, R91). -/
def Hw.pageOnDecode (h : Hw) (a : Admitted) : Admitted × Hw :=
  match h.selectionOnDecode a with
  | some (i, k) => ({ a with pin := some (i, k) }, h.requestPage i k)
  | none => (a, h)

/-- Take the next descriptor of the queue: the fetch position advances, its sequence number is assigned, and the tag of its
read frees (R243, R260). Reads of lists and blocks take no time of their own (DESIGN CHOICE, log 82); those of a descriptor
fetched on a reserved tag wait where no ordinary tag is free to the queue (R246; DEDUCED, log 112). -/
def Hw.fetchOne (h : Hw) (q : Nat) (d : Desc) (x : Payload) : Admitted × Hw :=
  let p := h.queue q
  let reserved := h.reservedRead q
  let a : Admitted := { seq := h.ex.seq, q := q, owner := p.owner, due := h.dueTick, desc := d, payload := x,
                        urgent := decide (0 < p.urgent) && dOpcode d == opStop
                        unread := reserved && decide (x ≠ .none) && !h.mayRead q, pin := none }
  let o : OpenDesc := { seq := h.ex.seq, q := q, owner := p.owner, tag := dTag d, op := dOpcode d, handle := if zeroHandle (dOpcode d) then 0 else dHandle d
                        barrier := dOpcode d == opFence && bitOf (dFlags d) 0 && dFormatOk d, applied := none }
  let left := announced p - 1
  let out := min left (if reserved then p.outstanding.toNat else p.outstanding.toNat - 1)
  let h := h.setQueue q { p with fetch := BitVec.ofNat 16 ((p.fetch.toNat + 1) % ringSize p.sqLog), urgent := p.urgent - 1, retried := false
                                 outstanding := BitVec.ofNat 16 out }
  let h := { h with
    ex := { h.ex with seq := h.ex.seq + 1 }, rings := { h.rings with openDescs := h.rings.openDescs ++ [o] }
    link := if reserved then { h.link with urgentOut := useRead q h.link.urgentOut }
            else { h.link with urgentWait := useRead q h.link.urgentWait } }
  (a, h.issueReads)

/-- Admit a decoded descriptor; while the executive is stopped it is handled at once (R275). -/
def Hw.admitOne (h : Hw) (a : Admitted) : Hw :=
  if h.ex.running then
    let r := h.pageOnDecode a
    { r.2 with rings := { r.2.rings with admitted := r.2.rings.admitted ++ [r.1] } }
  else h.admitStopped a

/-- The descriptor is decoded by the row of opcode `op`; an opcode outside the table goes with any row. -/
def rowTakes (op : Nat) (d : Desc) : Bool := dOpcode d == op || dOpcode d == 0 || decide (0x0E < dOpcode d)

/-- Decode the queue's next descriptor as a row's. -/
def Hw.decodeRow (h : Hw) (q : Nat) (takes : Bool) (d : Desc) (x : Payload) : Hw :=
  if h.canDecode q && takes then
    let r := h.fetchOne q d x
    r.2.admitOne r.1
  else h

/-- The next descriptor is an urgent STOP: a STOP in the urgent class (R13, R280). -/
def Hw.urgentNext (h : Hw) (q : Nat) (d : Desc) : Bool := dOpcode d == opStop && decide (0 < (h.queue q).urgent)

/-- Decode an urgent STOP: before the intake close it acts in this tick, a malformed one completing in it; from the intake
close on it closes the gate, also where that commit has ended the utterance, and acts in the next (R271, R280, R281). -/
def Hw.decodeUrgent (h : Hw) (q : Nat) (d : Desc) : Hw :=
  if h.canDecode q && h.urgentNext q d then
    let r := h.fetchOne q d .none
    let a := r.1
    let h := r.2
    if !h.ex.running then h.applyStopped a
    else if h.ex.window == .commit then
      let h := match h.lookup a.owner (dHandle d) with
        | some (c, _) => if dFormatOk d then h.closeGate c (bitOf (dFlags d) 0) else h
        | none => h
      h.admitOne { a with due := h.ex.tick + 1 }
    else (h.markApplied a.seq 9).applyStop a
  else h

def execOpenStream (q : Fin 256) (d : Desc) (s : State) : Host.Outcome State Fault Refusal :=
  .next { s with hw := s.hw.decodeRow q (rowTakes opOpen d) d .none }

def execFeed (q : Fin 256) (d : Desc) (r : HostRead FeedData) (s : State) : Host.Outcome State Fault Refusal :=
  .next { s with hw := s.hw.decodeRow q (rowTakes opFeed d) d (.feed r) }

def execBindVoice (q : Fin 256) (d : Desc) (r : HostRead (List F16)) (s : State) : Host.Outcome State Fault Refusal :=
  .next { s with hw := s.hw.decodeRow q (rowTakes opBind d) d (if dField d 0x18 8 = 0 then .none else .style r) }

def execCtrl (q : Fin 256) (d : Desc) (r : HostRead (List F16)) (s : State) : Host.Outcome State Fault Refusal :=
  .next { s with hw := s.hw.decodeRow q (rowTakes opCtrl d) d (if dField d 0x10 2 = 4 then .style r else .none) }

def execStop (q : Fin 256) (d : Desc) (s : State) : Host.Outcome State Fault Refusal :=
  .next { s with hw := s.hw.decodeRow q (rowTakes opStop d && !s.hw.urgentNext q d) d .none }

def execUrgentStop (q : Fin 256) (d : Desc) (s : State) : Host.Outcome State Fault Refusal :=
  .next { s with hw := s.hw.decodeUrgent q d }

def execClose (q : Fin 256) (d : Desc) (s : State) : Host.Outcome State Fault Refusal :=
  .next { s with hw := s.hw.decodeRow q (rowTakes opClose d) d .none }

def execExportRec (q : Fin 256) (d : Desc) (s : State) : Host.Outcome State Fault Refusal :=
  .next { s with hw := s.hw.decodeRow q (rowTakes opExport d) d .none }

def execImportRec (q : Fin 256) (d : Desc) (r : HostRead Bytes) (s : State) : Host.Outcome State Fault Refusal :=
  .next { s with hw := s.hw.decodeRow q (rowTakes opImport d) d (.record r) }

def execWeightStage (q : Fin 256) (d : Desc) (r : HostRead PackageData) (s : State) : Host.Outcome State Fault Refusal :=
  .next { s with hw := s.hw.decodeRow q (rowTakes opStage d) d (.package r) }

def execWeightCommit (q : Fin 256) (d : Desc) (s : State) : Host.Outcome State Fault Refusal :=
  .next { s with hw := s.hw.decodeRow q (rowTakes opCommit d) d .none }

def execFence (q : Fin 256) (d : Desc) (s : State) : Host.Outcome State Fault Refusal :=
  .next { s with hw := s.hw.decodeRow q (rowTakes opFence d) d .none }

def execGroupCreate (q : Fin 256) (d : Desc) (r : HostRead (List W32)) (s : State) : Host.Outcome State Fault Refusal :=
  .next { s with hw := s.hw.decodeRow q (rowTakes opGroup d && !(dOpcode d == opGroup && bitOf (dFlags d) 0)) d (.members r) }

def execGroupDissolve (q : Fin 256) (d : Desc) (s : State) : Host.Outcome State Fault Refusal :=
  .next { s with hw := s.hw.decodeRow q (rowTakes opGroup d && !(dOpcode d == opGroup && !bitOf (dFlags d) 0)) d .none }

def execAudioIn (q : Fin 256) (d : Desc) (r : HostRead AudioData) (s : State) : Host.Outcome State Fault Refusal :=
  .next { s with hw := s.hw.decodeRow q (rowTakes opAudio d) d (.audio r) }

def execRingOut (q : Fin 256) (d : Desc) (r : HostRead Segments) (s : State) : Host.Outcome State Fault Refusal :=
  .next { s with hw := s.hw.decodeRow q (rowTakes opRing d) d (.ring r) }

end Sys2Proof.Machine
end

