-- ==== Sys2Proof/Machine/Memories.lean ====
section
/-!
DEFINITION. Pump transfers, page-ins, staging and trunk copies, refetch and scrub, and the far-memory controller (R205,
R218 to R229, R456).
-/
namespace Sys2Proof.Machine

/-- The memories answer: the device runs and neither memory is in self-refresh. -/
def Hw.memOn (h : Hw) : Bool := h.decodes && !h.mem.nearSelf && !h.mem.farSelf

/-! ### Pump transfers (R207, R218, R220) -/

/-- Every version of the catalogue. -/
def Hw.versions (h : Hw) : List VSlot := [h.cat.trunk0, h.cat.trunk1, h.cat.trunk2] ++ h.experts.map (fun e => e.2.2)

/-- Near address of payload byte `o` of a version with a near copy: in its trunk slot or its cache granules, on the stack of
the block's cluster (R212). -/
def VSlot.nearByte (i : ImageFile) (v : VSlot) (o : Nat) : Option Nat :=
  (placeOf v.blocks (fun _ => 0) o).bind (fun p =>
    match v.nearSlot with
    | some n => some (trunkAddr i n p.1 p.2)
    | none => cacheAddr i v.nearGranules p.1 p.2)

/-- Far address of payload byte `o` of a version (R209, R217). -/
def Hw.farByte (h : Hw) (v : VSlot) (o : Nat) : Option Nat := (v.granules[o / 0x200000]?).map (fun g => h.granuleAddr g + o % 0x200000)

/-- Byte `o` read through the granule map at an address: none where no version has its map there (R217, R220). -/
def Hw.mapped (h : Hw) (sp a o : Nat) : Option Nat :=
  match sp with
  | 0 => (h.versions.find? (fun v => v.resident && decide (v.nearMap.toNat = a))).bind (fun v => h.ex.image.bind (fun i => v.nearByte i o))
  | 1 => (h.versions.find? (fun v => v.state != .free && decide (v.mapAddr.toNat = a))).bind (fun v => h.farByte v o)
  | _ => none

/-- The near copy of a version is made: every payload byte goes from its granule to its place (R89, R212, R224). -/
def Hw.copyNear (h : Hw) (v : VSlot) : Hw :=
  match h.ex.image with
  | none => h
  | some i => (List.range v.length).foldl (fun a o => match v.nearByte i o, a.farByte v o with
      | some x, some y => a.spaceWrite 0 x [a.spaceByte 1 y]
      | _, _ => a) h

/-- The locks that the image in force has in SE SRAM. -/
def Hw.aux (h : Hw) : List (Nat × Nat) := match h.ex.image with | some i => i.parts.tick.aux | none => []

/-- Destination address of a transfer: with idle_chamber, the chamber of the lock that is not in use (R166, R220). -/
def Hw.pumpDst (h : Hw) (d : BitVec 256) : Nat :=
  match pumpLock h.aux d with
  | some k => if h.inB k.num then k.base else k.base + k.size
  | none => pumpDstField d

/-- The Pump programs of the image with a descriptor. -/
def pumpSteps (i : ImageFile) (d : BitVec 256) : List PumpStep := i.parts.pumps.filter (fun p => p.desc == d)

/-- The turn of a Pump program has come: the lock that it fills has been swapped as often as before its step (R166). -/
def Hw.pumpTurn (h : Hw) (i : ImageFile) (d : BitVec 256) : Option PumpStep :=
  (pumpSteps i d).find? (fun p =>
    match pumpLock i.parts.tick.aux d with
    | some k => decide (tget 0 h.eng.locks k.num = swapsBefore i k.num p.step)
    | none => true)

/-- The step at which a transfer of class 0 runs; other classes belong to no step (R218). -/
def Hw.pumpStep (h : Hw) (d : BitVec 256) : Option PumpStep :=
  match h.ex.image with
  | some i => if pumpClass d = 0 then h.pumpTurn i d else none
  | none => none

/-- Address of byte `o` of a transfer's source. A Pump program of the image that streams weights counts in the payload of the
version that the rows it serves have bound, so the bits follow that version's hash (R32; DESIGN CHOICE, log 116); others name
an address, or a granule map to read through. -/
def Hw.pumpSrcByte (h : Hw) (d : BitVec 256) (o : Nat) : Option Nat :=
  match (h.pumpStep d).map PumpStep.base with
  | some PumpBase.space | none => if pumpMap d then h.mapped (pumpSrcSpace d) (pumpSrc d) o else some (pumpSrc d + o)
  | some b => (h.baseVersion b).bind (fun v => h.ex.image.bind (fun i => v.nearByte i (pumpSrc d + o)))

/-- A row of the source: from the device's memory, or from `data` for host sources. A byte at an address that the source
space does not have is free (log 22). -/
def Hw.pumpRow (h : Hw) (d : BitVec 256) (data : List Byte) (r : Nat) : List Byte :=
  let len := pumpLen d
  let sp := pumpSrcSpace d
  if sp = 5 then padTo len (data.drop (r * len))
  else (List.range len).map (fun k =>
    match h.pumpSrcByte d (r * pumpSrcPitch d + k) with
    | some a => if h.inSpace sp a then h.spaceByte sp a else (Config.freeValue (h.free + (r * len + k))).setWidth 8
    | none => (Config.freeValue (h.free + (r * len + k))).setWidth 8)

/-- Bytes feed the hash of the package that is staged now: the oldest staging whose payload is still being written (R220,
R224). -/
def Hw.feedHash (h : Hw) (bs : List Byte) : Hw :=
  match h.cat.staging.find? (fun g => !g.copying && !g.verified) with
  | some g => { h with cat := { h.cat with staging := h.cat.staging.map (fun x => if x.seq = g.seq then { x with fed := x.fed ++ bs } else x) } }
  | none => h

/-- Move one row. -/
def Hw.pumpMove (h : Hw) (d : BitVec 256) (data : List Byte) (dst : Nat) (r : Nat) : Hw :=
  let bs := h.pumpRow d data r
  let at0 := dst + r * pumpDstPitch d
  let sp := pumpDstSpace d
  let h := if pumpHash d then h.feedHash bs else h
  if sp = 5 then h.post (.bytes (BitVec.ofNat 64 at0) bs true) else h.spaceWrite sp at0 bs

/-- Groups of weights that a fill brings: its bytes over the bytes of a group of the layer that it streams (R38, R49). -/
def Hw.groupsFilled (h : Hw) (d : BitVec 256) : Nat :=
  match h.ex.image, (h.pumpStep d).bind (fun p => p.layer) with
  | some i, some l => (match i.parts.fe.layers[l]? with
    | some x => pumpRows d * pumpLen d / max 1 (groupBytes x.wfmt x.group)
    | none => 0)
  | _, _ => 0

/-- The fill of a lock's idle chamber is complete; a tile that waits for it swaps (R73). A fill with weights lets the scale
stream go on as far; of a fill with scales, those entries have arrived that stand at most 8 groups ahead of the weights, and
the rest arrive by GROUP_SCALE_ARRIVAL (R49, R50). -/
def Hw.lockFilled (h : Hw) (d : BitVec 256) : Hw :=
  match pumpLock h.aux d with
  | some k =>
    let t := k.num / 3
    let u := h.tileU t
    if k.space = 2 ∧ k.num % 3 = 0 then (h.setTile t { u with lead := u.lead + h.groupsFilled d }).filledNow k.num
    else if k.space = 2 ∧ k.num % 3 = 1 then
      let n := pumpRows d * pumpLen d
      let m := min n u.lead
      let h := h.setTile t { u with idle := m, due := n - m, lead := u.lead - m }
      if m = n then h.filledNow k.num else h
    else h.filledNow k.num
  | none => h

/-- A range of bytes lies in one granule that satisfies `p`, counted from `base`. -/
def inGranule (size base a n : Nat) (p : Nat → Bool) : Bool :=
  decide (base ≤ a) && decide ((a - base) / size = (a + n - 1 - base) / size) && p ((a - base) / size)

/-- A row of n bytes at an address of near memory may be written: by the tick program and the host class in the pages and the
reserved area, by firmware in the reserved area, and by a page-in or a trunk copy in the place of the copy that it makes. -/
def Hw.nearOwned (h : Hw) (c a n : Nat) : Bool :=
  match h.ex.image with
  | none => false
  | some i =>
    let one := decide (a / stackBytes = (a + n - 1) / stackBytes)
    let both (p : Nat → Bool) := p a && p (a + n - 1)
    let o := a % stackBytes
    one && (match c with
      | 2 => (h.experts.any (fun e => !e.2.2.resident && h.cat.pageIns.any (fun p => p.admitted && p.idx == e.1 && p.slot == e.2.1)
          && inGranule 0x40000 (cacheBase i) o n (fun g => g ∈ e.2.2.nearGranules)))
      | 3 => [0, 1, 2].any (fun k => !(h.trunk k).resident && (match (h.trunk k).nearSlot with
          | some s => decide (s * trunkShare i ≤ o) && decide (o + n ≤ (s + 1) * trunkShare i)
          | none => false))
      | 5 => both (inReserved i)
      | _ => both (fun x => inPages i x || inReserved i x))

/-- Granules of the weight store that no version and no staging holds (R209). -/
def Hw.storeFree (h : Hw) : List Nat :=
  let held := h.versions.flatMap (fun v => v.granules) ++ h.cat.staging.flatMap (fun g => g.granules)
  (List.range h.storeGranules).filter (fun g => !(g ∈ held))

/-- A row of far memory may be written: free granules by the staging class, the working space by any class but the tick
program's (R209, R218). -/
def Hw.farOwned (h : Hw) (c a n : Nat) : Bool :=
  (decide (c = 4) && inGranule 0x200000 h.storeBase a n (fun g => g ∈ h.storeFree)) || (decide (c ≠ 0) && decide (h.workBase ≤ a))

/-- A transfer writes only where the work of its class writes (R209, R212, R218): no transfer changes a version that is in
use, the SRAM of the engines belongs to the tick program, and firmware moves reach control SRAM (DESIGN CHOICE, log 119). -/
def Hw.dstOwned (h : Hw) (d : BitVec 256) : Bool :=
  let c := pumpClass d
  (List.range (pumpRows d)).all (fun r =>
    let a := pumpDstField d + r * pumpDstPitch d
    match pumpDstSpace d with
    | 0 => h.nearOwned c a (pumpLen d)
    | 1 => h.farOwned c a (pumpLen d)
    | 2 => decide (c = 0)
    | 3 => decide (c = 0)
    | 4 => decide (c = 0) || decide (c = 5)
    | _ => true)

/-- The transfer can run now: a class-0 one while the tick program runs and at its turn, the others while the memories
answer; a host address only for a queue whose descriptor is in progress, or for the image copy; and only where its class
writes, never onto a chamber in use (R73, R207, R210, R218, R220). -/
def Hw.pumpAllowed (h : Hw) (d : BitVec 256) : Bool :=
  let host := decide (pumpSrcSpace d = 5) || decide (pumpDstSpace d = 5)
  pumpForm d && h.memOn && fillOk h.aux (fun l => tget 0 h.eng.locks l) d && h.dstOwned d
  && (if pumpClass d = 0 then h.engOn && (h.pumpStep d).isSome else true)
  && (!host || (decide (pumpClass d ≠ 0) && h.link.up && (h.mem.loadBusy || h.rings.openDescs.any (fun o => (h.queue o.q).sqOn))))

/-- An operation that succeeds ends its own retry (R227). -/
def Hw.wsRead (h : Hw) (d : BitVec 256) : Hw := { h with mem := { h.mem with wsRetry := h.mem.wsRetry.filter (fun x => x != d) } }

/-- The unit that owns an SRAM address: a tile its own, and a Conv-Scan Unit each thirty-second of SE SRAM (R364; the latter a
DESIGN CHOICE, log 118). Control SRAM belongs to no unit that is fenced. -/
def sramOwner (sp a : Nat) : Option UnitId :=
  match sp with
  | 2 => some { kind := .tile, index := a / tileSize }
  | 3 => some { kind := .csu, index := a / 0x200000 }
  | _ => none

/-- A double-bit error that a Pump meets in an SRAM: a compute fault of the owner (R364). -/
def Hw.sramDouble (h : Hw) (sp a runit : Nat) : Hw :=
  match sramOwner sp a with
  | some u => (h.doubleBit u (BitVec.ofNat 64 a)).unitFault u runit none
  | none => { h with mem := { h.mem with ecc := { h.mem.ecc with sramDbl := satAdd h.mem.ecc.sramDbl 1 } } }

/-- A fill of a replay unit has been made: it may end a replay (R163, R365). -/
def Hw.fillPassed (h : Hw) (u : UnitId) (runit : Option Nat) : Hw :=
  match runit with
  | some r => h.unitPass u r none
  | none => h

/-- PUMP_TRANSFER_COMPLETE: the rows are moved, an ECC-corrected source is counted and written back, and an uncorrectable
one has the outcome its place gives and moves nothing (R218, R220, R227). -/
def Hw.pumpDone (h : Hw) (p : Nat) (d : BitVec 256) (data : List Byte) (e : EccOutcome) : Hw :=
  let u := pumpUnit p
  if decide (16 ≤ p) || !h.pumpServes p d || !h.pumpAllowed d then h
  else
    let sp := pumpSrcSpace d
    let at0 := match e with | .clean => 0 | .corrected o => o | .uncorrectable o _ => o
    let src := (h.pumpSrcByte d at0).getD (pumpSrc d + at0)
    let near := decide (sp = 0)
    let unit := if near then stackOf src else channelOf src
    let runit := match h.ex.image, h.pumpStep d with | some i, some x => unitOf i x.step | _, _ => none
    let moved (h : Hw) : Hw :=
      let h := (List.range (pumpRows d)).foldl (fun a r => a.pumpMove d data (h.pumpDst d) r) (h.wsRead d)
      (({ h with free := h.free + pumpRows d * pumpLen d }).lockFilled d).fillPassed u runit
    match e with
    | .uncorrectable _ o => if sp ≤ 1 then h.uncorrectable near unit src u (runit.getD scrubUnit) o d else h.sramDouble sp src (runit.getD scrubUnit)
    | .corrected _ => moved (if sp ≤ 1 then h.correctedRead near unit else h.corrected)
    | .clean => moved h

def execPumpTransferComplete (pump : Nat) (d : BitVec 256) (data : List Byte) (e : EccOutcome) (s : State) : Host.Outcome State Fault Refusal :=
  .next { s with hw := s.hw.pumpDone pump d data e }

/-! ### Page-ins (R89, R91, R219) -/

/-- Granules of the expert cache that no version holds. -/
def Hw.cacheFree (h : Hw) (cap : Nat) : List Nat :=
  let held := h.experts.flatMap (fun e => e.2.2.nearGranules)
  (List.range cap).filter (fun g => !(g ∈ held))

/-- Evict experts until `need` granules are free (R91). -/
def Hw.evictExperts (h : Hw) (cap need : Nat) : List (Nat × Nat × VSlot) → Hw
  | [] => h
  | e :: es =>
    if h.cacheUsed + need ≤ cap then h
    else (h.setVslot false e.1 e.2.1 e.2.2.away).evictExperts cap need es

/-- PAGE_IN_ADMIT: the first waiting page-in, in order of decode, that is not held by a DAMAGED version; one that no
permitted eviction makes room for stays pending, holds back later ones, and evicts nothing (R89, R91, R219; DEDUCED, log 21).
It takes the lowest free granules of the cache (log 103). -/
def Hw.admitPage (h : Hw) : Hw :=
  match h.ex.image with
  | none => h
  | some i =>
    if !h.memOn || decide (24 ≤ h.cat.pagesTick) then h
    else
      match h.cat.pageIns.find? (fun p => !p.admitted && !(h.vslot false p.idx p.slot).damaged) with
      | none => h
      | some p =>
        let need := (h.vslot false p.idx p.slot).need
        let cap := cacheGranules i
        if h.cacheRoom i < need then h
        else
          let h := h.evictExperts cap need h.evictable
          let m := h.takeFree
          let h := m.2.setVslot false p.idx p.slot { h.vslot false p.idx p.slot with nearGranules := (h.cacheFree cap).take need, nearMap := m.1 }
          { h with cat := { h.cat with
              pageIns := h.cat.pageIns.map (fun q => if q.idx = p.idx ∧ q.slot = p.slot then { q with admitted := true } else q)
              pagesTick := h.cat.pagesTick + 1 } }

def execPageInAdmit (s : State) : Host.Outcome State Fault Refusal := .next { s with hw := s.hw.admitPage }

/-- PAGE_IN_COMPLETE: the expert's payload stands in its cache granules, it is resident; it is usable from the first boundary after (R89, R226). -/
def Hw.pageDone (h : Hw) (idx : Nat) : Hw :=
  if !h.memOn then h
  else
    match h.cat.pageIns.find? (fun p => p.admitted && p.idx == idx) with
    | none => h
    | some p =>
      let v := h.vslot false p.idx p.slot
      let h := { h with cat := { h.cat with pageIns := h.cat.pageIns.filter (fun q => !(q.idx == p.idx && q.slot == p.slot)) } }
      if v.state == .free then h else (h.copyNear v).setVslot false p.idx p.slot { v with resident := true, usable := false }

def execPageInComplete (idx : Nat) (s : State) : Host.Outcome State Fault Refusal := .next { s with hw := s.hw.pageDone idx }

/-! ### Staging (R224, R456) -/

/-- A near trunk slot that no version holds (R212; which, log 59). -/
def Hw.freeTrunkSlot (h : Hw) (i : ImageFile) : Option Nat :=
  let used := [0, 1, 2].filterMap (fun k => (h.trunk k).nearSlot)
  h.pickOf ((if imgOneTrunk i then [0] else [0, 1]).filter (fun n => !(n ∈ used)))

/-- Step 4 of R224 is skipped: a 64 B image, with no near slot to copy into. -/
def Hw.skipsCopy (h : Hw) (i : ImageFile) : Bool := imgOneTrunk i && (h.ex.running || (h.freeTrunkSlot i).isNone)

/-- The granules that a payload takes: those that the device has chosen, where they are distinct, free and as many as
needed, and otherwise the lowest free ones; none where there is no room (R224, step 2; DESIGN CHOICE, log 103). -/
def Hw.takeGranules (h : Hw) (n : Nat) (choice : List Nat) : Option (List Nat) :=
  let free := h.storeFree
  let need := granulesOf n
  if choice.length = need ∧ choice.Nodup ∧ (∀ g ∈ choice, g ∈ free) then some choice
  else if need ≤ free.length then some (free.take need)
  else none

/-- Write a payload into its granules, in order. -/
def Hw.writePayload (h : Hw) (gs : List Nat) (bs : List Byte) : Hw :=
  (gs.zip (pieces 0x200000 bs)).foldl (fun a e => a.spaceWrite 1 (a.granuleAddr e.1) e.2) h

/-- The staging has its payload in granules and verified: a restore waits for the commit, a trunk for its near copy, and
otherwise the slot is STAGED (R224, steps 3 to 5, R456). -/
def Hw.stagePassed (h : Hw) (i : ImageFile) (g : Staging) (gs : List Nat) : Hw :=
  let put (f : Staging → Staging) (h : Hw) : Hw :=
    { h with cat := { h.cat with staging := h.cat.staging.map (fun x => if x.seq = g.seq then f x else x) } }
  if g.restore then put (fun x => { x with verified := true, granules := gs }) h
  else
    let m := h.takeFree
    let bs := match manifestOf i (!g.trunk) g.entry with | some e => e.blocks | none => []
    let v := { h.vslot g.trunk g.idx g.slot with granules := gs, mapAddr := m.1, blocks := bs }
    if g.trunk && !h.skipsCopy i then put (fun x => { x with copying := true }) (m.2.setVslot g.trunk g.idx g.slot v)
    else (m.2.setVslot g.trunk g.idx g.slot { v with state := .staged }).stageDone g

/-- STAGE_PAYLOAD_VERIFIED: class 4 has written and hashed the payload: what Pumps have fed to the hash, and the rest. No
room ends the staging with NO_CONTEXT, a failed read with ABORTED, and a hash, length or shapes other than announced with
REJECTED_FORMAT (R224, R450, R456). -/
def Hw.stageVerified (h : Hw) (seq : Nat) (rest : List Byte) (length : Nat) (shapes : List Shape) (choice : List Nat) (readOk : Bool) : Hw :=
  if !h.memOn then h
  else
    match h.ex.image, h.cat.staging.find? (fun g => g.seq == seq && !g.copying && !g.verified) with
    | some i, some g =>
      let v := h.vslot g.trunk g.idx g.slot
      let okShape := match manifestOf i (!g.trunk) g.entry with
        | some m => m.length == g.length && m.shapes == shapes
        | none => false
      if g.restore && !v.restoring then
        ({ h with cat := { h.cat with staging := h.cat.staging.filter (fun x => x.seq != g.seq) } }).complete g.q g.seq opStage g.tag 0 stAborted 0 0
      else
        match h.takeGranules length choice with
        | none => h.failStaging g stNoContext
        | some gs =>
          let payload := padTo length (g.fed ++ rest)
          if !readOk then h.failStaging g stAborted
          else if sha512 payload ≠ g.hash || decide (length ≠ g.length) || !okShape then h.failStaging g stFormat
          else (h.writePayload gs payload).stagePassed i g gs
    | _, _ => h

def execStagePayloadVerified (seq : Nat) (rest : List Byte) (length : Nat) (shapes : List Shape) (choice : List Nat) (readOk : Bool) (s : State) :
    Host.Outcome State Fault Refusal :=
  .next { s with hw := s.hw.stageVerified seq rest length shapes choice readOk }

/-- The trunk whose commit, served while stopped, acts at the next start. -/
def Hw.trunkSwitch (h : Hw) : Option Nat := ((h.cat.switches.filter (fun x => x.1)).getLast?).map (fun x => x.2.2)

/-- A trunk version whose near copy is due: one that staging has verified, or, in the start sequence, the one that is
CURRENT from epoch 0 on and has no near copy (R224, step 4; R418). -/
def Hw.copyDue (h : Hw) (k : Nat) : Bool :=
  h.cat.staging.any (fun g => g.trunk && g.slot == k && g.copying)
  || (h.ex.start != .none && (match h.trunkSwitch with | some j => j == k | none => (h.trunk k).isCurrent))

/-- In the start sequence the trunk that a commit replaces gives up its near copy where no slot is free: nothing refers to it
(R224, the 64 B case). -/
def Hw.yieldTrunk (h : Hw) (i : ImageFile) : Hw :=
  match h.trunkSwitch, h.currentTrunk with
  | some j, some c => if h.ex.start != .none && j != c && (h.freeTrunkSlot i).isNone then
      h.setTrunk c { h.trunk c with nearSlot := none, resident := false, usable := false } else h
  | _, _ => h

/-- TRUNK_COPY_START: the copy starts once no RETIRING trunk holds a near copy and a near slot is free (R224). -/
def Hw.copyStart (h : Hw) (k : Nat) : Hw :=
  match h.ex.image with
  | none => h
  | some i =>
    let v := h.trunk k
    let retiring := [0, 1, 2].any (fun j => (h.trunk j).state == .retiring && (h.trunk j).nearSlot.isSome)
    if decide (3 ≤ k) || !h.memOn || !h.copyDue k || v.nearSlot.isSome || retiring then h
    else
      let h := h.yieldTrunk i
      match h.freeTrunkSlot i with
      | none => h
      | some n =>
        let m := h.picked.takeFree
        m.2.setTrunk k { v with nearSlot := some n, resident := false, nearMap := m.1 }

def execTrunkCopyStart (slot : Nat) (s : State) : Host.Outcome State Fault Refusal := .next { s with hw := s.hw.copyStart slot }

/-- TRUNK_COPY_COMPLETE: the payload stands in its near slot; a staged trunk becomes STAGED and its descriptor completes (R224, step 5). -/
def Hw.copyDone (h : Hw) (k : Nat) : Hw :=
  let v := h.trunk k
  if decide (3 ≤ k) || !h.memOn || v.nearSlot.isNone || v.resident then h
  else
    let h := h.copyNear v
    match h.cat.staging.find? (fun g => g.trunk && g.slot == k && g.copying) with
    | some g => (h.setTrunk k { v with resident := true, usable := true, state := .staged }).stageDone g
    | none => h.setTrunk k { v with resident := true, usable := true }

def execTrunkCopyComplete (slot : Nat) (s : State) : Host.Outcome State Fault Refusal := .next { s with hw := s.hw.copyDone slot }

/-! ### Refetch and scrub (R227, R228) -/

/-- Far address of the line of a version that a refetch could not read: the spec leaves the near placement open, so which
line of the version it is is a free value (log 88). -/
def Hw.lostLine (h : Hw) (v : VSlot) : Nat × Hw :=
  let r := h.takeFree
  let o := r.1.toNat % (max 1 v.granules.length * 0x200000)
  (h.granuleAddr (nth 0 v.granules (o / 0x200000)) + o % 0x200000 / 32 * 32, r.2)

/-- GRANULE_REFETCH_COMPLETE: the granule is in near memory again and the replay unit may replay; a far copy that is
uncorrectable too makes the version DAMAGED (R227). -/
def Hw.refetchDone (h : Hw) (unit : Nat) (ok : Bool) : Hw :=
  if !h.memOn then h
  else
    match h.eng.replays.find? (fun r => r.refetch && r.unit == unit && r.owner.isSome) with
    | none => h
    | some r =>
      if ok then
        let h := { h with mem := { h.mem with ecc := { h.mem.ecc with refetch := satAdd h.mem.ecc.refetch 1 } } }
        { h with eng := { h.eng with replays := if r.who.kind == UnitKind.nearStack then h.eng.replays.filter (fun x => x != r)
                                                else h.eng.replays.map (fun x => if x == r then { x with refetch := false } else x) } }
      else
        match r.owner with
        | none => h
        | some (tr, i, k) =>
          let h := h.damage tr i k
          let h := { h with eng := { h.eng with replays := if r.who.kind == UnitKind.nearStack then h.eng.replays.filter (fun x => x != r)
                                                           else h.eng.replays.map (fun x => if x == r then { x with owner := none } else x) } }
          let a := h.lostLine (h.vslot tr i k)
          let h := (a.2.countUncorrectable false (channelOf a.1) a.1).noteEcc false (channelOf a.1) a.1
            (ownerCode (if tr then .farTrunk k else .farExpert i k)) (if tr then 0x07 else 0)
          if tr then h.permanent else h

def execGranuleRefetchComplete (unit : Nat) (ok : Bool) (s : State) : Host.Outcome State Fault Refusal := .next { s with hw := s.hw.refetchDone unit ok }

/-- PATROL_SCRUB: a scrub read corrects what it finds, and an uncorrectable line acts as a read by its owner (R228). The
unit is the stack or channel that the address lies on (R207, R208). -/
def Hw.scrub (h : Hw) (near : Bool) (unit addr : Nat) (e : EccOutcome) : Hw :=
  if !h.memOn || !h.inSpace (if near then 0 else 1) addr || unit ≠ (if near then stackOf addr else channelOf addr) then h
  else
    match e with
    | .clean => h
    | .corrected _ => h.correctedRead near unit
    | .uncorrectable _ o => h.uncorrectable near unit addr ⟨UnitKind.nearStack, unit⟩ scrubUnit o (BitVec.ofNat 256 addr)

def execPatrolScrub (near : Bool) (unit : Nat) (addr : Nat) (e : EccOutcome) (s : State) : Host.Outcome State Fault Refusal :=
  .next { s with hw := s.hw.scrub near unit addr e }

/-! ### The far-memory controller (R205) -/

/-- LPDDR_REFRESH: a per-bank refresh in service. A channel has 64 banks (PRESUMED, log 133). -/
def Hw.refreshBank (h : Hw) (ch bank : Nat) : Hw :=
  if !h.memOn || decide (48 ≤ ch) || decide (64 ≤ bank) then h
  else
    let k := ch * 64 + bank
    { h with mem := { h.mem with refreshes := tput 0 h.mem.refreshes k (tget 0 h.mem.refreshes k + 1) } }

def execLpddrRefresh (channel bank : Nat) (s : State) : Host.Outcome State Fault Refusal := .next { s with hw := s.hw.refreshBank channel bank }

/-- REFRESH_RATE_POLL: the controller follows the multiplier that the DRAM reports, and the temperature it polls is what
Warden channel 0x48 reads (R205, R345). -/
def Hw.pollRefresh (h : Hw) (m : Nat) (t : W16) : Hw :=
  if !h.memOn then h else { h with mem := { h.mem with multiplier := m, polled := t } }

def execRefreshRatePoll (multiplier : Nat) (temp : W16) (s : State) : Host.Outcome State Fault Refusal :=
  .next { s with hw := s.hw.pollRefresh multiplier temp }

/-- Far memory enters self-refresh, after an all-bank refresh of every channel (R205, R333). -/
def Hw.farToSelf (h : Hw) : Hw :=
  if h.mem.farSelf then h
  else { h with mem := { h.mem with
      farSelf := true, allBank := (List.range 48).foldl (fun t c => tput 0 t c (tget 0 t c + 1)) h.mem.allBank } }

/-- Both memories enter self-refresh (R230). -/
def Hw.enterSelfRefresh (h : Hw) : Hw := { h.farToSelf with mem := { h.farToSelf.mem with nearSelf := true } }

/-- Near memory leaves self-refresh; far memory leaves it with data re-training (R205, R335). -/
def Hw.exitSelfRefresh (h : Hw) : Hw :=
  { h with mem := { h.mem with nearSelf := false, farSelf := false, retrained := h.mem.retrained + b2n h.mem.farSelf } }

/-- ZQ_CALIBRATION: every 64 ms (R205). -/
def Hw.calibrate (h : Hw) : Hw := if !h.memOn then h else { h with mem := { h.mem with zq := h.mem.zq + 1 } }

def execZqCalibration (s : State) : Host.Outcome State Fault Refusal := .next { s with hw := s.hw.calibrate }

/-- REFRESH_MANAGEMENT: a refresh management command, as the DRAM's mode register requests it (R205). -/
def Hw.manageRefresh (h : Hw) (ch : Nat) : Hw :=
  if !h.memOn || decide (48 ≤ ch) then h else { h with mem := { h.mem with rfm := tput 0 h.mem.rfm ch (tget 0 h.mem.rfm ch + 1) } }

def execRefreshManagement (channel : Nat) (s : State) : Host.Outcome State Fault Refusal := .next { s with hw := s.hw.manageRefresh channel }

end Sys2Proof.Machine
end

