-- ==== Sys2Proof/Machine/Registers.lean ====
section
/-!
DEFINITION. Writes of the set-up registers: queues, memory set-up, transfer mode, caps, clears, tick control and policy
(R209, R343, R349, R381, R408 to R428).
-/
namespace Sys2Proof.Machine

/-! ### Parts of a register (R408) -/

/-- The written half or halves lie at these bits of the register; the data stands at its register position. -/
def partMask : Part → W64
  | .lo => 0x00000000FFFFFFFF#64
  | .hi => 0xFFFFFFFF00000000#64
  | .both => 0xFFFFFFFFFFFFFFFF#64

/-- The register after a write of a part: the other half keeps its value. -/
def merge (p : Part) (old w : W64) : W64 := (old &&& ~~~(partMask p)) ||| (w &&& partMask p)

/-- The data that a write carries, with 0 in the half it does not cover. -/
def carried (p : Part) (w : W64) : W64 := w &&& partMask p

/-- The offset that an access to a part is made at. -/
def partOff (p : Part) (off : Nat) : Nat := match p with | .hi => off + 4 | _ => off

/-- The write sets a bit of `reserved` (R409). -/
def setsBits (p : Part) (w reserved : W64) : Bool := decide (carried p w &&& reserved ≠ 0)

/-- The write covers the low half. -/
def coversLo : Part → Bool
  | .hi => false
  | _ => true

/-- Bits `lo` to `lo + n − 1`. -/
def bitsAt (w : W64) (lo n : Nat) : Nat := w.toNat / 2 ^ lo % 2 ^ n

/-! ### The boot record (R390) -/

/-- The copy in force: the one with the higher counter among those whose MAC is valid. -/
def Security.record (s : Security) : Option FwRecord :=
  match s.recA.sound, s.recB.sound with
  | true, true => some (if s.recA.counter < s.recB.counter then s.recB else s.recA)
  | true, false => some s.recA
  | false, true => some s.recB
  | false, false => none

/-- Write the record: the copy that is not in force takes the slots' marks, with the next counter. -/
def Hw.saveRecord (h : Hw) : Hw :=
  let slot (k : Nat) : FwSlot := tget FwSlot.reset h.sec.fw k
  let r : FwRecord := { counter := (match h.sec.record with | some c => c.counter | none => 0) + 1
                        active := (List.range 4).map (fun k => (slot k).activeB), trial := (List.range 4).map (fun k => (slot k).trial), sound := true }
  { h with sec := if h.sec.record == some h.sec.recA then { h.sec with recB := r } else { h.sec with recA := r } }

/-- A boot takes the active slots and the trial flags from the record in force. -/
def Hw.loadRecord (h : Hw) : Hw :=
  match h.sec.record with
  | none => h
  | some r => (List.range 4).foldl (fun a k =>
      { a with sec := { a.sec with fw := tput FwSlot.reset a.sec.fw k { tget FwSlot.reset a.sec.fw k with
          activeB := nth false r.active k, trial := nth false r.trial k } } }) h

/-! ### Queue registers (R423, R424) -/

/-- A Sequencer is verified and runs; without one, queue registers read 0 and their writes are dropped (R394). -/
def Hw.sequencerOn (h : Hw) : Bool := (tget FwSlot.reset h.sec.fw 0).runs.isSome

/-- BAR0 offset of a register of queue pair q. -/
def queueOff (q r : Nat) : Nat := 0x10000 + q * 0x80 + r

/-- SQ_BASE and CQ_BASE: bits [11:0] are reserved; accepted while the queue is disabled. -/
def Hw.sqBaseWrite (h : Hw) (q : Nat) (p : Part) (w : W64) : Hw :=
  if setsBits p w 0xFFF#64 || (h.queue q).sqOn then h.dropWrite (partOff p (queueOff q 0))
  else h.modQueue q (fun x => { x with sqBase := merge p x.sqBase w })

def Hw.cqBaseWrite (h : Hw) (q : Nat) (p : Part) (w : W64) : Hw :=
  if setsBits p w 0xFFF#64 || (h.queue q).cqOn then h.dropWrite (partOff p (queueOff q 0x20))
  else h.modQueue q (fun x => { x with cqBase := merge p x.cqBase w })

/-- SQ_OWNER: accepted while the submission queue is disabled. -/
def Hw.sqOwnerWrite (h : Hw) (q : Nat) (p : Part) (w : W64) : Hw :=
  if setsBits p w 0xFFFFFFFFFFFF0000#64 || (h.queue q).sqOn then h.dropWrite (partOff p (queueOff q 0x18))
  else if coversLo p then h.modQueue q (fun x => { x with owner := w.setWidth 16 }) else h

/-- SQ_CREDIT: a value above the pool, or one that raises the sum of the enabled queues above it, is dropped; the credit
in force changes at the next boundary (R244, R422). -/
def Hw.sqCreditWrite (h : Hw) (q : Nat) (p : Part) (w : W64) : Hw :=
  if setsBits p w 0xFFFFFFFF00000000#64 then h.dropWrite (partOff p (queueOff q 0x10))
  else if !coversLo p then h
  else
    let x := h.queue q
    let c := bitsAt w 0 16
    let sum := if x.sqOn then h.creditSum - x.credit.toNat + c else h.creditSum
    if decide (h.ordinaryPool < c) || (decide (h.creditSum < sum) && decide (h.ordinaryPool < sum)) then h.dropWrite (queueOff q 0x10)
    else (h.setQueue q { x with credit := BitVec.ofNat 16 c }).latch (.credit q (BitVec.ofNat 16 c))

/-- Size fields of a queue: 4 to 16, changed only while the queue is disabled (R423, R424). -/
def sizeRefused (on : Bool) (old : BitVec 5) (w : W64) : Bool :=
  decide (bitsAt w 0 5 < 4) || decide (16 < bitsAt w 0 5) || (on && decide (bitsAt w 0 5 ≠ old.toNat))

/-- SQ_SIZE: enabling resets fetch and head and clears the fault; disabling stops fetching at once and discards the fetches
in flight (R424). -/
def Hw.sqSizeWrite (h : Hw) (q : Nat) (p : Part) (w : W64) : Hw :=
  let x := h.queue q
  let off := partOff p (queueOff q 0x08)
  if setsBits p w 0xFFFF00000000FCE0#64 then h.dropWrite off
  else if !coversLo p then h
  else if sizeRefused x.sqOn x.sqLog w then h.dropWrite off
  else
    let size := BitVec.ofNat 5 (bitsAt w 0 5)
    if !x.sqOn && bitOf w.toNat 8 then
      if !x.cqOn || decide (h.ordinaryPool < h.creditSum + x.credit.toNat) then h.dropWrite off
      else (h.setQueue q { x with sqLog := size, sqOn := true, fetch := 0, tail := 0, head := 0, fault := false, retried := false }).dropReads q
    else if x.sqOn && !bitOf w.toNat 8 then ((h.setQueue q { x with sqOn := false }).dropReads q).issueReads
    else h.setQueue q { x with sqLog := size, sqOn := bitOf w.toNat 8 }

/-- Nothing stands due to the completion queue: its submission queue is off, no context has it as home, no descriptor
of the pair awaits its completion, no record waits (R424). -/
def Hw.cqIdle (h : Hw) (q : Nat) : Bool :=
  let x := h.queue q
  !x.sqOn && !(h.ctxs.any (fun e => e.2.home == q)) && !(h.rings.openDescs.any (fun o => o.q == q)) && x.waiting.isEmpty

/-- CQ_SIZE: overflow is cleared by writing 1; enabling sets tail and cq_head to 0; disabling needs `cqIdle` (R424). -/
def Hw.cqSizeWrite (h : Hw) (q : Nat) (p : Part) (w : W64) : Hw :=
  let x := h.queue q
  let off := partOff p (queueOff q 0x28)
  if setsBits p w 0x000000000000FCE0#64 then h.dropWrite off
  else if !coversLo p then h
  else if sizeRefused x.cqOn x.cqLog w || (x.cqOn && !(bitOf w.toNat 8) && !h.cqIdle q) then h.dropWrite off
  else
    let x := { x with cqLog := BitVec.ofNat 5 (bitsAt w 0 5), overflow := x.overflow && !(bitOf w.toNat 9) }
    if !x.cqOn && bitOf w.toNat 8 then h.setQueue q { x with cqOn := true, cqTail := 0, cqHead := 0, dropped := 0 }
    else h.setQueue q { x with cqOn := bitOf w.toNat 8 }

/-- CQ_VECTOR: 511 is refused (R241); the vector serves from the next publication. -/
def Hw.cqVectorWrite (h : Hw) (q : Nat) (p : Part) (w : W64) : Hw :=
  if setsBits p w 0xFFFFFFFFFFFFFE00#64 || (coversLo p && decide (bitsAt w 0 9 = 511)) then h.dropWrite (partOff p (queueOff q 0x30))
  else if coversLo p then h.modQueue q (fun x => { x with vector := w.setWidth 9 }) else h

/-- A write of the 64-bit register at offset `r` of queue pair q. -/
def Hw.queueWrite (h : Hw) (q r : Nat) (p : Part) (w : W64) : Hw :=
  if !h.sequencerOn then h.dropWrite (partOff p (queueOff q r))
  else
    match r with
    | 0x00 => h.sqBaseWrite q p w
    | 0x08 => h.sqSizeWrite q p w
    | 0x10 => h.sqCreditWrite q p w
    | 0x18 => h.sqOwnerWrite q p w
    | 0x20 => h.cqBaseWrite q p w
    | 0x28 => h.cqSizeWrite q p w
    | 0x30 => h.cqVectorWrite q p w
    | _ => h.dropWrite (partOff p (queueOff q r))

/-- An access reaches the function's registers, or nothing changes (R236). -/
def Hw.whenAlive (h : Hw) (f : Hw → Hw) : Hw := if h.alive then f h else h

def execSqCreditWrite (q : Fin 256) (p : Part) (w : W64) (s : State) : Host.Outcome State Fault Refusal :=
  .next { s with hw := s.hw.whenAlive (fun h => h.queueWrite q 0x10 p w) }

def execSqEnable (q : Fin 256) (p : Part) (w : W64) (s : State) : Host.Outcome State Fault Refusal :=
  .next { s with hw := s.hw.whenAlive (fun h => h.queueWrite q 0x08 p w) }

def execSqDisable (q : Fin 256) (p : Part) (w : W64) (s : State) : Host.Outcome State Fault Refusal :=
  .next { s with hw := s.hw.whenAlive (fun h => h.queueWrite q 0x08 p w) }

def execCqEnable (q : Fin 256) (p : Part) (w : W64) (s : State) : Host.Outcome State Fault Refusal :=
  .next { s with hw := s.hw.whenAlive (fun h => h.queueWrite q 0x28 p w) }

def execCqDisable (q : Fin 256) (p : Part) (w : W64) (s : State) : Host.Outcome State Fault Refusal :=
  .next { s with hw := s.hw.whenAlive (fun h => h.queueWrite q 0x28 p w) }

def execCqVectorWrite (q : Fin 256) (p : Part) (w : W64) (s : State) : Host.Outcome State Fault Refusal :=
  .next { s with hw := s.hw.whenAlive (fun h => h.queueWrite q 0x30 p w) }

/-! ### XFER_MODE (R245, R421) -/

/-- The mode changes only while the executive is stopped, and to legacy only with 10-bit tags or wider; another write is
refused (R245, R383). -/
def Hw.xferWrite (h : Hw) (p : Part) (w : W64) : Hw :=
  if setsBits p w 0xFFFF00000000FCFE#64 then h.dropWrite (partOff p 0x18)
  else if !coversLo p then h
  else if h.ex.running || (bitOf w.toNat 0 && decide (h.link.tags = 0)) then h.refused 0x18
  else ({ h with link := { h.link with legacy := bitOf w.toNat 0 } }).issueReads

def execXferModeWrite (p : Part) (w : W64) (s : State) : Host.Outcome State Fault Refusal :=
  .next { s with hw := s.hw.whenAlive (fun h => h.xferWrite p w) }

/-! ### MEM_CFG (R209, R210, R426 to R428) -/

/-- The weight store holds a version. -/
def Hw.storeUsed (h : Hw) : Bool :=
  [0, 1, 2].any (fun k => (h.trunk k).state != .free) || h.experts.any (fun e => e.2.2.state != .free)

/-- Word 0: a write that changes a region size while the executive runs or the weight store holds a version is refused. -/
def Hw.memSizeWrite (h : Hw) (p : Part) (w : W64) : Hw :=
  let size := bitsAt w 0 5
  let voices := bitsAt w 8 21
  if setsBits p w 0xFFFFFFFFE00000E0#64 then h.dropWrite (partOff p 0x400)
  else if !coversLo p then h
  else if decide (size < 1) || decide (16 < size) || decide (voices < 1024) || decide (1048576 < voices) then h.dropWrite 0x400
  else if size = h.mem.imageSize.toNat && voices = h.mem.voiceMax.toNat then h
  else if h.ex.running || h.storeUsed then h.refused 0x400
  else { h with mem := { h.mem with imageSize := BitVec.ofNat 5 size, voiceMax := BitVec.ofNat 21 voices } }

/-- Word 1: a multiple of 4 KiB. -/
def Hw.loadAddrWrite (h : Hw) (p : Part) (w : W64) : Hw :=
  if setsBits p w 0xFFF#64 then h.dropWrite (partOff p 0x408)
  else { h with mem := { h.mem with loadAddr := merge p h.mem.loadAddr w } }

/-- Word 2: 256 B up to 2^40 − 1. -/
def Hw.loadLenWrite (h : Hw) (p : Part) (w : W64) : Hw :=
  let n := merge p (h.mem.loadLen.setWidth 64) w
  if setsBits p w 0xFFFFFF0000000000#64 || decide (n.toNat < 256) then h.dropWrite (partOff p 0x410)
  else { h with mem := { h.mem with loadLen := n.setWidth 40 } }

/-- Bytes of the image region; none where far memory failed its training (R206, R209, R413). -/
def Hw.imageRegionBytes (h : Hw) : Nat := if h.mem.trainFail.isSome then 0 else h.mem.imageSize.toNat * 0x40000000

/-- Word 3: load_go starts the copy of R210; a length above the region ends it at once with load_err. -/
def Hw.loadGoWrite (h : Hw) (p : Part) (w : W64) : Hw :=
  if setsBits p w 0xFFFFFFFFFFFFFFF0#64 then h.dropWrite (partOff p 0x418)
  else if !coversLo p || !(bitOf w.toNat 0) then h
  else if h.mem.loadBusy || h.ex.loadState == 1 || h.ex.mode == .holding || h.ex.mode == .asleep then h.refused 0x418
  else if h.imageRegionBytes < h.mem.loadLen.toNat then
    { h with mem := { h.mem with loadDone := true, loadErr := true, loadBusy := false } }
  else { h with mem := { h.mem with loadDone := false, loadErr := false, loadBusy := true } }

/-- A write of a word of MEM_CFG; words 4 to 7 are read only. -/
def Hw.memCfgWrite (h : Hw) (word : Nat) (p : Part) (w : W64) : Hw :=
  match word with
  | 0 => h.memSizeWrite p w
  | 1 => h.loadAddrWrite p w
  | 2 => h.loadLenWrite p w
  | 3 => h.loadGoWrite p w
  | _ => if word = 6 && setsBits p w 0xFFFFFFFF00000000#64 then h.dropWrite (partOff p (0x400 + word * 8)) else h

def execMemCfgWrite (p : Part) (w : W64) (s : State) : Host.Outcome State Fault Refusal :=
  .next { s with hw := s.hw.whenAlive (fun h => h.memCfgWrite 0 p w) }

def execMemCfgLoadGo (w : W64) (s : State) : Host.Outcome State Fault Refusal :=
  .next { s with hw := s.hw.whenAlive (fun h => h.memCfgWrite 3 .both w) }

/-- IMAGE_COPY_COMPLETE: the region holds the copied bytes, or a failed copy leaves it as it was (R210, R426; log 23). -/
def Hw.copyImage (h : Hw) (img : Option ImageFile) : Hw :=
  if !h.memOn || !h.mem.loadBusy then h
  else
    match img with
    | none => { h with mem := { h.mem with loadBusy := false, loadDone := true, loadErr := true } }
    | some f => { h with mem := { h.mem with
        loadBusy := false, loadDone := true, loadErr := false, regionBad := false
        region := some { f with file := f.file.take h.mem.loadLen.toNat } } }

def execImageCopyComplete (img : Option ImageFile) (s : State) : Host.Outcome State Fault Refusal :=
  .next { s with hw := s.hw.copyImage img }

/-! ### Clears and the cap (R229, R343, R381, R429) -/

/-- ECC_STAT word 0x1E0. -/
def Hw.eccClearWrite (h : Hw) (p : Part) (w : W64) : Hw :=
  if setsBits p w 0xFFFFFFFFFFFFFFFE#64 then h.dropWrite (partOff p 0x9E0)
  else if bitOf (carried p w).toNat 0 then h.latch .eccClear else h

def execEccStatClear (w : W64) (s : State) : Host.Outcome State Fault Refusal :=
  .next { s with hw := s.hw.whenAlive (fun h => h.eccClearWrite .both w) }

/-- ERR_LOG word 2: the log is emptied at the next boundary, or at once while stopped. -/
def Hw.logClearWrite (h : Hw) (p : Part) (w : W64) : Hw :=
  if setsBits p w 0xFFFFFFFFFFFFFFFE#64 then h.dropWrite (partOff p 0x100010)
  else if !(bitOf (carried p w).toNat 0) then h
  else if h.ex.running then h.latch .logClear
  else h.force .logClear

def execErrLogClear (w : W64) (s : State) : Host.Outcome State Fault Refusal :=
  .next { s with hw := s.hw.whenAlive (fun h => h.logClearWrite .both w) }

/-- PWR_CAP: cap code 3 and reserved bits are refused (R343). -/
def Hw.pwrCapWrite (h : Hw) (w : W32) : Hw :=
  if 3 ≤ w.toNat then h.dropWrite 0x28 else ({ h with pwrCap := w }).latch (.pwrCap w)

def execPwrCapWrite (w : W32) (s : State) : Host.Outcome State Fault Refusal :=
  .next { s with hw := s.hw.whenAlive (fun h => h.pwrCapWrite w) }

/-! ### TICKSYNC_CTL (R186, R420) -/

/-- Role and delay latch; the sticky bits of the upper half clear at once (R410). -/
def Hw.ticksyncWrite (h : Hw) (p : Part) (w : W64) : Hw :=
  if setsBits p w 0x0000FFF0F800FFFC#64 || (coversLo p && decide (bitsAt w 0 2 = 3)) then h.dropWrite (partOff p 0x20)
  else
    let c := (carried p w).toNat
    let h := { h with ts := { h.ts with missing := h.ts.missing && !(bitOf c 34), slip := h.ts.slip && !(bitOf c 35) } }
    if coversLo p then ({ h with ts := { h.ts with ctl := w.setWidth 32 } }).latch (.ticksync (w.setWidth 32)) else h

def execTicksyncCtlWrite (p : Part) (w : W64) (s : State) : Host.Outcome State Fault Refusal :=
  .next { s with hw := s.hw.whenAlive (fun h => h.ticksyncWrite p w) }

end Sys2Proof.Machine
end

