-- ==== Sys2Proof/Machine/Setup.lean ====
section
/-!
DEFINITION. Image load, start and stop of the tick executive (R156, R160, R161, R197, R416 to R419).
-/
namespace Sys2Proof.Machine

/-! ### TICK_CTL word 0 (R416 to R419) -/

/-- A load request acts in READY with the executive stopped, no start sequence and no image copy (R417). -/
def Hw.loadRequest (h : Hw) : Hw :=
  if h.ex.mode == .ready && !h.ex.running && h.ex.start == .none && !h.mem.loadBusy then
    { h with ex := { h.ex with loadState := 1 } }
  else h.refused 0x100

/-- A start request acts in READY with an image in force and the executive stopped; it is refused while a channel of far
memory has failed its training (R206, R418). -/
def Hw.startRequest (h : Hw) : Hw :=
  if h.ex.mode == .ready && h.ex.image.isSome && !h.ex.running && h.ex.start == .none && h.mem.trainFail.isNone then
    { h with ex := { h.ex with start := .testing } }
  else h.refused 0x100

/-- A stop request acts while the executive runs and no context is allocated; it latches under R14 (R419). -/
def Hw.stopRequest (h : Hw) : Hw :=
  if h.ex.running && h.ctxs.isEmpty then
    if h.ex.stopping.isSome then h
    else { h with ex := { h.ex with stopping := some (if h.ex.window == .commit then 2 else 1) } }
  else h.refused 0x100

/-- A write of TICK_CTL word 0: more than one trigger, or a reserved bit, drops it. -/
def Hw.tickCtlWrite (h : Hw) (p : Part) (w : W64) : Hw :=
  let t := bitsAt (carried p w) 0 3
  if setsBits p w 0xFFFFFFFFFF00E0F8#64 then h.dropWrite (partOff p 0x100)
  else
    match t with
    | 0 => h
    | 1 => h.loadRequest
    | 2 => h.startRequest
    | 4 => h.stopRequest
    | _ => h.dropWrite 0x100

def execTickCtlLoad (w : W64) (s : State) : Host.Outcome State Fault Refusal :=
  .next { s with hw := s.hw.whenAlive (fun h => h.tickCtlWrite .both w) }

def execTickCtlStart (w : W64) (s : State) : Host.Outcome State Fault Refusal :=
  .next { s with hw := s.hw.whenAlive (fun h => h.tickCtlWrite .both w) }

def execTickCtlStop (w : W64) (s : State) : Host.Outcome State Fault Refusal :=
  .next { s with hw := s.hw.whenAlive (fun h => h.tickCtlWrite .both w) }

/-! ### The load checks (R160, R161, R417) -/

/-- The blob in use: the payload of the object that runs as kind 4 (R398). -/
def Hw.blob (h : Hw) : List Byte :=
  match (tget FwSlot.reset h.sec.fw 3).runs with
  | some o => o.drop 1024
  | none => []

/-- The number of the first check that fails, 0 with none; a region that holds no image fails the first. -/
def Hw.checkRegion (h : Hw) : Nat :=
  match h.mem.region with
  | none => 1
  | some i => failedCheck i h.imageRegionBytes h.sec.abi h.mem.regionBad h.blob

/-- LOAD_CHECK: the checks of an accepted request end; the image comes into force and extends M5, or the failed check is
recorded and the previous image stays (R160, R400, R417). The weights of the Conv-Scan Units and the lanes come into SE SRAM
(R103, R125; DESIGN CHOICE for their place, log 74). -/
def Hw.loadChecks (h : Hw) : Hw :=
  if !h.memOn || h.ex.loadState != 1 || h.ex.mode != .ready || h.ex.running || h.ex.start != .none then h
  else
    match h.checkRegion, h.mem.region with
    | 0, some i =>
      ({ h with ex := { h.ex with image := some i, loadState := 2, failedCheck := 0 }
                mem := { h.mem with se := writeN h.mem.se 0 (seWeights i) } }).extend 5 5 0 (imgHash i)
    | k, _ =>
      ({ h with ex := { h.ex with loadState := 3, failedCheck := BitVec.ofNat 8 k } }).note (entry 0x0020 0 0 moduleUnit k 0)

def execLoadCheck (s : State) : Host.Outcome State Fault Refusal := .next { s with hw := s.hw.loadChecks }

/-! ### The start-up tests (R156, R197, R366, R370, R418) -/

/-- A unit that the start-up tests reach: one with recurrences, scan networks or draw pipelines. -/
def testable (u : UnitId) : Bool :=
  match u.kind with
  | .tile => decide (u.index < 128)
  | .csu => decide (u.index < 32)
  | .lane => decide (u.index < 24)
  | .sampler => decide (u.index < 8)
  | _ => false

/-- Where a unit's test fails. Its results are those of the four vectors of R202, and after them the states that the test
sequence of R156 wrote, by chunked service and then by rebuild, each compared bit for bit: the number of the first vector
that differs, or else the first position of the states that does (DESIGN CHOICE for the form, log 104). -/
def failsAt (r : List W64) : Option Nat :=
  match [0, 1, 2, 3].find? (fun k => decide (r[k]? ≠ testVectors[k]?)) with
  | some k => some (k + 1)
  | none =>
    let t := r.drop 4
    let n := (t.length + 1) / 2
    (List.range n).find? (fun k => decide (t[k]? ≠ t[k + n]?))

/-- A unit fails its test: a SELFTEST entry with the failing vector or position, and a fence under the third case of R366
with its FENCED entry and its DEGRADED event at once, as no tick runs (R371, R383). -/
def Hw.testFailed (h : Hw) (u : UnitId) (at0 : Nat) : Hw :=
  let h := h.note (entry 0x0005 2 (fenceClass u.kind) u at0 0)
  if u ∈ h.eng.fenced then h
  else
    let h := h.fence u 3
    let h := { h with eng := { h.eng with fenceNew := h.eng.fenceNew.filter (fun e => e.1 != u) } }
    let h := h.note (entry 0x0004 2 (fenceClass u.kind) u 3 h.degradedLimit)
    h.moduleEvent 0x84 stDegraded h.log.newest

/-- SELFTEST: the tests of the start sequence end; units without results have passed theirs. A passing run is counted; epoch
0 is scheduled, or, under the role latched for epoch 0 as a follower, waits for the edge of R187 (R449); a fence with no valid entry, be it one that stands since an earlier image, ends the start in SAFE (R156,
R197, R370, R418). -/
def Hw.selftestEnd (h : Hw) (results : List (UnitId × List W64)) : Hw :=
  if !h.decodes || h.ex.start != .testing then h
  else
    let bad := (results.filter (fun e => testable e.1)).filterMap (fun e => (failsAt e.2).map (fun k => (e.1, k)))
    let h := if bad.isEmpty then { h with cnt := { h.cnt with selftests := h.cnt.selftests + 1 } }
             else bad.foldl (fun a e => a.testFailed e.1 e.2) h
    let h := match h.uncovered with | some u => h.planFenced u | none => h
    if h.ex.safePlan.isSome then ({ h with ex := { h.ex with start := .none } }).rest 0x0370
    else { h with ex := { h.ex with start := if h.ts.ctl.toNat % 4 = 2 then .waitEdge else .scheduled } }

def execSelftest (results : List (UnitId × List W64)) (s : State) : Host.Outcome State Fault Refusal :=
  .next { s with hw := s.hw.selftestEnd results }

end Sys2Proof.Machine
end

