-- ==== Sys2Proof/Machine/Firmware.lean ====
section
/-!
DEFINITION. Signed objects, their slots, the compatibility check, updates and attestation (R384 to R406).
-/
namespace Sys2Proof.Machine

/-! ### Objects (R384 to R387) -/

/-- Bytes of the header before the payload. -/
def headerLen : Nat := 1024

/-- Payload limit of kind `k` + 1 (R384). -/
def payloadLimit : Nat → Nat
  | 0 => 0x600000
  | 1 => 0x80000
  | _ => 0x10000

def objVersion (o : List Byte) : W32 := BitVec.ofNat 32 (leField o 0x08 4)
def objSecurity (o : List Byte) : Nat := leField o 0x0C 4
def objPayload (o : List Byte) : List Byte := o.drop headerLen

/-- SHA-512 of the signed part, the first 256 bytes (R385, R400). -/
def signedHash (o : List Byte) : Hash := sha512 (padTo 256 o)

/-- The error of an object for kind `k` + 1, 0 when it verifies (R386, R387, R405). -/
def objError (k : Nat) (revoked : BitVec 4) (floor : W32) (o : List Byte) : Nat :=
  let n := leField o 0x10 4
  let i := leField o 0x6A 1
  let key := (o.drop 0x190).take 133
  if decide (o.length < headerLen) || decide (leField o 0 4 ≠ 0x49484657) || decide (leField o 4 2 ≠ k + 1)
      || !(bitOf (leField o 0x58 8) Config.hwRev.toNat && decide (Config.hwRev.toNat < 64)) then 0x02
  else if decide (payloadLimit k < n) || decide (o.length < headerLen + n) then 0x06
  else if decide (4 ≤ i) || decide (sha512 key ≠ Config.rootKeyHash i)
      || !verifySig (signedHash o) ((o.drop 0x100).take 132) key
      || decide (sha512 ((objPayload o).take n) ≠ BitVec.ofNat 512 (leField o 0x18 64)) then 0x03
  else if bitOf revoked.toNat i then 0x04
  else if objSecurity o < floor.toNat then 0x05
  else 0

/-! ### Slots (R390, R405) -/

def Hw.fwSlot (h : Hw) (k : Nat) : FwSlot := tget FwSlot.reset h.sec.fw k
def Hw.setFw (h : Hw) (k : Nat) (x : FwSlot) : Hw := { h with sec := { h.sec with fw := tput FwSlot.reset h.sec.fw k x } }

def FwSlot.active (x : FwSlot) : List Byte := if x.activeB then x.b else x.a
def FwSlot.inactive (x : FwSlot) : List Byte := if x.activeB then x.a else x.b

/-- The inactive slot takes these bytes, valid or not. -/
def FwSlot.setInactive (x : FwSlot) (o : List Byte) (ok : Bool) : FwSlot :=
  if x.activeB then { x with a := o, aValid := ok } else { x with b := o, bValid := ok }

/-- Verify both slots at boot and take the active one, or the other with fallback set; a trial image that fails gives
the boot record back to the previous slot (R388, R390, R396). -/
def Hw.bootKind (h : Hw) (k : Nat) : Hw :=
  let x := h.fwSlot k
  let av := decide (objError k h.sec.revoked x.floor x.a = 0)
  let bv := decide (objError k h.sec.revoked x.floor x.b = 0)
  let x := { x with aValid := av, bValid := bv, trialTicks := 0 }
  if if x.activeB then bv else av then h.setFw k { x with runs := some x.active }
  else if if x.activeB then av else bv then
    let y := { x with runs := some x.inactive, fallback := true }
    if x.trial then (h.setFw k { y with activeB := !x.activeB, trial := false }).saveRecord else h.setFw k y
  else h.setFw k { x with runs := none }

/-! ### Compatibility (R391 to R393) -/

/-- A row of the compatibility table. -/
structure CompatRow where
  flags : Nat
  format : Nat
  abi : W64
  deriving DecidableEq, Repr

/-- The first row of a table's payload that names a hardware revision and two versions. -/
def findRow (table : List Byte) (rev : BitVec 8) (seq war : W32) : Option CompatRow :=
  let n := leField table 0 4
  let at' (i : Nat) (off len : Nat) : Nat := leField table (0x40 + i * 0x20 + off) len
  match (List.range (min n 1024)).find? (fun i =>
      at' i 0 1 == rev.toNat && at' i 4 4 == seq.toNat && at' i 8 4 == war.toNat) with
  | some i => some { flags := at' i 1 1, format := at' i 2 2, abi := BitVec.ofNat 64 (at' i 0x0C 8) }
  | none => none

/-- The object that runs, by kind. -/
def Hw.running? (h : Hw) (k : Nat) : Option (List Byte) := (h.fwSlot k).runs

def Hw.runVersion (h : Hw) (k : Nat) : W32 := match h.running? k with | some o => objVersion o | none => 0

/-- The row of a combination under a table object. -/
def rowFor (table seq war : Option (List Byte)) : Option CompatRow :=
  match table, seq, war with
  | some t, some s, some w => findRow (objPayload t) Config.hwRev (objVersion s) (objVersion w)
  | _, _, _ => none

/-- The row of the running combination. -/
def Hw.currentRow (h : Hw) : Option CompatRow := rowFor (h.running? 2) (h.running? 0) (h.running? 1)

/-- COMPAT_VEC follows the running combination (R393, R406). -/
def Hw.relist (h : Hw) : Hw :=
  match h.currentRow with
  | some r => { h with sec := { h.sec with listed := true, abi := r.abi } }
  | none => { h with sec := { h.sec with listed := false, abi := 0 } }

/-- The row that a staged Sequencer (k = 0) or Warden (k = 1) would give. -/
def Hw.stagedRow (h : Hw) (k : Nat) : Option CompatRow :=
  let new := some (h.fwSlot k).inactive
  rowFor (h.running? 2) (if k = 0 then new else h.running? 0) (if k = 1 then new else h.running? 1)

/-- Activating a staged Sequencer or Warden would give a listed combination (R406). -/
def Hw.stagedListed (h : Hw) : Bool := [0, 1].any (fun k => (h.fwSlot k).staged && (h.stagedRow k).isSome)

/-! ### Keys (R399) -/

/-- "IH9-seal". -/
def sealInfo : List Byte := [0x49, 0x48, 0x39, 0x2D, 0x73, 0x65, 0x61, 0x6C]

/-- The sealing key: HKDF-SHA-512 of the root, with "IH9-seal" and the hardware revision as info (R399; the revision as one
byte, DEDUCED, log 128). -/
def sealingKey (root : BitVec 256) : BitVec 256 :=
  BitVec.ofNat 256 (bytesToNat (hkdf512 32 (natBytesBE 32 root.toNat) (sealInfo ++ [Config.hwRev])))

/-- M2: the root secret is reconstructed, and the identity key unseals where its area opens under the sealing key. -/
def Hw.unseal (h : Hw) : Hw :=
  let root := Config.rootSecret h.sec.boots
  { h with sec := { h.sec with root := some root, keyOk := Config.opens (sealingKey root), boots := h.sec.boots + 1 } }

/-! ### Phase M from step M3 (R389, R400) -/

/-- Extend a register with the signed part of the object that runs as kind `k` + 1. -/
def Hw.extendObject (h : Hw) (reg k : Nat) : Hw :=
  match h.running? k with
  | some o => h.extend reg (k + 1) (objVersion o) (signedHash o)
  | none => h

/-- Extend M3 with what step W5 kept of the Warden image (R388, R400). -/
def Hw.extendWarden (h : Hw) : Hw :=
  match h.sec.wHashes.find? (fun e => e.1 == 1) with
  | some (_, v, x) => h.extend 3 2 v x
  | none => h

/-- M5: M0 to M4 are extended from scratch; M5 to M7 and the log stand, which a phase M that runs again from M3 keeps (R394,
R400, R401; DEDUCED, log 129). -/
def Hw.measureBoot (h : Hw) : Hw :=
  let h := { h with sec := { h.sec with meas := h.sec.meas.filter (fun e => decide (5 ≤ e.1)) } }
  let h := (h.extend 0 7 0 Config.bootRomHash).extend 0 7 0 (Config.hwRev.setWidth 512)
  (((h.extendObject 1 2).extendObject 2 3).extendWarden).extendObject 4 0

/-- First byte of a half of control SRAM. -/
def ctlHalf (high : Bool) : Nat := if high then 0x800000 else 0

/-- A Sequencer image is copied into a half of control SRAM, from its first byte (R389, R397; DESIGN CHOICE for the address,
log 107). -/
def Hw.copyInto (h : Hw) (high : Bool) (o : List Byte) : Hw :=
  { h with mem := { h.mem with ctl := writeN h.mem.ctl (ctlHalf high) ((objPayload o).take (leField o 0x10 4)) } }

/-- M6: the Sequencer image that runs is copied into the lower half of control SRAM. -/
def Hw.copySequencer (h : Hw) : Hw :=
  match h.running? 0 with
  | some o => let a := h.copyInto false o; { a with sec := { a.sec with ctlHigh := false } }
  | none => h

/-- A Sequencer image that an ACTIVATE takes is copied into the standby half before the switch (R397). -/
def Hw.copyStandby (h : Hw) (k : Nat) : Hw := if k = 0 then h.copyInto (!h.sec.ctlHigh) (h.fwSlot 0).inactive else h

/-- Both memories are initialised: the far channels are trained and calibrated (R205, R206, R389). -/
def Hw.initMemories (h : Hw) (failed : Option (Nat × Nat)) : Hw :=
  { h with mem := { h.mem with trained := failed.isNone, trainFail := failed, zq := h.mem.zq + 1 } }

/-- M3 to M7. `old` is the state before; the STATE entry records the outcome even where it stays HOLDING. -/
def Hw.bootFromM3 (h : Hw) (failed : Option (Nat × Nat)) : Hw :=
  let old := h.ex.mode
  let h := ((h.bootKind 0).relist.measureBoot.copySequencer).initMemories failed
  let h := match failed with
    | some (c, k) => h.note (entry 0x0011 2 0 { kind := .farChannel, index := c } c k)
    | none => h
  let m := if h.war.safe || h.war.stuckSafe then DevMode.safe else if h.sec.listed && h.sequencerOn && !h.sec.wFailed then .ready else .holding
  ({ h with ex := { h.ex with mode := m } }).note (entry 0x0070 (if m == DevMode.safe then 3 else 0) 0 moduleUnit old.code m.code (Config.causeCode 0x0389).toNat)

/-! ### Activation (R396, R397, R400) -/

/-- The staged object of kind `k` + 1 becomes the active one, and the boot record says so. -/
def Hw.takeStaged (h : Hw) (k : Nat) (trial : Bool) : Hw :=
  let x := h.fwSlot k
  (h.setFw k { x with activeB := !x.activeB, staged := false, update := 0, err := 0, trial := trial, trialTicks := 0 }).saveRecord

/-- The loaded image's ABI major is listed in a row. -/
def Hw.abiListed (h : Hw) (r : CompatRow) : Bool :=
  match h.ex.image with
  | some i => check2 i r.abi
  | none => true

/-- In HOLDING an ACTIVATE that makes the combination listed runs phase M again from M3, whatever phase W found (R394). -/
def Hw.leaveHolding (h : Hw) : Hw :=
  if h.ex.mode == .holding && h.sec.listed then ({ h with sec := { h.sec with wFailed := false } }).bootFromM3 h.mem.trainFail else h

/-- A Sequencer or Warden image switches: it runs in trial, COMPAT_VEC follows and M6 is extended; the Sequencer runs from the
standby half, and a Warden that was not started runs. While the executive is stopped an image stays loaded only when its ABI
major is listed; in HOLDING a listed combination runs phase M from M3. -/
def Hw.install (h : Hw) (k : Nat) : Hw :=
  let o := (h.fwSlot k).inactive
  let h := h.takeStaged k true
  let h := (h.setFw k { h.fwSlot k with runs := some o }).relist
  let h := h.extend 6 (k + 1) (objVersion o) (signedHash o)
  let h := if k = 0 then { h with sec := { h.sec with ctlHigh := !h.sec.ctlHigh } } else { h with war := { h.war with on := true } }
  let h := { h with sec := { h.sec with live := none } }
  if h.ex.running then h
  else
    let keep := match h.currentRow with | some r => h.abiListed r | none => false
    let h := if k = 0 && !keep then { h with ex := { h.ex with image := none } } else h
    h.leaveHolding

/-- A table takes effect at once: its revocations become permanent, the floor rises and M1 is extended (R387, R392). -/
def Hw.installTable (h : Hw) : Hw :=
  let o := (h.fwSlot 2).inactive
  let h := h.takeStaged 2 false
  let x := h.fwSlot 2
  let h := h.setFw 2 { x with runs := some o, floor := BitVec.ofNat 32 (max x.floor.toNat (objSecurity o)) }
  let h := { h with sec := { h.sec with revoked := h.sec.revoked ||| BitVec.ofNat 4 (leField (objPayload o) 4 4) } }
  let h := h.relist.extend 1 3 (objVersion o) (signedHash o)
  h.leaveHolding

/-- A blob is accepted while stopped: the next 3V3_AUX power-up and the next PERST# use it (R387, R396). -/
def Hw.installBlob (h : Hw) : Hw :=
  let o := (h.fwSlot 3).inactive
  let h := h.takeStaged 3 false
  let x := h.fwSlot 3
  h.setFw 3 { x with floor := BitVec.ofNat 32 (max x.floor.toNat (objSecurity o)) }

/-- The live-update byte of the blob in use permits a live switch (R398). -/
def Hw.liveAllowed (h : Hw) : Bool := leField h.blob 1 1 == 1

/-- The error that refuses an ACTIVATE of kind `k` + 1, 0 when its conditions hold (R396, R405). -/
def Hw.activateError (h : Hw) (k : Nat) : Nat :=
  let x := h.fwSlot k
  if !x.staged then 0x0B
  else if k = 3 then (if h.ex.running then 0x09 else 0)
  else if k = 2 then
    match rowFor (some x.inactive) (h.running? 0) (h.running? 1) with
    | none => 0x08
    | some r => if h.abiListed r then 0 else 0x0A
  else
    match h.stagedRow k with
    | none => 0x08
    | some r =>
      if !h.ex.running then 0
      else if !h.liveAllowed then 0x0C
      else
        match h.currentRow with
        | none => 0x08
        | some c =>
          if !(bitOf c.flags k && bitOf r.flags k) || (k == 0 && c.format != r.format) then 0x09
          else if k = 0 && !h.abiListed r then 0x0A
          else 0

def Hw.activate (h : Hw) (k : Nat) : Hw :=
  let x := h.fwSlot k
  match h.activateError k with
  | 0 =>
    if k = 2 then h.installTable
    else if k = 3 then h.installBlob
    else if h.ex.running || (k = 1 && h.war.on) then
      -- a Warden that runs hands over at a scan, which FW_LIVE_SWITCH stands for (R396, R397)
      let t := if h.ex.running then h.ex.tick + (if h.ex.window == .commit then 3 else 2) else h.ex.tick
      let h := (h.copyStandby k).setFw k { x with update := 5, err := 0 }
      { h with sec := { h.sec with live := some (k, t) } }
    else (h.copyStandby k).install k
  | e => h.setFw k { x with err := BitVec.ofNat 8 e }

/-! ### Commands (R395, R405) -/

/-- A command of any kind is in progress. -/
def Hw.fwBusy (h : Hw) : Bool :=
  [0, 1, 2, 3].any (fun k => let u := (h.fwSlot k).update.toNat; (decide (1 ≤ u) && decide (u ≤ 3)) || decide (u = 5))

/-- STAGE: verify the object in the window and begin to write it to the inactive slot. -/
def Hw.stageFw (h : Hw) (k len : Nat) : Hw :=
  let x := h.fwSlot k
  let bad (e : Nat) : Hw := h.setFw k { x with err := BitVec.ofNat 8 e, update := if x.staged then 4 else 0 }
  if decide (len < headerLen) || decide (headerLen + payloadLimit k < len) then bad 0x06
  else
    let o := readN h.sec.window 0 len
    let e := objError k h.sec.revoked x.floor o
    if e ≠ 0 then bad e
    else if leField o 0x10 4 + headerLen ≠ len then bad 0x06
    else
      let h := h.setFw k { x.setInactive [] false with staged := false, update := 2, err := 0 }
      { h with sec := { h.sec with pendingKind := some k, pendingObj := o } }

/-- ABANDON: the inactive slot is invalid, at every later boot too: it holds no object (R395; DESIGN CHOICE, log 130). -/
def Hw.abandonFw (h : Hw) (k : Nat) : Hw :=
  let x := h.fwSlot k
  h.setFw k { x.setInactive [] false with staged := false, update := 0, err := 0 }

/-- A write of word 8 of FW_SLOT_STAT, at BAR0 offset 0xC40. A write of its upper half alone sets the length that a later one of
the lower half uses (R405, R408). -/
def Hw.fwCommand (h : Hw) (p : Part) (w : W64) : Hw :=
  let op := bitsAt w 0 3
  let k := bitsAt w 3 2
  let len := if p == .lo then h.sec.fwLength.toNat else (carried p w).toNat / 2 ^ 32
  if setsBits p w 0x00000000FFFFFFE0#64 || (coversLo p && decide (3 < op)) then h.dropWrite (partOff p 0xC40)
  else
    let h := { h with sec := { h.sec with fwLength := BitVec.ofNat 32 len } }
    if !coversLo p || op == 0 then h
    else if h.fwBusy then h.setFw k { h.fwSlot k with err := 0x01 }
    else
    match op with
    | 1 => h.stageFw k len
    | 2 => h.activate k
    | _ => h.abandonFw k

def execFwStage (w : W64) (s : State) : Host.Outcome State Fault Refusal :=
  .next { s with hw := s.hw.whenAlive (fun h => h.fwCommand .both w) }

def execFwActivate (w : W64) (s : State) : Host.Outcome State Fault Refusal :=
  .next { s with hw := s.hw.whenAlive (fun h => h.fwCommand .both w) }

def execFwAbandon (w : W64) (s : State) : Host.Outcome State Fault Refusal :=
  .next { s with hw := s.hw.whenAlive (fun h => h.fwCommand .both w) }

/-- FW_STAGE_COMPLETE: the write and read-back end; the slot holds a staged object, or the flash failed (R395, R405). -/
def Hw.stageEnds (h : Hw) (ok : Bool) : Hw :=
  match h.sec.pendingKind with
  | none => h
  | some k =>
    let x := h.fwSlot k
    let h := if ok then h.setFw k { x.setInactive h.sec.pendingObj true with staged := true, update := 4, err := 0 }
             else h.setFw k { x with update := 0, err := 0x07 }
    { h with sec := { h.sec with pendingKind := none, pendingObj := [] } }

def execFwStageComplete (ok : Bool) (s : State) : Host.Outcome State Fault Refusal := .next { s with hw := s.hw.stageEnds ok }

/-- FW_LIVE_SWITCH: the boundary that a live ACTIVATE planned has come, or the executive has stopped before it (R397). -/
def Hw.liveSwitch (h : Hw) : Hw :=
  match h.sec.live with
  | some (k, t) => if h.pwr.booted && (!h.ex.running || decide (t ≤ h.ex.tick)) then h.install k else h
  | none => h

def execFwLiveSwitch (s : State) : Host.Outcome State Fault Refusal := .next { s with hw := s.hw.liveSwitch }

/-- FW_TRIAL_END: the trial passes after 65,536 committed ticks, or 300 s with the executive stopped; the floor rises (R387, R396). -/
def Hw.trialEnds (h : Hw) (k : Nat) : Hw :=
  let x := h.fwSlot k
  if h.pwr.booted && x.trial && (decide (65536 ≤ x.trialTicks) || !h.ex.running) then
    (h.setFw k { x with trial := false, trialTicks := 0, floor := BitVec.ofNat 32 (max x.floor.toNat (objSecurity x.active)) }).saveRecord
  else h

def execFwTrialEnd (kind : Fin 4) (s : State) : Host.Outcome State Fault Refusal := .next { s with hw := s.hw.trialEnds kind }

/-! ### Attestation (R402 to R404) -/

/-- The module's serial number, from the blob in use (R398). -/
def Hw.serial (h : Hw) : BitVec 128 := BitVec.ofNat 128 (leField h.blob 0x8E0 16)

/-- What a report captures at go. -/
def Hw.captureReport (h : Hw) : Report :=
  { nonce := h.sec.nonce, epoch := h.ex.last.getD stoppedEpoch, devState := h.devState.setWidth 32, hwRev := Config.hwRev,
    serial := h.serial, meas := (List.range 8).map (fun i => tget (0 : Hash) h.sec.meas i),
    logCount := BitVec.ofNat 10 h.sec.mlog.length, overflow := h.sec.mover,
    versions := (List.range 4).map h.runVersion,
    imageHash := match h.ex.image with | some i => imgHash i | none => 0 }

/-- The first 0x300 bytes of a report (R404). -/
def reportBytes (r : Report) : List Byte :=
  natBytesLE 4 0x49484154 ++ natBytesLE 4 1 ++ hashBytes r.nonce ++ natBytesLE 8 r.epoch.toNat ++ natBytesLE 4 r.devState.toNat
  ++ natBytesLE 4 r.hwRev.toNat ++ natBytesLE 16 r.serial.toNat ++ natBytesLE 8 0 ++ r.meas.flatMap hashBytes
  ++ natBytesLE 4 (r.logCount.toNat + b2n r.overflow * 2 ^ 31) ++ r.versions.flatMap (fun v => natBytesLE 4 v.toNat) ++ natBytesLE 4 0
  ++ hashBytes r.imageHash ++ List.replicate 56 0

/-- The control word's write: go is ignored while a report is being made (R403). -/
def Hw.attestWrite (h : Hw) (p : Part) (w : W64) : Hw :=
  if setsBits p w 0xFFFFFFFFF800FFC0#64 then h.dropWrite (partOff p 0x200000)
  else if !(bitOf (carried p w).toNat 0) || h.sec.busy then h
  else { h with sec := { h.sec with busy := true, done := false, error := 0, capture := some h.captureReport } }

def execAttestGo (w : W64) (s : State) : Host.Outcome State Fault Refusal :=
  .next { s with hw := s.hw.whenAlive (fun h => h.attestWrite .both w) }

/-- ATTEST_REPORT_DONE: the report is complete with an identity signature over its first 0x300 bytes, or ends with an error: a
signature that does not verify under the identity key is none (R386, R399, R403, R404). -/
def Hw.reportEnds (h : Hw) (sig : Option (List Byte)) : Hw :=
  match h.sec.busy, h.sec.capture with
  | true, some r =>
    let e (k : BitVec 3) : Hw := { h with sec := { h.sec with busy := false, done := false, error := k, capture := none } }
    if !h.sec.keyOk then e 2
    else
      match sig with
      | none => e 1
      | some g =>
        if verifySig (sha512 (reportBytes r)) (padTo 132 g) Config.identityKey then
          { h with sec := { h.sec with busy := false, done := true, error := 0, capture := none, report := reportBytes r ++ padTo 132 g } }
        else e 1
  | _, _ => h

def execAttestReportDone (sig : Option (List Byte)) (s : State) : Host.Outcome State Fault Refusal :=
  .next { s with hw := s.hw.reportEnds sig }

end Sys2Proof.Machine
end

