-- ==== Sys2Proof/Machine/Ports.lean ====
section
/-!
DEFINITION. The serial audio ports: register writes, frames in and out, clock and line faults (R296 to R320), and the
frequency-measuring counter (R328 to R331).
-/
namespace Sys2Proof.Machine

/-! ### Lines and frames (R296 to R299, R308) -/

/-- AMCLK cycles of a frame at a rate code, and the divisor of the bit clock of 2W a frame where it is whole (R299, R325). -/
def amclkPerFrame (rate : Nat) : Nat := 24576000 / rateHz rate
def bclkDivisor (rate W : Nat) : Option Nat := if amclkPerFrame rate % (2 * W) = 0 then some (amclkPerFrame rate / (2 * W)) else none

/-- What drives a line (R296). -/
inductive Line where
  | driven | input | highZ
  deriving DecidableEq, Repr

/-- The lines APp_BCLK, APp_WS and APp_SD of a port: high impedance while it is off or fault-disabled (R296, R304, R318). -/
def Port.lines (x : Port) : Line × Line × Line :=
  if x.state == .off || x.state == .faultDisabled then (.highZ, .highZ, .highZ)
  else
    let clock := if x.slave then Line.input else Line.driven
    (clock, clock, if x.isOutput then .driven else .input)

/-- Bit k of a W-bit word, its most significant bit being bit W − 1. -/
def wordBit (z : Int) (k : Nat) : Bool := decide (z / 2 ^ k % 2 = 1)

/-- APp_WS and APp_SD at bit clock k of a frame of the words a and b, after a frame whose second word was `prev` (R297, R298). -/
def frameBit (W : Nat) (prev a b : Int) (k : Nat) : Bool × Bool :=
  (decide (W ≤ k), if k = 0 then wordBit prev 0 else if k ≤ W then wordBit a (W - k) else wordBit b (2 * W - k))

/-- APp_WS and APp_SD at bit clock k of the frame that an output port sent last (R298). -/
def Port.lineAt (x : Port) (k : Nat) : Bool × Bool := frameBit x.width x.prevWord x.word0 x.word k

/-- Bytes of a word's container: 3 for packed 24-bit words, else 4 (R301, R308). -/
def Port.container (x : Port) : Nat := if x.width = 24 && bitOf x.fmtNow.toNat 2 then 3 else 4

/-- The bytes of frames in a FIFO: their live slots, slot 0 first, each word sign-extended to its container (R308). -/
def Port.fifoBytes (x : Port) (fs : List (Int × Int)) : List Byte :=
  fs.flatMap (fun f => [(0, f.1), (1, f.2)].flatMap (fun e =>
    if x.live e.1 then natBytesLE x.container (BitVec.ofInt 32 e.2).toNat else []))

/-! ### Register writes (R300 to R304) -/

/-- A combination that R299 marks "slave only": no whole number divides AMCLK. -/
def slaveOnly (ctl fmt : W32) : Bool :=
  (bclkDivisor (ctl.toNat / 8 % 8) (match fmt.toNat % 4 with | 0 => 16 | 1 => 24 | _ => 32)).isNone

/-- A master port would run at a "slave only" combination. -/
def badMaster (ctl fmt : W32) : Bool := bitOf ctl.toNat 0 && !(bitOf ctl.toNat 2) && slaveOnly ctl fmt

/-- An open stream routes to the port or binds a reference to it. -/
def Hw.portUsed (h : Hw) (p : Nat) : Bool := !(h.portStreams p).isEmpty

/-- BAR0 offset of a register of port p. -/
def portOff (p r : Nat) : Nat := 0x1000 + p * 0x20 + r

/-- APORT_CTL (R300, R304); retry acts at the next boundary (R318). -/
def Hw.aportCtlWrite (h : Hw) (p : Nat) (w : W32) : Hw :=
  let x := h.port p
  let v := w &&& 0x3F#32
  if decide (w &&& 0xFFFFFEC0#32 ≠ 0) || decide (4 < w.toNat / 8 % 8) || badMaster v x.fmt
      || (decide ((v ^^^ x.ctl) &&& 0x3E#32 ≠ 0) && h.portUsed p) then h.dropWrite (portOff p 0)
  else
    let h := (h.setPort p { x with ctl := v }).latch (.aportCtl p v)
    if bitOf w.toNat 8 then h.latch (.retry p) else h

/-- APORT_FMT (R301, R304). -/
def Hw.aportFmtWrite (h : Hw) (p : Nat) (w : W32) : Hw :=
  let x := h.port p
  if decide (8 ≤ w.toNat) || decide (w.toNat % 4 = 3) || badMaster x.ctl w || (decide (w ≠ x.fmt) && h.portUsed p) then h.dropWrite (portOff p 4)
  else (h.setPort p { x with fmt := w }).latch (.aportFmt p w)

/-- APORT_SLOTMASK (R302, R304). -/
def Hw.aportMaskWrite (h : Hw) (p : Nat) (w : W32) : Hw :=
  let x := h.port p
  if decide (4 ≤ w.toNat) || (decide (x.mask &&& ~~~w ≠ 0) && h.portUsed p) then h.dropWrite (portOff p 8)
  else (h.setPort p { x with mask := w }).latch (.aportMask p w)

/-- APORT_STAT: cause bits clear by writing 1 (R303). -/
def Hw.aportStatWrite (h : Hw) (p : Nat) (part : Part) (w : W64) : Hw :=
  if setsBits part w 0xFFFE00F0#64 then h.dropWrite (partOff part (portOff p 0x10))
  else h.modPort p (fun x => { x with cause := x.cause &&& ~~~(BitVec.ofNat 9 ((carried part w).toNat / 256)) })

def execAportCtlWrite (port : Fin 16) (w : W32) (s : State) : Host.Outcome State Fault Refusal :=
  .next { s with hw := s.hw.whenAlive (fun h => h.aportCtlWrite port w) }

def execAportFmtWrite (port : Fin 16) (w : W32) (s : State) : Host.Outcome State Fault Refusal :=
  .next { s with hw := s.hw.whenAlive (fun h => h.aportFmtWrite port w) }

def execAportSlotmaskWrite (port : Fin 16) (w : W32) (s : State) : Host.Outcome State Fault Refusal :=
  .next { s with hw := s.hw.whenAlive (fun h => h.aportMaskWrite port w) }

def execAportRetry (port : Fin 16) (w : W32) (s : State) : Host.Outcome State Fault Refusal :=
  .next { s with hw := s.hw.whenAlive (fun h => h.aportCtlWrite port w) }

/-! ### Running ports -/

/-- The port runs or is muted, and its clock is there: a slave's from outside, a master's while masterBclk stands. -/
def Hw.portOn (h : Hw) (p : Nat) : Bool :=
  let x := h.port p
  h.decodes && !h.pwr.forcedSafe && (x.state == .running || x.state == .muted) && (x.slave || h.pwr.masterBclk)

/-- The upper 16 bits of a W-bit word. -/
def upper16 (W : Nat) (z : Int) : W16 := BitVec.ofInt 16 (z / 2 ^ (W - 16))

/-- The IEC 61937 preamble pair (R311, R313). -/
def preamble (a b : W16) : Bool := a == 0xF872#16 && b == 0x4E1F#16

/-- A slave port mutes with a cause (R315). -/
def Hw.mutePort (h : Hw) (p c : Nat) : Hw :=
  (h.modPort p (fun x => { x with state := .muted, locked := false, tracked := 0, stable := 0, drift := 0, windowBad := true, word := 0,
                                  word0 := 0, outQueue := if x.isOutput then [] else x.outQueue })).portCause p c

/-! ### Frames in (R306, R312 to R316) -/

/-- A frame's period lies within ±2,000 ppm of nominal: 2,000,000 ÷ N ACLK (R314, R316). -/
def nearNominal (n period : Nat) : Bool := decide (period * n ≤ 2004000) && decide (1996000 ≤ period * n)

def sumList (xs : List Nat) : Nat := xs.foldl (· + ·) 0

/-- Two means differ by more than 2,000 ppm of the second: `sum` over `k` frames against `tracked`. -/
def jumped (k sum tracked : Nat) : Bool := decide (1002 * k * tracked < 1000 * sum) || decide (1000 * sum < 998 * k * tracked)

/-- 64 consecutive frames agree within ±2,000 ppm at a mean outside ±2,000 ppm of nominal (R315). -/
def rateChanged (n : Nat) (ps : List Nat) : Bool :=
  let lo := ps.foldl min (ps.headD 0)
  let hi := ps.foldl max 0
  let sum := sumList ps
  decide (ps.length = 64) && decide (1000 * hi ≤ 1002 * lo) && (decide (64 * 2004000 < sum * n) || decide (sum * n < 64 * 1996000))

/-- A frame joins the span of 8 nominal frame periods of 2,000,000 ÷ N ACLK; at its end the lines count as swapped where
APp_WS carried more edges than APp_BCLK (R315). The spans follow each other (DESIGN CHOICE, log 30). -/
def Port.countEdges (x : Port) (f : PortFrame) : Port :=
  let e := (x.edges.1 + f.wsEdges, x.edges.2.1 + f.bclks, x.edges.2.2 + f.period)
  if 16000000 ≤ e.2.2 * x.n then { x with edges := (0, 0, 0), swap := decide (e.2.1 < e.1) } else { x with edges := e }

/-- The causes that a slave port's clocks give at the end of a frame (R315); a jump is reported before a rate change. A
condition that goes on is no new cause (R320; DEDUCED, log 106). -/
def Port.clockCauses (x old : Port) : List Nat :=
  let found := [(6, x.swap && !old.swap), (7, x.ratioBad == 8),
    (2, x.locked && decide (8 ≤ x.periods.length) && jumped 8 (sumList (x.periods.take 8)) x.tracked),
    (3, rateChanged x.n x.periods && !rateChanged x.n old.periods)]
  (found.filter Prod.snd).map Prod.fst

/-- The measurements of a frame at a slave port's pins (R314 to R316). The tracked period is the mean of the last 64
frames or fewer (DESIGN CHOICE, log 30). -/
def Port.measure (x : Port) (f : PortFrame) : Port :=
  let ps := (f.period :: x.periods).take 64
  { x with periods := ps
           ratioBad := if f.bclks = 2 * x.width then 0 else x.ratioBad + 1
           clockless := false
           stable := if nearNominal x.n f.period && decide (f.bclks = 2 * x.width) then x.stable + 1 else 0 }.countEdges f

/-- Tracked rate offset from nominal in units of 0.1 ppm, from the mean of some frame periods (R303, R314; log 30). -/
def driftOf (n : Nat) (ps : List Nat) : W16 :=
  BitVec.ofInt 16 ((2000000 * ps.length * 10000000 : Int) / (n * sumList ps : Nat) - 10000000)

/-- The detector of R313 over a frame's two words. -/
def Port.detect (x : Port) (f : PortFrame) : Bool × Port :=
  let a := upper16 x.width f.slot0
  let b := upper16 x.width f.slot1
  let hit := (match x.audioWord with | some z => preamble z a | none => false) || preamble a b
  let x := { x with audioWord := some b }
  if hit then (!x.nonaudio, { x with nonaudio := true, holdLeft := 8192, windowBad := true })
  else (false, if x.nonaudio then { x with holdLeft := x.holdLeft - 1 } else x)

/-- An open line that has not followed the bias for 64 frames is closed again, the data line and the clock line each by
itself (R318). -/
def Port.closeLine (x : Port) : Port :=
  let x := if !x.openClock then x
    else if 64 ≤ x.clockClear + 1 then { x with openClock := false, clockClear := 0 }
    else { x with clockClear := x.clockClear + 1 }
  if !x.openLine then x
  else if 64 ≤ x.openClear + 1 then { x with openLine := false, openClear := 0, windowBad := true }
  else { x with openClear := x.openClear + 1 }

/-- PORT_FRAME_IN: a frame completes on an input port, or at a slave port's pins. -/
def Hw.frameIn (h : Hw) (p : Nat) (f : PortFrame) : Hw :=
  let old := h.port p
  if !h.portOn p || (!old.slave && old.isOutput) then h
  else
    let x := if old.slave then old.measure f else old
    -- input: the detector, and the frame of a master port in its capture window
    let x := x.closeLine
    let (hold, x) := if x.isOutput then (false, x) else x.detect f
    let x := if !x.isOutput && !x.slave && h.ex.running && x.state == .running then { x with frames := x.frames ++ [(f.slot0, f.slot1)] } else x
    let h := h.setPort p x
    let h := if hold then h.portCause p 8 else h
    if !x.slave then h
    else
      match x.clockCauses old with
      | c :: cs => (c :: cs).foldl (fun a k => a.mutePort p k) h
      | [] => if x.locked then h.modPort p (fun y => { y with tracked := sumList y.periods / y.periods.length, drift := driftOf y.n y.periods }) else h

def execPortFrameIn (port : Fin 16) (f : PortFrame) (s : State) : Host.Outcome State Fault Refusal :=
  .next { s with hw := s.hw.frameIn port f }

/-- NONAUDIO_HOLD_END: 8,192 frames have completed without the pair (R313). -/
def execNonaudioHoldEnd (port : Fin 16) (s : State) : Host.Outcome State Fault Refusal :=
  .next { s with hw := s.hw.modPort port (fun x => if x.nonaudio && x.holdLeft == 0 then { x with nonaudio := false } else x) }

/-- CLOCK_STOP: no word-select edge for two frame periods; a clock that stays stopped is no new cause (R315, R320). -/
def Hw.clockStop (h : Hw) (p : Nat) : Hw :=
  if h.portOn p && (h.port p).slave && !(h.port p).clockless then
    (h.modPort p (fun x => { x with periods := [], edges := (0, 0, 0), swap := false, clockless := true })).mutePort p 1
  else h

def execClockStop (port : Fin 16) (s : State) : Host.Outcome State Fault Refusal :=
  .next { s with hw := s.hw.clockStop port }

/-- DRIFT_FOLLOWER_LOCK: after 64 stable frames a slave port runs; an output port raises its level over 64 pin frames (R316). -/
def Hw.lockFollower (h : Hw) (p : Nat) (drift : W16) : Hw :=
  let x := h.port p
  if h.portOn p && x.slave && x.state == .muted && decide (64 ≤ x.stable) then
    h.setPort p { x with state := .running, locked := true, drift := drift, tracked := sumList x.periods / x.periods.length,
                         windowBad := true, ramp := if x.isOutput then 64 else 0 }
  else h

def execDriftFollowerLock (port : Fin 16) (drift : W16) (s : State) : Host.Outcome State Fault Refusal :=
  .next { s with hw := s.hw.lockFollower port drift }

/-! ### Frames out (R305, R307, R309 to R311) -/

/-- The word of slot `sl` in frame `j` of the run that plays; a dead slot is 0 (R307, R309). -/
def Port.wordAt (x : Port) (sl j : Nat) : Int :=
  if x.live sl then slotWord x.width ((x.fifo.filter (fun e => e.2.1 == sl)).map (fun e => nth 0 e.2.2 j)) else 0

/-- Admit frames of the run into the output queue, up to 4 words (R310). -/
def Port.fillQueue : Nat → Port → Port
  | 0, x => x
  | k + 1, x =>
    if 4 ≤ x.outQueue.length || x.n ≤ x.frameNo then x
    else Port.fillQueue k { x with outQueue := x.outQueue ++ [(0, x.wordAt 0 x.frameNo), (1, x.wordAt 1 x.frameNo)], frameNo := x.frameNo + 1 }

/-- Send one word past the preamble guard (R311). -/
def Port.send (x : Port) (z : Int) : Port :=
  if preamble x.lastOut (upper16 x.width z) then
    let y := z - 2 ^ (x.width - 16)
    { x with word := y, lastOut := upper16 x.width y, guarded := satAdd x.guarded 1 }
  else { x with word := z, lastOut := upper16 x.width z }

/-- Send a frame's two words: the line carries them after the last bit of the frame before (R298). -/
def Port.sendFrame (x : Port) (a b : Int) : Port :=
  let y := x.send a
  let z := y.send b
  { z with word0 := y.word, prevWord := x.word }

/-- The bytes that an output port's FIFO holds: the frames of the playing run that its queue has not taken, then those of the
run that plays next, each with its live slots only (R165, R308). -/
def Port.fifoContent (x : Port) : List Byte :=
  let run (y : Port) (from0 : Nat) : List (Int × Int) := (List.range (y.n - from0)).map (fun k => (y.wordAt 0 (from0 + k), y.wordAt 1 (from0 + k)))
  x.fifoBytes ((if x.fifo.isEmpty then [] else run x x.frameNo) ++ (if x.fifoNext.isEmpty then [] else run { x with fifo := x.fifoNext } 0))

/-- The bytes of the frames that an input port has captured in its window (R306, R308). -/
def Port.captureContent (x : Port) : List Byte := x.fifoBytes x.frames

/-- A pin word of a slave output port whose level still rises: `left` of the 64 frames of the ramp remain (R316). The product
is rounded down (DESIGN CHOICE, log 30). -/
def rampWord (left : Nat) (z : Int) : Int := z * (64 - left : Nat) / 64

/-- The port takes its next frame from the FIFO: the two words, or zeros when the run has been played. -/
def Port.takeFrame (x : Port) : (Int × Int) × Port :=
  let x := x.fillQueue 2
  match x.outQueue with
  | (_, a) :: (_, b) :: r => ((a, b), { x with outQueue := r }.fillQueue 2)
  | _ => ((0, 0), { x with outQueue := [] })

/-- After a link loss the FIFO plays out, and the port is then muted (R253). While the executive is stopped the FIFO
moves on by itself. -/
def Port.runOut (x : Port) : Port :=
  if !x.outQueue.isEmpty || decide (x.frameNo < x.n) then x
  else if !x.fifoNext.isEmpty then { x with fifo := x.fifoNext, fifoNext := [], frameNo := 0 }
  else if x.draining then { x.mute with fifo := [], draining := false }
  else { x with fifo := [] }

/-- The streams whose samples of frame j give a slot a word that is not finite (R65, R309). -/
def Port.nonfinite (x : Port) (sl j : Nat) : List Nat :=
  let es := x.fifo.filter (fun e => e.2.1 == sl)
  if x.live sl && slotNonfinite x.width (es.map (fun e => nth 0 e.2.2 j)) then es.map Prod.fst else []

/-- The conversion of a slot's sum sets arith_nonfinite of every stream in the sum (R65; DESIGN CHOICE, log 105). -/
def Hw.flagWords (h : Hw) (x y : Port) : Hw :=
  ((List.range (y.frameNo - x.frameNo)).flatMap (fun k => x.nonfinite 0 (x.frameNo + k) ++ x.nonfinite 1 (x.frameNo + k))).foldl
    (fun a c => a.modStream c (fun s => s.flagNan true)) h

/-- PORT_FRAME_OUT: an output port forms and sends a frame. A slave port's pin words follow its drift follower and are free,
scaled by the ramp after its lock, with its dead slots 0 (R307, R309, R316, R317); a muted port drives its data line low. -/
def Hw.frameOut (h : Hw) (p : Nat) : Hw :=
  let x := h.port p
  if !h.portOn p || !x.isOutput then h
  else
    let t := x.takeFrame
    let h := h.flagWords x t.2
    let y := if h.ex.running then t.2 else t.2.runOut
    if x.state == .muted then h.setPort p { y with word := 0, word0 := 0, prevWord := x.word, lastOut := 0 }
    else if x.slave then
      let r := Hw.freeFrames x.width 1 h
      let w := r.1.headD (0, 0)
      let pin (sl : Nat) (z : Int) : Int := if x.live sl then rampWord x.ramp z else 0
      r.2.setPort p { y.sendFrame (pin 0 w.1) (pin 1 w.2) with ramp := y.ramp - 1 }
    else h.setPort p (y.sendFrame t.1.1 t.1.2)

def execPortFrameOut (port : Fin 16) (s : State) : Host.Outcome State Fault Refusal := .next { s with hw := s.hw.frameOut port }

/-! ### Line faults (R318) -/

/-- SHORT: a driven line is shorted; all three lines go to high impedance until a retry. -/
def Hw.shorted (h : Hw) (p : Nat) : Hw :=
  let x := h.port p
  if h.decodes && (x.state == .running || x.state == .muted) && (x.isOutput || !x.slave) then
    (h.setPort p { x.halt with state := .faultDisabled }).portCause p 4
  else h

def execShort (port : Fin 16) (s : State) : Host.Outcome State Fault Refusal := .next { s with hw := s.hw.shorted port }

/-- OPEN_INPUT: an input line follows the bias in both directions. A data line invalidates the windows of an input port; a
clock line of a slave port stops its clock. -/
def Hw.openLineAt (h : Hw) (p : Nat) (dataLine : Bool) : Hw :=
  let x := h.port p
  if !h.decodes || !(x.state == .running || x.state == .muted) then h
  else if dataLine then
    if x.isOutput then h
    else
      let h := h.setPort p { x with openLine := true, openClear := 0, windowBad := true }
      if x.openLine then h else h.portCause p 5
  else if x.slave then
    let h := h.modPort p (fun x => { x with openClock := true, clockClear := 0 })
    if x.openClock then h else (h.portCause p 5).clockStop p
  else h

def execOpenInput (port : Fin 16) (dataLine : Bool) (s : State) : Host.Outcome State Fault Refusal :=
  .next { s with hw := s.hw.openLineAt port dataLine }

/-! ### FMEAS (R328 to R331) -/

/-- Prescale of a source (R328). -/
def fmeasPrescale (k : Nat) : Nat := if (1 ≤ k ∧ k ≤ 0x0A) then 16 else if k = 0x0B then 4 else 1

/-- A source code of R328. -/
def fmeasSource (k : Nat) : Bool := decide (k ≤ 0x0D) || (decide (0x10 ≤ k) && decide (k ≤ 0x1F)) || (decide (0x20 ≤ k) && decide (k ≤ 0x30))

/-- FMEAS_CTL: the write takes effect at once; start arms a measurement, also while a gate is open, and clears done (R330,
R331). It clears aborted and overflow too, which speak of the result that done held (DESIGN CHOICE, log 127). -/
def Hw.fmeasWrite (h : Hw) (w : W32) : Hw :=
  let g := w.toNat / 65536 % 32
  if decide (w &&& 0xFCE0C0C0#32 ≠ 0) || !fmeasSource (w.toNat % 64) || !fmeasSource (w.toNat / 256 % 64) || decide (g < 4) || decide (30 < g) then
    h.dropWrite 0x38
  else
    let ctl := w &&& 0xFEFFFFFF#32
    if bitOf w.toNat 24 then
      { h with fm := { h.fm with ctl := ctl, done := false, aborted := false, overflow := false, armed := true, gate := false } }
    else { h with fm := { h.fm with ctl := ctl } }

def execFmeasStart (w : W32) (s : State) : Host.Outcome State Fault Refusal :=
  .next { s with hw := s.hw.whenAlive (fun h => h.fmeasWrite w) }

/-- FMEAS_GATE_OPEN: the first prescaled gate edge after a start. -/
def execFmeasGateOpen (s : State) : Host.Outcome State Fault Refusal :=
  .next { s with hw := if s.hw.decodes && s.hw.fm.armed then { s.hw with fm := { s.hw.fm with armed := false, gate := true } } else s.hw }

/-- FMEAS_GATE_CLOSE: the gate closes with a number of edges counted; continuous restarts at once. -/
def Hw.fmeasClose (h : Hw) (n : Nat) : Hw :=
  if h.decodes && h.fm.gate then
    { h with fm := { h.fm with
        count := BitVec.ofNat 40 (min n (2 ^ 40 - 1)), overflow := decide (2 ^ 40 ≤ n), done := true, aborted := false, gate := false
        armed := bitOf h.fm.ctl.toNat 25 } }
  else h

def execFmeasGateClose (count : Nat) (s : State) : Host.Outcome State Fault Refusal := .next { s with hw := s.hw.fmeasClose count }

/-- An aborted measurement sets done and aborted and leaves the count at 0; a continuous one starts again (R329, R331). One that
is armed but whose gate has not opened is aborted alike (DESIGN CHOICE, log 127). -/
def Fmeas.abort (m : Fmeas) : Fmeas :=
  if m.armed || m.gate then { m with done := true, aborted := true, count := 0, overflow := false, armed := bitOf m.ctl.toNat 25, gate := false } else m

/-- FMEAS_ABORT: the gate has not completed within 10 s. -/
def execFmeasAbort (s : State) : Host.Outcome State Fault Refusal :=
  .next { s with hw := if s.hw.decodes then { s.hw with fm := s.hw.fm.abort } else s.hw }

end Sys2Proof.Machine
end

