-- ==== Sys2Proof/Machine/Warden.lean ====
section
/-!
DEFINITION. The Warden: policy, sensing, filters, rules, throttle, power cap, SAFE and the hardware trip (R345 to R363, R376).
-/
namespace Sys2Proof.Machine

/-! ### WARDEN_POLICY (R349 to R351) -/

/-- Channel groups of one unit and signedness, as first channel and last (R345). -/
def channelGroups : List (Nat × Nat) :=
  [(0x00, 0x48), (0x50, 0x5B), (0x60, 0x6B), (0x70, 0x70), (0x71, 0x71), (0x72, 0x72), (0x73, 0x73), (0x74, 0x74),
   (0x78, 0x79), (0x7C, 0x7C), (0x7D, 0x7D), (0x80, 0x8F), (0x90, 0x9F)]

/-- Channels whose codes are two's complement. -/
def signedChannel (n : Nat) : Bool := decide (n ≤ 0x48) || n == 0x70 || n == 0x78 || n == 0x79

/-- A span lies within one group. -/
def spanOk (first count : Nat) : Bool :=
  decide (1 ≤ count) && decide (count ≤ 64) && channelGroups.any (fun g => decide (g.1 ≤ first) && decide (first + count ≤ g.2 + 1))

/-- Every field of an enabled rule lies in its range, whatever its action (R349, R351). -/
def ruleOk (w0 w2 w3 : Nat) : Bool :=
  let m := w2 / 4096 % 32
  spanOk (w0 / 256 % 256) (w0 / 65536 % 256) && decide (0 < w0 / 16777216) && decide (w2 % 8 ≤ 3)
  && decide (2 ≤ m) && decide (m ≤ 16) && decide (m % 2 = 0) && decide (0 < w3 % 65536)

/-- Reserved bits of word `k` of a rule. -/
def ruleReserved (k : Nat) : Nat := match k with | 0 => 0xF8 | 2 => 0xFFF00000 | 3 => 0xFFFF0000 | _ => 0

/-- The words of the policy after a write of some of them, by block offset. -/
def policyAfter (t : Table W32) (ws : List (Nat × W32)) : Table W32 := ws.foldl (fun a e => tput 0 a (e.1 / 4) e.2) t

/-- The written words fit the entry at block offset `e`: no reserved bit, and every field in range where the entry is
left enabled (R349). -/
def policyFits (t : Table W32) (ws : List (Nat × W32)) (e : Nat) : Bool :=
  let w (k : Nat) : Nat := (tget 0 (policyAfter t ws) (e / 4 + k)).toNat
  if e < 0x280 then
    ws.all (fun x => decide (x.2.toNat &&& 0xFFFFFE0C = 0)) && (!(bitOf (w 0) 8) || decide (w 0 / 16 % 16 ≤ 12))
  else
    ws.all (fun x => decide (x.2.toNat &&& ruleReserved ((x.1 - e) / 4) = 0))
    && (!(bitOf (w 0) 0) || ruleOk (w 0) (w 2) (w 3))

/-- The offset of the entry that a block offset lies in: 4 B filter entries, 16 B rules. -/
def policyEntry (off : Nat) : Option Nat :=
  if off < 0x280 then some (off / 4 * 4) else if 0x400 ≤ off ∧ off < 0x800 then some (off / 16 * 16) else none

/-- A write of words of one entry. `bar` is the offset of the access. -/
def Hw.policyWrite (h : Hw) (bar : Nat) (ws : List (Nat × W32)) : Hw :=
  match ws with
  | [] => h
  | x :: _ =>
    match policyEntry x.1 with
    | none => h.dropWrite bar
    | some e =>
      if !policyFits h.war.policy ws e then h.dropWrite bar
      else ws.foldl (fun a y => a.latch (.policy y.1 y.2)) { h with war := { h.war with policy := policyAfter h.war.policy ws } }

def execWardenPolicyWrite (off : Nat) (w : W32) (s : State) : Host.Outcome State Fault Refusal :=
  .next { s with hw := s.hw.whenAlive (fun h => h.policyWrite (0x2000 + off) [(off, w)]) }

/-! ### Sensing (R345 to R348) -/

/-- The Warden runs: it was started, 3V3_AUX is there and REFCLK runs (R347). -/
def Hw.wardenOn (h : Hw) : Bool := h.war.on && h.pwr.auxUp && h.pwr.refclk == .running

/-- Every channel is sampled: main rails on and not ASLEEP (R346). -/
def Hw.fullSensing (h : Hw) : Bool := h.pwr.railsOn && h.ex.mode != .asleep

/-- The engines are on: the Warden's throttle, hold and SAFE have a target (R363). -/
def Hw.enginesOn (h : Hw) : Bool := h.fullSensing && h.pwr.booted && !h.pwr.perst

/-- The module has reached READY: the actions of rules that tripped with the engines off apply from here (R363). -/
def Hw.reachedReady (h : Hw) : Bool := h.enginesOn && h.ex.mode != .holding

/-- The PLLs of R322 in its order: arithmetic, fabric, control, audio and the link's. The model locks and releases them
together (DESIGN CHOICE, log 123). -/
def Hw.pllBits (h : Hw) : Nat := if h.pwr.pllsLocked then 0x1F else 0

/-- Channel n is sampled in the power state and enabled by its filter entry. -/
def Hw.samples (h : Hw) (n : Nat) : Bool :=
  (h.fullSensing || (decide (0x70 ≤ n) && decide (n ≤ 0x7D)) || (decide (0x80 ≤ n) && decide (n ≤ 0x9F)))
  && bitOf (tget 0 h.war.policyNow n).toNat 8

/-- A raw code as a number. -/
def codeValue (n : Nat) (w : W16) : Int := if signedChannel n then w.toInt else (w.toNat : Int)

/-- Product of voltage in 10 mV and current in mA, in 0.1 W, as a 16-bit code (R345; DEDUCED, log 26). -/
def inputPower (v : Int) (i : Nat) : Int := max 0 (min 65535 (v * i / 10000))

/-- The code that channel n yields in a scan: the device's own figure where the state holds it, otherwise the sensor's. A
port that is no input port decodes no slot word (R345). -/
def Hw.code (h : Hw) (codes : List W16) (n : Nat) : Int :=
  let raw (k : Nat) : W16 := codes.getD k 0
  match n with
  | 0x48 => h.mem.polled.toInt
  | 0x72 => inputPower (raw 0x70).toInt (raw 0x71).toNat
  | 0x7C => (h.war.refEvents.toNat : Int)
  | 0x7D => (h.pllBits : Int)
  | _ => if 0x90 ≤ n ∧ n ≤ 0x9F ∧ (h.port (n - 0x90)).isOutput then 0 else codeValue n (raw n)

/-- The median of an odd number of codes. -/
def median (xs : List Int) : Int := (sortBy (fun x => (x + 65536).toNat) xs).getD (xs.length / 2) 0

/-- One scan of a channel through its filter (R348). -/
def Channel.scan (c : Channel) (entry : Nat) (x : Int) : Channel :=
  let win := if c.sampled then (x :: c.win).take 7 else List.replicate 7 x
  let m := median (win.take (2 * (entry % 4) + 1))
  let y := if c.sampled then c.y + (m * 256 - c.y) / 2 ^ (entry / 16 % 16) else m * 256
  { c with raw := x, win := win, y := y, filtered := y / 256, sampled := true }

def Hw.chan (h : Hw) (n : Nat) : Channel := tget Channel.reset h.war.chans n
def Hw.setChan (h : Hw) (n : Nat) (c : Channel) : Hw := { h with war := { h.war with chans := tput Channel.reset h.war.chans n c } }

/-- Sample channel n, or mark it as not sampled. -/
def Hw.sense (h : Hw) (codes : List W16) (n : Nat) : Hw :=
  if h.samples n then h.setChan n ((h.chan n).scan (tget 0 h.war.policyNow n).toNat (h.code codes n))
  else if (h.chan n).sampled then h.setChan n { h.chan n with sampled := false }
  else h

/-- A coolant channel's fault: 3 consecutive codes out of range set it, 1,000 in range clear it (R362). -/
def Channel.coolant (c : Channel) : Channel :=
  if !c.sampled then c
  else if decide (c.raw < -640) || decide (2400 < c.raw) then
    { c with bad := c.bad + 1, good := 0, fault := c.fault || decide (3 ≤ c.bad + 1) }
  else { c with bad := 0, good := c.good + 1, fault := c.fault && decide (c.good + 1 < 1000) }

/-- Both coolant channels; a change acts at the next boundary, and the rules over a faulted channel stop at once (R362). -/
def Hw.coolants (h : Hw) : Hw :=
  let h := (h.setChan 0x78 (h.chan 0x78).coolant)
  let h := (h.setChan 0x79 (h.chan 0x79).coolant)
  let i := (h.chan 0x78).fault
  let o := (h.chan 0x79).fault
  let h := { h with war := { h.war with inletFault := i, outletFault := o
                                        coolPending := h.war.coolPending || i != h.war.inletFault || o != h.war.outletFault } }
  { h with war := { h.war with rules := (List.range 64).foldl (fun t k =>
      if h.coolOff k then tput RuleRun.reset t k { tget RuleRun.reset t k with off := true } else t) h.war.rules } }

/-! ### Rules (R352 to R354, R363) -/

def Hw.rule (h : Hw) (i : Nat) : RuleRun := tget RuleRun.reset h.war.rules i

/-- Rule i is evaluated: it is enabled and no faulted coolant channel disables it (R362). -/
def Hw.ruleOn (h : Hw) (i : Nat) : Bool := bitOf (h.ruleWord i 0) 0 && !(h.rule i).off && !h.coolOff i

def Hw.ruleAction (h : Hw) (i : Nat) : Nat := h.ruleWord i 2 % 8
def Hw.ruleMin (h : Hw) (i : Nat) : Nat := h.ruleWord i 2 / 4096 % 32

/-- The channels of rule i's span. -/
def Hw.span (h : Hw) (i : Nat) : List Nat :=
  let w := h.ruleWord i 0
  (List.range (w / 65536 % 256)).map (fun k => w / 256 % 256 + k)

/-- The value of a rule's span: the largest, or with below = 1 the smallest. -/
def Hw.spanValue (h : Hw) (i : Nat) : Int :=
  let w := h.ruleWord i 0
  let vs := (h.span i).map (fun n => if bitOf w 1 then (h.chan n).raw else (h.chan n).filtered)
  match vs with
  | [] => 0
  | v :: r => r.foldl (fun a x => if bitOf w 2 then min a x else max a x) v

/-- The threshold in force: 160 lower for rules over die diodes while a coolant fault acts (R362). -/
def Hw.threshold (h : Hw) (i : Nat) : Int :=
  let w := h.ruleWord i 0
  let t := codeValue (w / 256 % 256) (BitVec.ofNat 16 (h.ruleWord i 1))
  let low := decide (w / 256 % 256 + w / 65536 % 256 ≤ 0x40) && (h.war.inletFault || h.war.outletFault || h.war.coolPending)
  if low then t - 160 else t

/-- Evaluate rule i in a scan (R352). -/
def Hw.evalRule (h : Hw) (i : Nat) : RuleRun :=
  let r := h.rule i
  if !h.ruleOn i then { r with tripped := false, count := 0, held := false }
  else if !((h.span i).all (fun n => (h.chan n).sampled)) then r
  else
    let w := h.ruleWord i 0
    let p := w / 16777216
    let v := h.spanValue i
    let t := h.threshold i
    let hy : Int := (h.ruleWord i 1 / 65536 : Nat)
    let above := if bitOf w 2 then decide (v < t) else decide (t < v)
    let back := if bitOf w 2 then decide (t + hy ≤ v) else decide (v ≤ t - hy)
    if if r.tripped then back else above then
      if p ≤ r.count + 1 then { r with tripped := !r.tripped, count := 0, held := !r.tripped && !h.enginesOn }
      else { r with count := r.count + 1 }
    else { r with count := 0 }

/-- Rule i is tripped and its action applies. -/
def Hw.acts (h : Hw) (i : Nat) : Bool := (h.rule i).tripped && !(h.rule i).held

/-- The throttle rules that hold cluster c. -/
def Hw.holders (h : Hw) (c : Nat) : List Nat :=
  (List.range 64).filter (fun i => h.acts i && h.ruleAction i == 1 && bitOf (h.ruleWord i 2) (4 + c))

/-- The image floor: the smallest even m with m × 1,751,808 ≥ 16 × W; 2 with no image (R356). -/
def Hw.floor (h : Hw) : Nat :=
  match h.ex.image with
  | none => 2
  | some i => max 2 (2 * ceilDiv (16 * imgWork i) (2 * 1751808))

/-- The lowest m that the holders of a cluster drive it to (R355, R356). -/
def Hw.lowest (h : Hw) (rs : List Nat) : Nat :=
  let m := rs.foldl (fun a i => max a (h.ruleMin i)) 0
  if rs.all (fun i => bitOf (h.ruleWord i 2) 3) then m else max m h.floor

/-- A throttle step of cluster c. -/
def Hw.stepDown (h : Hw) (c : Nat) : Hw :=
  let rs := h.holders c
  if !rs.isEmpty && decide (h.lowest rs + 2 ≤ h.mOf c) then h.setM c (h.mOf c - 2) else h

/-- SAFE is decided: it is entered at the next boundary, or, while the executive is stopped, at once as a change of
DEV_STATE only; where DEV_STATE cannot change, asleep or before phase M has ended, the device comes up in SAFE (R358). -/
def Hw.decideSafe (h : Hw) : Hw :=
  let h := { h with war := { h.war with safeClear := 0 } }
  if h.ex.running then
    if h.ex.safePlan.isSome then h else { h with ex := { h.ex with safePlan := some 0 } }
  else
    let h := { h with war := { h.war with safe := true }, ex := { h.ex with start := .none } }
    if h.ex.mode == .asleep || !h.pwr.booted then h else h.setMode .safe 0x0358

/-- A die diode's raw code has reached 1,920 (R357). -/
def Hw.diodeHot (h : Hw) : Bool := (List.range 64).any (fun d => (h.chan d).sampled && decide (1920 ≤ (h.chan d).raw))

/-- A cause of SAFE stands: a low input, a diode at the trip point, or a SAFE rule. -/
def Hw.safeCause (h : Hw) : Bool := h.war.lowSafe || h.diodeHot || (List.range 64).any (fun i => h.acts i && h.ruleAction i == 3)

/-- The state of a module whose executive is stopped (R340, R358, R388, R393). -/
def Hw.restMode (h : Hw) : DevMode :=
  if h.war.safe || h.war.stuckSafe then .safe else if h.sec.listed && h.sequencerOn && !h.sec.wFailed then .ready else .holding

/-- The actions of a scan, applied together at its end (R354, R355, R363). -/
def Hw.ruleActions (h : Hw) (old : Nat → RuleRun) : Hw :=
  let is := List.range 64
  -- the actions of rules that tripped with the engines off apply from the first scan after READY
  let wakes := is.filter (fun i => (h.rule i).tripped && !(old i).tripped && bitOf (h.ruleWord i 2) 18 && !h.fullSensing)
  let fresh := is.filter (fun i => h.enginesOn && (h.rule i).tripped && (!(old i).tripped || (h.rule i).held) && (!(h.rule i).held || h.reachedReady))
  let h := { h with war := { h.war with
      rules := if h.reachedReady then is.foldl (fun t i => tput RuleRun.reset t i { tget RuleRun.reset t i with held := false }) h.war.rules else h.war.rules
      wake := h.war.wake || !wakes.isEmpty } }
  let h := is.foldl (fun a i =>
    let r := a.rule i
    if r.tripped != (old i).tripped && bitOf (a.ruleWord i 2) 19 && a.pwr.railsOn then
      a.note (entry 0x0060 (if r.tripped then 1 else 0) 0 { kind := .rule, index := i } i (Config.eventCode (b2n r.tripped)).toNat)
    else a) h
  let hit (c : Nat) : Bool := fresh.any (fun i => h.ruleAction i == 1 && bitOf (h.ruleWord i 2) (4 + c))
  let h := (List.range 8).foldl (fun a c => if hit c then a.stepDown c else a) h
  { h with war := { h.war with hold := is.any (fun i => h.acts i && (h.ruleAction i == 2 || h.ruleAction i == 3)) } }

/-- All rules of a scan, in ascending index. -/
def Hw.rules (h : Hw) : Hw :=
  let old := h.rule
  let h := { h with war := { h.war with rules := (List.range 64).foldl (fun t i => tput RuleRun.reset t i (h.evalRule i)) h.war.rules } }
  h.ruleActions old

/-! ### Input and power cap (R359, R361) -/

/-- Reversed polarity, and a filtered input below 38.00 V for 2 scans while the main rails are on. -/
def Hw.inputScan (h : Hw) : Hw :=
  let c := h.chan 0x70
  if !c.sampled then h
  else
    let h := { h with war := { h.war with reversed := h.war.reversed || decide (c.raw ≤ -100) } }
    let low := h.pwr.railsOn && decide (c.filtered < 3800)
    let n := if low then h.war.lowScans + 1 else 0
    if 2 ≤ n then { h with war := { h.war with lowScans := n, lowSafe := true, inputLow := true } }
    else { h with war := { h.war with lowScans := n, lowSafe := h.war.lowSafe && low } }

/-- The filtered input power lies above the cap in force. -/
def Hw.aboveCap (h : Hw) : Bool := (h.chan 0x72).sampled && decide ((capWatts h.capCode * 10 : Int) < (h.chan 0x72).filtered)

/-- The counts of the power-cap loop (R359, R344). -/
def Hw.capScan (h : Hw) : Hw :=
  if !h.enginesOn || !(h.chan 0x72).sampled then h
  else
    let above := h.aboveCap
    let atFloor := (List.range 8).all (fun c => decide (h.mOf c ≤ h.floor))
    let up := if above && atFloor then h.war.capOver + 1 else 0
    let down := if (h.chan 0x72).filtered + 200 ≤ (capWatts h.capCode * 10 : Int) then h.war.capUnder + 1 else 0
    let free := decide (100 ≤ down)
    { h with war := { h.war with
        overCap := h.war.overCap || above, capOver := up, capUnder := down
        capActive := (h.war.capActive || above) && !free, capHold := (h.war.capHold || decide (100 ≤ up)) && !free } }

/-! ### SAFE and its return (R358) -/

/-- A standing cause enters SAFE; 1,000 scans without one and hw_trip cleared return the device to rest. -/
def Hw.safeScan (h : Hw) : Hw :=
  if h.safeCause then
    if h.war.safe then { h with war := { h.war with safeClear := 0 } } else if h.enginesOn then h.decideSafe else h
  else if !h.war.safe then h
  else
    let h := { h with war := { h.war with safeClear := h.war.safeClear + 1 } }
    if h.war.safeClear < 1000 || h.war.hwTrip then h
    else
      let h := { h with war := { h.war with safe := false, safeClear := 0 } }
      if h.ex.mode == .safe && !h.ex.running then h.setMode h.restMode 0x0358 else h

/-- The hardware trip: every cluster goes to m = 1, and SAFE follows. It needs no firmware: nothing but the main rails
being on is asked (R357). -/
def Hw.trip (h : Hw) : Hw :=
  if !h.pwr.railsOn then h
  else
    let h := (List.range 8).foldl (fun a c => a.setM c 1) h
    ({ h with war := { h.war with hwTrip := true } }).decideSafe

/-- WARDEN_SCAN (R345 to R362). A scan that reads a diode at 120 °C finds the trip fired. -/
def Hw.scan (h : Hw) (codes : List W16) : Hw :=
  if !h.wardenOn then h
  else
    let h := if h.ex.running then h else h.latchPass isPolicy
    let h := ((List.range 160).foldl (fun a n => a.sense codes n) h).coolants
    let h := { h with war := { h.war with scans := h.war.scans + 1, refEvents := 0 } }
    let h := if h.diodeHot then h.trip else h
    h.rules.inputScan.capScan.safeScan

def execWardenScan (codes : List W16) (s : State) : Host.Outcome State Fault Refusal := .next { s with hw := s.hw.scan codes }

/-! ### Throttle timers (R355, R359) -/

/-- THROTTLE_DWELL: the shortest dwell of a cluster's rules has passed; it steps again. -/
def execThrottleDwell (cluster : Fin 8) (s : State) : Host.Outcome State Fault Refusal :=
  .next { s with hw := if s.hw.wardenOn && s.hw.enginesOn then s.hw.stepDown cluster else s.hw }

/-- No throttle rule and no cap action holds a cluster, and no die diode is at the trip point (log 29). -/
def Hw.stepsUp (h : Hw) (c : Nat) : Bool :=
  h.wardenOn && h.enginesOn && (h.holders c).isEmpty && !h.war.capActive && !h.diodeHot

/-- THROTTLE_STEP_UP: 50 ms have passed for a cluster that nothing holds; it steps up by 2, to 16 at most. -/
def execThrottleStepUp (cluster : Fin 8) (s : State) : Host.Outcome State Fault Refusal :=
  .next { s with hw := if s.hw.stepsUp cluster then s.hw.setM cluster (min 16 (s.hw.mOf cluster + 2)) else s.hw }

/-- CAP_LOOP_STEP: 10 ms have passed with the filtered input power above the cap; every cluster steps down to the floor. -/
def Hw.capStep (h : Hw) : Hw :=
  if h.wardenOn && h.enginesOn && h.aboveCap then
    (List.range 8).foldl (fun a c => if a.floor + 2 ≤ a.mOf c then a.setM c (a.mOf c - 2) else a)
      { h with war := { h.war with capActive := true, overCap := true } }
  else h

def execCapLoopStep (s : State) : Host.Outcome State Fault Refusal := .next { s with hw := s.hw.capStep }

/-! ### The hardware trip and SAFE entry (R357, R358) -/

/-- HARDWARE_TRIP: a die diode reached 120 °C. -/
def execHardwareTrip (diode : Fin 64) (s : State) : Host.Outcome State Fault Refusal :=
  .next { s with hw := if diode.val < 64 then s.hw.trip else s.hw }

/-- SAFE_ENTRY: the boundary at which a decided SAFE is entered, or the change of DEV_STATE while stopped (R358). -/
def Hw.enterSafe (h : Hw) : Hw :=
  if h.ex.running then (if h.ex.safePlan.isSome && h.ex.window == .commit then h.boundary else h)
  else if h.ex.safePlan.isSome then h.rest 0x0358
  else h

def execSafeEntry (s : State) : Host.Outcome State Fault Refusal := .next { s with hw := s.hw.enterSafe }

/-! ### The control watchdog (R376, R396) -/

/-- The trial images of a kind fail: the boot record names the other slot from the next boot, and fallback is set (R396). -/
def FwSlot.trialFails (x : FwSlot) : FwSlot :=
  if x.trial then { x with trial := false, trialTicks := 0, activeB := !x.activeB, fallback := true } else x

/-- A port when the detector fires: FIFOs and followers are cleared, output data is low, slaves start acquisition again. -/
def Port.clockLoss (x : Port) : Port :=
  let x := { x with fifo := [], fifoNext := [], outQueue := [], frames := [], windowBad := true, word := if x.isOutput then 0 else x.word,
                    word0 := if x.isOutput then 0 else x.word0, lastOut := if x.isOutput then 0 else x.lastOut }
  if x.slave then
    { x with state := if x.state == .running then .muted else x.state, locked := false, tracked := 0, stable := 0, periods := [], drift := 0,
             ratioBad := 0, edges := (0, 0, 0), swap := false, clockless := false, ramp := 0 }
  else x

/-- CONTROL_WATCHDOG: 4 ticks pass with no commit. The outputs are forced, streams end without completions, and SAFE with
class 0x0A lasts until PERST# (R376). -/
def Hw.watchdog (h : Hw) : Hw :=
  if !h.wardenOn || !h.ex.running then h
  else
    -- what the tick composed is never published; stagings, commits and fences keep their completions
    let own (p : Pending) : Bool := p.r.kind == 0x09#8 || p.r.kind == 0x0A#8 || p.r.kind == 0x0B#8
    let h := ({ h with rings := { h.rings with done := h.rings.done.filter own } }).closeAll.haltExec
    let h := { h with ports := (h.ports.map (fun (e : Nat × Port) => (e.1, e.2.clockLoss))).filter (fun e => decide (e.2 ≠ Port.reset)) }
    let h := { h with pwr := { h.pwr with forcedSafe := true, masterBclk := false, tickPulse := false }
                      ex := { h.ex with fault := 0x0A, safePlan := none, safeTick := false, linkLost := false }
                      war := { h.war with stuckSafe := true }
                      sec := { h.sec with fw := h.sec.fw.map (fun (e : Nat × FwSlot) => (e.1, e.2.trialFails)) } }
    h.saveRecord.setMode .safe 0x0A

def execControlWatchdog (s : State) : Host.Outcome State Fault Refusal := .next { s with hw := s.hw.watchdog }

end Sys2Proof.Machine
end

