-- ==== Sys2Proof/Machine/Power.lean ====
section
/-!
DEFINITION. Boot phases, resets, power states, supplies, link events, REFCLK loss and TICKSYNC (R186 to R188, R232, R242,
R253, R254, R332 to R340, R361, R388, R389, R422, R438, R439).
-/
namespace Sys2Proof.Machine

/-! ### Phase W (R388) -/

/-- A policy from the blob: entries that the rule of R349 refuses stay 0 (R349, R398). -/
def blobPolicy (blob : List Byte) : Table W32 :=
  let w (o : Nat) : W32 := BitVec.ofNat 32 (leField blob (0x260 + o) 4)
  let t := (List.range 160).foldl (fun t n =>
    let ws := [(4 * n, w (4 * n))]
    if policyFits t ws (4 * n) then policyAfter t ws else t) []
  (List.range 64).foldl (fun t i =>
    let e := 0x400 + 16 * i
    let ws := (List.range 4).map (fun k => (e + 4 * k, w (640 + 16 * i + 4 * k)))
    if policyFits t ws e then policyAfter t ws else t) t

/-- Some table row names this hardware revision and the Warden image's version (W4). -/
def namesWarden (table : List Byte) (war : W32) : Bool :=
  (List.range (min (leField table 0 4) 1024)).any (fun i =>
    leField table (0x40 + i * 0x20) 1 == Config.hwRev.toNat && leField table (0x48 + i * 0x20) 4 == war.toNat)

/-- 3V3_AUX comes into range: the address straps are read (R438, R440). -/
def Hw.auxRises (h : Hw) : Hw :=
  if h.pwr.auxUp then h else { h with pwr := { h.pwr with auxUp := true, smbAddr := Config.smbStraps } }

/-- PHASE_W: 3V3_AUX has risen and REFCLK is stable; the table, the blob and the Warden image are verified, and the Warden
starts with the policy of the blob. -/
def Hw.phaseW (h : Hw) : Hw :=
  if h.pwr.wDone || h.pwr.refclk != .running then h
  else
    let h := h.auxRises.loadRecord
    let h := ((h.bootKind 2).bootKind 3).bootKind 1
    let ok := match h.running? 2, h.running? 3, h.running? 1 with
      | some t, some _, some w => namesWarden (objPayload t) (objVersion w)
      | _, _, _ => false
    let policy := if (h.running? 3).isSome then blobPolicy h.blob else []
    { h with pwr := { h.pwr with wDone := true }
             war := { Warden.reset with on := ok, policy := policy, policyNow := policy }
             sec := { h.sec with
               fw := if ok then h.sec.fw else tput FwSlot.reset h.sec.fw 1 { h.fwSlot 1 with runs := none }
               wFailed := !ok, wHashes := [2, 3, 1].filterMap (fun k => (h.running? k).map (fun o => (k, objVersion o, signedHash o))) } }

def execPhaseW (s : State) : Host.Outcome State Fault Refusal := .next { s with hw := s.hw.phaseW }

/-! ### The main reset (R254, R395, R407) -/

/-- A STAGE that a reset interrupts leaves the inactive slot invalid; update states and trials' counts start again. -/
def FwSlot.interrupt (x : FwSlot) (staging : Bool) : FwSlot :=
  let x := if staging then { x.setInactive x.inactive false with staged := false } else x
  { x with update := 0, err := 0, trialTicks := 0 }

/-- Everything but the Warden, the supplies, the flash and what phase W holds returns to its reset value. -/
def Hw.mainReset (h : Hw) : Hw :=
  { Hw.reset with
    pwr := { Power.reset with auxUp := h.pwr.auxUp, wDone := h.pwr.wDone, smbAddr := h.pwr.smbAddr, inputCut := h.pwr.inputCut, railsOn := h.pwr.railsOn, pgood := h.pwr.pgood,
                              refclk := h.pwr.refclk, dstate := h.pwr.dstate }
    latches := h.latches.filter (fun e => isPolicy e.2)
    link := { LinkState.reset with posted := h.link.posted, smPtr := h.link.smPtr, smStat := h.link.smStat, smData := h.link.smData }
    war := { h.war with stuckSafe := false, overCap := false, coolPending := h.war.coolPending || h.war.inletFault || h.war.outletFault }
    sec := { Security.reset with
      fw := (List.range 4).foldl (fun t k =>
        let x := (h.fwSlot k).interrupt (h.sec.pendingKind == some k)
        tput FwSlot.reset t k (if k = 0 then { x with runs := none } else x)) []
      revoked := h.sec.revoked, boots := h.sec.boots, wHashes := h.sec.wHashes, wFailed := h.sec.wFailed
      recA := h.sec.recA, recB := h.sec.recB }
    free := h.free, picks := h.picks }

/-- PERST_ASSERT: a full reset of everything except the Warden; with the main rails off it changes nothing (R254, R439). -/
def Hw.perst (h : Hw) : Hw := if h.pwr.railsOn then { h.mainReset with pwr := { h.mainReset.pwr with perst := true, dstate := .d0 } } else h

def execPerstAssert (s : State) : Host.Outcome State Fault Refusal := .next { s with hw := s.hw.perst }

/-- The main rails go off: the Warden-only state, and memory content is lost (R211, R361). -/
def Hw.railsOff (h : Hw) : Hw :=
  let r := h.mainReset
  { r with pwr := { r.pwr with railsOn := false, pgood := false, perst := true } }

/-- PHASE_M: PERST# is deasserted with the main rails in regulation and REFCLK running (R389, R439); every measurement register
starts at zero, and phase M's items of the blob take effect (R396, R400). -/
def Hw.phaseM (h : Hw) (failed : Option (Nat × Nat)) : Hw :=
  if !h.pwr.railsOn || !h.pwr.pgood || h.pwr.booted || h.pwr.refclk != .running then h
  else
    let h := { h with pwr := { h.pwr with perst := false, booted := true, pllsLocked := true, masterBclk := true, dstate := .d0 }
                      sec := { h.sec with meas := [], mlog := [], mseq := 0, mover := false }
                      war := { h.war with wake := false } }
    (h.unseal.loadRecord.bootKind 3).bootFromM3 (failed.filter (fun e => decide (e.1 < 48)))

def execPhaseM (failedChannel : Option (Nat × Nat)) (s : State) : Host.Outcome State Fault Refusal :=
  .next { s with hw := s.hw.phaseM failedChannel }

/-! ### Supplies (R361, R438, R439) -/

/-- AUX_POWER_FAIL: 3V3_AUX falls below 3.0 V; the main rails go off and the Warden stops. -/
def Hw.auxFail (h : Hw) : Hw :=
  if !h.pwr.auxUp then h
  else
    let r := h.railsOff
    let r := { r with pwr := { r.pwr with auxUp := false, wDone := false, smbAddr := 0 }, war := .reset, latches := [] }
    let r := [1, 2, 3].foldl (fun a k => a.setFw k { a.fwSlot k with runs := none }) r
    { r with sec := { r.sec with wHashes := [], wFailed := false } }

def execAuxPowerFail (s : State) : Host.Outcome State Fault Refusal := .next { s with hw := s.hw.auxFail }

/-- MAIN_RAILS_START: both supplies have been valid for 10 ms, whichever of them came first and whether or not phase W has
run; the rails come into regulation and MOD_PGOOD is released (R361, R439). -/
def Hw.railsStart (h : Hw) : Hw :=
  let h := h.auxRises
  { h with pwr := { h.pwr with railsOn := true, pgood := true, inputCut := false } }

def execMainRailsStart (s : State) : Host.Outcome State Fault Refusal := .next { s with hw := s.hw.railsStart }

/-- RAIL_REGULATION_LOSS: MOD_PGOOD is pulled low. -/
def execRailRegulationLoss (s : State) : Host.Outcome State Fault Refusal :=
  .next { s with hw := { s.hw with pwr := { s.hw.pwr with pgood := false } } }

/-- INPUT_UNDERVOLTAGE: raw below 34.00 V; the rails go off in hardware and input_low is set. -/
def Hw.undervoltage (h : Hw) : Hw :=
  if h.pwr.railsOn then { h.railsOff with war := { h.railsOff.war with inputLow := true } } else h

def execInputUndervoltage (s : State) : Host.Outcome State Fault Refusal := .next { s with hw := s.hw.undervoltage }

/-- INPUT_OVERVOLTAGE: raw above 62.00 V; the rails go off and the input stage disconnects. -/
def Hw.overvoltage (h : Hw) : Hw :=
  let r := if h.pwr.railsOn then h.railsOff else h
  { r with pwr := { r.pwr with inputCut := true } }

def execInputOvervoltage (s : State) : Host.Outcome State Fault Refusal := .next { s with hw := s.hw.overvoltage }

/-! ### Function power states (R254, R340, R363) -/

/-- The port logic goes off, and comes back with the ports that are enabled. -/
def Hw.portsOff (h : Hw) : Hw := (h.ports.map Prod.fst).foldl (fun a p => a.modPort p Port.halt) h
def Hw.portsOn (h : Hw) : Hw :=
  (h.ports.map Prod.fst).foldl (fun a p => a.modPort p (fun x => if x.enabled && x.state != .faultDisabled then x.begin else x)) h

/-- D3HOT_ENTRY: ASLEEP with the memories in self-refresh; refused while the executive runs or starts. -/
def Hw.d3hot (h : Hw) : Hw :=
  if !h.alive then h
  else if h.ex.running || h.ex.start != .none then h.refused (Config.eventCode 0x0254).toNat
  else
    let h := (h.setMode .asleep 0x0254).portsOff
    let h := h.enterSelfRefresh
    { h with pwr := { h.pwr with dstate := .d3hot, pllsLocked := false, masterBclk := false, tickPulse := false } }

def execD3hotEntry (s : State) : Host.Outcome State Fault Refusal := .next { s with hw := s.hw.d3hot }

/-- D3COLD_ENTRY: the main rails go off. -/
def Hw.d3cold (h : Hw) : Hw :=
  if h.pwr.railsOn then { h.railsOff with pwr := { h.railsOff.pwr with dstate := .d3cold } } else h

def execD3coldEntry (s : State) : Host.Outcome State Fault Refusal := .next { s with hw := s.hw.d3cold }

/-- D0_ENTRY: ASLEEP is left; the memories hold what they held, and WAKE_N is released. -/
def Hw.d0 (h : Hw) : Hw :=
  if h.ex.mode != .asleep || h.pwr.dstate != .d3hot || !h.pwr.railsOn || h.pwr.refclk != .running then h
  else
    let h := { h.exitSelfRefresh with pwr := { h.pwr with dstate := .d0, pllsLocked := true, masterBclk := true }
                                      war := { h.war with wake := false } }
    (h.setMode h.restMode 0x0340).portsOn

def execD0Entry (s : State) : Host.Outcome State Fault Refusal := .next { s with hw := s.hw.d0 }

/-! ### The link (R232, R242, R253, R254, R422) -/

/-- LINK_TRAINED: the negotiated rate and width. -/
def Hw.trained (h : Hw) (rate width : BitVec 4) : Hw :=
  if h.pwr.railsOn && !h.pwr.perst && decide (rate.toNat ≤ 6) && decide (width.toNat ≤ 4) then
    { h with link := { h.link with up := true, rate := rate, width := width } }
  else h

def execLinkTrained (rate width : BitVec 4) (s : State) : Host.Outcome State Fault Refusal := .next { s with hw := s.hw.trained rate width }

/-- The tick in progress is finished and committed internally, and the executive stops at that commit; in the commit window
it stops at once (R253). -/
def Hw.loseLink (h : Hw) : Hw :=
  if !h.ex.running then h
  else if h.ex.window == .commit && !h.ex.rerun then h.linkStop
  else { h with ex := { h.ex with linkLost := true } }

/-- LINK_DOWN. -/
def execLinkDown (s : State) : Host.Outcome State Fault Refusal :=
  .next { s with hw := ({ s.hw with link := { s.hw.link with up := false } }).loseLink }

/-- TAG_SPACE_CHANGE: every credit is kept; a sum above a narrower pool is recorded once. -/
def Hw.tagChange (h : Hw) (tags : BitVec 2) : Hw :=
  if !h.pwr.booted || decide (tags = 3) then h
  else
    let n := { h with link := { h.link with tags := tags } }
    (if n.ordinaryPool < h.ordinaryPool && decide (n.ordinaryPool < n.creditSum) then n.refused 0x18 else n).issueReads

def execTagSpaceChange (tags : BitVec 2) (s : State) : Host.Outcome State Fault Refusal := .next { s with hw := s.hw.tagChange tags }

/-- Send the message of every pending vector that is no longer masked, and clear its pending bit (R242). -/
def Hw.sendPending (h : Hw) : Hw :=
  (h.msix.filter (fun e => e.2.pending && !e.2.masked && h.link.msixOn && !h.link.funcMask)).foldl (fun a e =>
    ({ a with msix := tput MsixEntry.reset a.msix e.1 { e.2 with pending := false } }).post (.msix e.1 e.2.addr e.2.data)) h

/-- MSIX_UNMASK: a vector's mask clears, or the function mask does; clearing the function mask stands for the write of
Message Control that also sets MSI-X Enable (DESIGN CHOICE, log 32). -/
def Hw.unmask (h : Hw) (v : Option (Fin 512)) : Hw :=
  match v with
  | some k => if h.alive then ({ h with msix := tput MsixEntry.reset h.msix k { tget MsixEntry.reset h.msix k with masked := false } }).sendPending else h
  | none => if h.pwr.booted then ({ h with link := { h.link with msixOn := true, funcMask := false } }).sendPending else h

def execMsixUnmask (v : Option (Fin 512)) (s : State) : Host.Outcome State Fault Refusal := .next { s with hw := s.hw.unmask v }

/-- Configuration space after a Function Level Reset: AER's status, masks, severities and header are sticky (PRESUMED, log 89). -/
def PciConfig.flr (p : PciConfig) : PciConfig :=
  { PciConfig.reset with uncStatus := p.uncStatus, uncMask := p.uncMask, uncFatal := p.uncFatal, corStatus := p.corStatus, corMask := p.corMask, header := p.header }

/-- FUNCTION_LEVEL_RESET or hot reset, in any power state that answers it: as a link loss, and queue, MSI-X and XFER_MODE
registers return to reset; reads in flight are abandoned, with the stagings they served (R254; DEDUCED, log 33). -/
def Hw.flr (h : Hw) : Hw :=
  if !h.pwr.booted || h.pwr.perst then h
  else
    let h := h.cat.staging.foldl (fun a g =>
      a.setVslot g.trunk g.idx g.slot (if g.restore then { a.vslot g.trunk g.idx g.slot with restoring := false } else VSlot.reset)) h
    let h := { h with
      qs := [], msix := [], rings := .reset, cat := { h.cat with staging := [] }
      latches := h.latches.filter (fun e => match e.2 with | .credit _ _ => false | _ => true)
      link := { h.link with legacy := false, tags := 0, msixOn := false, funcMask := false, raise := [], urgentWait := [], urgentOut := []
                            turn := LinkState.reset.turn, pci := h.link.pci.flr }
      mem := if h.mem.loadBusy then { h.mem with loadBusy := false, loadDone := true, loadErr := true } else h.mem }
    h.loseLink

def execFunctionLevelReset (s : State) : Host.Outcome State Fault Refusal := .next { s with hw := s.hw.flr }

/-! ### REFCLK (R332 to R338) -/

/-- REFCLK_DETECTOR_FIRE: the safe states of R333; the tick in progress is abandoned and runs again; a start sequence
begins its tests again (R31, R333; DEDUCED, log 34). -/
def Hw.detector (h : Hw) : Hw :=
  let h := { h with war := { h.war with refEvents := h.war.refEvents + 1 } }
  if h.pwr.refclk != .running then h
  else
    { h with
      pwr := { h.pwr with refclk := .holdover, syncTimeout := false, tickPulse := false, masterBclk := false }
      ex := { h.ex with rerun := h.ex.rerun || h.ex.running, start := if h.ex.start == .none then .none else .testing }
      mem := { h.mem with nearSelf := true }
      fm := h.fm.abort
      ports := (h.ports.map (fun (e : Nat × Port) => (e.1, e.2.clockLoss))).filter (fun e => decide (e.2 ≠ Port.reset)) }

def execRefclkDetectorFire (s : State) : Host.Outcome State Fault Refusal := .next { s with hw := s.hw.detector }

/-- HOLDOVER_END: far memory has entered self-refresh, after an all-bank refresh of every channel, and the PLLs stop (R333). -/
def execHoldoverEnd (s : State) : Host.Outcome State Fault Refusal :=
  .next { s with hw := if s.hw.pwr.refclk == .holdover then
                         { s.hw.farToSelf with pwr := { s.hw.pwr with refclk := .stopped, pllsLocked := false } }
                       else s.hw }

/-- REFCLK_RETURN: after 1 ms without an event the PLLs relock, the Warden resumes and the memories leave self-refresh.
Where the link is down, or was at any time in the outage, a running executive stops; a follower waits for its source's edge (R335, R338). -/
def Hw.clockBack (h : Hw) (linkUp : Bool) : Hw :=
  if h.pwr.refclk == .running then h
  else
    let h := if h.ex.mode == .asleep then { h with mem := { h.mem with nearSelf := true } } else h.exitSelfRefresh
    let h := { h with
      pwr := { h.pwr with refclk := .running, pllsLocked := h.pwr.booted && h.ex.mode != .asleep }
      link := { h.link with up := h.link.up && linkUp } }
    if !h.ex.running then h
    else if !h.link.up || h.ex.linkLost then h.linkStop
    else if h.ts.ctlNow.toNat % 4 = 2 then { h with pwr := { h.pwr with syncTimeout := true } }
    else h

def execRefclkReturn (linkUp : Bool) (s : State) : Host.Outcome State Fault Refusal := .next { s with hw := s.hw.clockBack linkUp }

/-! ### TICKSYNC (R187, R188, R335) -/

/-- A tick with no edge: Missing, sticky and counted (R188). -/
def Hw.syncMissing (h : Hw) : Hw :=
  { h with ts := { h.ts with sync := 2, missing := true, e := 0x8000, slips := [] }
           cnt := { h.cnt with syncMissing := h.cnt.syncMissing + 1 } }

/-- REFCLK_RETURN_SYNC_TIMEOUT: no edge within 10 ms; the follower takes its own boundary and counts one missing tick. It
follows R188 from the next tick (R335). -/
def execRefclkReturnSyncTimeout (s : State) : Host.Outcome State Fault Refusal :=
  .next { s with hw := if s.hw.pwr.syncTimeout then
                         let h := s.hw.syncMissing
                         { h with pwr := { h.pwr with syncTimeout := false }, ts := { h.ts with own := true } }
                       else s.hw }

/-- The executive runs as a follower that measures in this tick. -/
def Hw.follows (h : Hw) : Bool := h.decodes && h.ex.running && !h.ex.rerun && !h.ts.own && decide (h.ts.ctlNow.toNat % 4 = 2)

/-- Values that agree within 2 (DEDUCED, log 31). -/
def agree (xs : List Int) : Bool := xs.all (fun a => xs.all (fun b => decide (a - b ≤ 2)))

/-- The measurement of R188. -/
def Hw.measureEdge (h : Hw) (e : Int) : Hw :=
  if decide (e < -8192) || decide (8192 < e) then h.syncMissing
  else if decide (-2 ≤ e) && decide (e ≤ 2) then { h with ts := { h.ts with sync := 1, e := BitVec.ofInt 16 e, slips := [] } }
  else
    let slips := (e :: h.ts.slips).take 4
    let h := { h with ts := { h.ts with sync := 3, slip := true, e := BitVec.ofInt 16 e, slips := slips } }
    if decide (slips.length = 4) && agree slips then
      ({ h with ts := { h.ts with slips := [], rephase := e }, cnt := { h.cnt with rephases := h.cnt.rephases + 1 } }).note
        (entry 0x0040 0 0 moduleUnit (BitVec.ofInt 64 e).toNat 0)
    else h

/-- The delay in force, in ACLK (R186, R420). -/
def Ticksync.delay (t : Ticksync) : Int := (t.ctlNow.extractLsb' 16 11).toInt

/-- TICKSYNC_IN_EDGE: an edge, at a time in ACLK from the module's own boundary, schedules the start of a follower, gives a
returning follower its boundary, or is measured with the delay in force (R187, R188, R335, R420). -/
def Hw.syncEdge (h : Hw) (edge : Int) : Hw :=
  if !h.decodes then h
  else if h.ex.start == .waitEdge then { h with ex := { h.ex with start := .scheduled } }
  else if h.pwr.syncTimeout then { h with pwr := { h.pwr with syncTimeout := false } }
  else if h.follows then h.measureEdge (edge + h.ts.delay)
  else h

def execTicksyncInEdge (edge : Int) (s : State) : Host.Outcome State Fault Refusal := .next { s with hw := s.hw.syncEdge edge }

/-- TICKSYNC_MISSING: the measurement window ends with no edge. -/
def execTicksyncMissing (s : State) : Host.Outcome State Fault Refusal :=
  .next { s with hw := if s.hw.follows then s.hw.syncMissing else s.hw }

/-- TICKSYNC_START_TIMEOUT: a follower start gets no edge within 10 ms; the executive does not start (R187). The entry's
measured value is free, as no edge was measured (log 16). -/
def execTicksyncStartTimeout (s : State) : Host.Outcome State Fault Refusal :=
  .next { s with hw := if s.hw.ex.start == .waitEdge && s.hw.decodes then
                         ({ s.hw.takeFree.2 with ex := { s.hw.ex with start := .none } }).note (entry 0x0040 1 0 moduleUnit s.hw.takeFree.1.toNat 0)
                       else s.hw }

end Sys2Proof.Machine
end

