-- ==== Sys2Proof/Machine/Access.lean ====
section
/-!
DEFINITION. The register map: what a read of BAR0 returns, what a write at any offset of the two views does, and the SMBus
commands (R234 to R240, R402 to R432, R442).
-/
namespace Sys2Proof.Machine

/-! ### Reads: device registers (R411 to R421) -/

/-- The words of CAP_DIMS (R413). -/
def Hw.capWord (h : Hw) (k : Nat) : Nat :=
  match k with
  | 0 => 8 + 16 * 2 ^ 8 + 32 * 2 ^ 16 + 24 * 2 ^ 24 + 1152 * 2 ^ 32 + 1024 * 2 ^ 48
  | 1 => 2621440 + 67108864 * 2 ^ 32
  | 2 => 16777216 + 8 * 2 ^ 32 + 48 * 2 ^ 40 + 12800 * 2 ^ 48
  | 3 => 137438953472
  | 4 => h.farBytes
  | 5 => 256 + 512 * 2 ^ 16 + 16 * 2 ^ 32 + 7 * 2 ^ 40
  | 6 => 1751808 + 1991808 * 2 ^ 32
  | 7 => 128 + 64 * 2 ^ 8 + 8192 * 2 ^ 16 + 16 * 2 ^ 32 + 64 * 2 ^ 40
  | _ => 0

/-- The words of TICK_CTL (R416). -/
def Hw.tickWord (h : Hw) (k : Nat) : Nat :=
  if k = 0 then
    h.ex.loadState.toNat * 2 ^ 8 + b2n (h.ex.start != .none) * 2 ^ 10 + b2n h.ex.running * 2 ^ 11 + b2n h.ex.stopping.isSome * 2 ^ 12
      + h.ex.failedCheck.toNat * 2 ^ 16
  else
    match h.ex.image with
    | none => 0
    | some i =>
      match k with
      | 1 => imgS i + imgGroupLimit i * 2 ^ 16 + imgRates i * 2 ^ 32 + imgFills i * 2 ^ 40 + imgAlign i * 2 ^ 48 + imgRbits i * 2 ^ 56
      | 2 => imgMajor i + imgMinor i * 2 ^ 16 + imgWork i * 2 ^ 32
      | _ => if 8 ≤ k then (imgHash i).toNat / 2 ^ (64 * (k - 8)) % 2 ^ 64 else 0

/-- The words of MEM_CFG (R426, R427). -/
def Hw.memWord (h : Hw) (k : Nat) : Nat :=
  match k with
  | 0 => h.mem.imageSize.toNat + h.mem.voiceMax.toNat * 2 ^ 8
  | 1 => h.mem.loadAddr.toNat
  | 2 => h.mem.loadLen.toNat
  | 3 => b2n h.mem.loadDone * 2 + b2n h.mem.loadErr * 4 + b2n h.mem.loadBusy * 8
  | _ =>
    if h.farBytes = 0 then 0
    else
      match k with
      | 4 => h.dirBase
      | 5 => h.storeBase
      | 6 => h.storeGranules
      | _ => h.workBase

/-- The 4-byte words of ECC_STAT, and of its copy in the snapshot (R429). -/
def eccWord (e : EccStat) (o : Nat) : Nat :=
  if o < 0x20 then (tget 0 e.nearCorr (o / 4)).toNat
  else if o < 0x40 then (tget 0 e.nearUnc ((o - 0x20) / 4)).toNat
  else if o < 0x100 then (tget 0 e.farCorr ((o - 0x40) / 4)).toNat
  else if o < 0x1C0 then (tget 0 e.farUnc ((o - 0x100) / 4)).toNat
  else
    match o with
    | 0x1C0 => e.refetch.toNat
    | 0x1C8 => e.lastSpace.toNat
    | 0x1D0 => e.lastAddr.toNat % 2 ^ 32
    | 0x1D4 => e.lastAddr.toNat / 2 ^ 32
    | 0x1D8 => e.sramCorr.toNat
    | 0x1DC => e.sramDbl.toNat
    | _ => 0

/-- The words of FW_SLOT_STAT (R405). -/
def Hw.fwWord (h : Hw) (k : Nat) : Nat :=
  let x := h.fwSlot (k % 4)
  if k < 4 then
    b2n x.activeB + b2n x.aValid * 2 + b2n x.bValid * 4 + b2n x.fallback * 8 + b2n x.staged * 16 + b2n x.trial * 32 + x.update.toNat * 2 ^ 8
      + x.err.toNat * 2 ^ 16 + x.floor.toNat * 2 ^ 32
  else if k < 8 then (if x.aValid then (objVersion x.a).toNat else 0) + (if x.bValid then (objVersion x.b).toNat else 0) * 2 ^ 32
  else 0

/-- The words of COMPAT_VEC (R406). -/
def Hw.compatWord (h : Hw) (k : Nat) : Nat :=
  match k with
  | 0 => Config.hwRev.toNat + (h.runVersion 2).toNat * 2 ^ 32
  | 1 => (h.runVersion 0).toNat + (h.runVersion 1).toNat * 2 ^ 32
  | 2 => h.sec.abi.toNat
  | _ => b2n h.sec.listed + b2n h.stagedListed * 2

/-- A cluster is throttled. -/
def Hw.throttledBits (h : Hw) : Nat := (List.range 8).foldl (fun a c => a + b2n (decide (h.mOf c < 16)) * 2 ^ c) 0

/-- The device registers below 0x1000, as 64-bit words. -/
def Hw.lowWord (h : Hw) (o : Nat) : Nat :=
  match o with
  | 0x00 => 9 + Config.hwRev.toNat * 2 ^ 16 + 2 ^ 24 + 0x200 * 2 ^ 32
  | 0x08 => 0x0003D090 + 0x001E8480 * 2 ^ 32
  | 0x10 => h.devState.toNat
  | 0x18 => b2n h.link.legacy + h.link.tags.toNat * 2 ^ 8 + h.ordinaryPool * 2 ^ 16 + h.creditSum * 2 ^ 32
  | 0x20 => h.ts.ctl.toNat + h.ts.sync.toNat * 2 ^ 32 + b2n h.ts.missing * 2 ^ 34 + b2n h.ts.slip * 2 ^ 35 + h.ts.e.toNat * 2 ^ 48
  | 0x28 => h.pwrCap.toNat
  | 0x30 => (BitVec.ofInt 16 (h.chan 0x72).filtered).toNat + h.capLimit * 2 ^ 16 + h.throttledBits * 2 ^ 32 + b2n h.war.overCap * 2 ^ 40
  | 0x38 => h.fm.ctl.toNat
  | 0x40 => h.fm.count.toNat + b2n h.fm.done * 2 ^ 40 + b2n h.fm.aborted * 2 ^ 41 + b2n h.fm.overflow * 2 ^ 42
  | _ =>
    if 0x100 ≤ o ∧ o < 0x180 then h.tickWord ((o - 0x100) / 8)
    else if 0x200 ≤ o ∧ o < 0x400 then h.capWord ((o - 0x200) / 8)
    else if 0x400 ≤ o ∧ o < 0x440 then h.memWord ((o - 0x400) / 8)
    else if 0x800 ≤ o ∧ o < 0xA00 then eccWord h.mem.ecc (o - 0x800) + eccWord h.mem.ecc (o - 0x800 + 4) * 2 ^ 32
    else if 0xC00 ≤ o ∧ o < 0xC48 then h.fwWord ((o - 0xC00) / 8)
    else if 0xC80 ≤ o ∧ o < 0xCA0 then h.compatWord ((o - 0xC80) / 8)
    else 0

/-! ### Reads: ports, Warden, queues, MSI-X (R300 to R303, R349 to R353, R411, R423) -/

/-- The registers of a port, by offset within its 32 bytes. -/
def Hw.portWord (h : Hw) (p r : Nat) : Nat :=
  let x := h.port p
  match r with
  | 0x00 => x.ctl.toNat + x.fmt.toNat * 2 ^ 32
  | 0x08 => x.mask.toNat
  | 0x10 => x.state.code + b2n x.locked * 4 + b2n x.nonaudio * 8 + x.cause.toNat * 2 ^ 8 + x.drift.toNat * 2 ^ 32 + x.guarded.toNat * 2 ^ 48
  | _ => 0

/-- WAKE_N is asserted: a rule has driven it low, and no loss of REFCLK or stuck control plane releases it (R333, R353, R363, R376). -/
def Hw.wakeLine (h : Hw) : Bool := h.war.wake && h.pwr.refclk == .running && !h.pwr.forcedSafe

/-- ALERT_N is asserted (R333, R354, R361, R362, R376). -/
def Hw.alert (h : Hw) : Bool :=
  h.war.hwTrip || h.war.reversed || h.war.inletFault || h.war.outletFault || h.pwr.forcedSafe || h.pwr.refclk != .running
  || (List.range 64).any (fun i => (h.rule i).tripped && bitOf (h.ruleWord i 2) 17)

/-- An admission hold is in force (R353, R360). -/
def Hw.holdNow (h : Hw) : Bool := if h.ex.running then h.ex.hold else h.war.hold || h.war.capHold

/-- The words of WARDEN_STAT (R353). -/
def Hw.statWord (h : Hw) (k : Nat) : Nat :=
  let w := h.war
  if k = 0 then
    (if h.fullSensing then 0 else if h.pwr.railsOn then 1 else 2) + b2n w.hwTrip * 2 ^ 2 + b2n w.safe * 2 ^ 3 + b2n h.holdNow * 2 ^ 4
      + b2n w.inletFault * 2 ^ 5 + b2n w.outletFault * 2 ^ 6 + b2n w.reversed * 2 ^ 7 + b2n w.inputLow * 2 ^ 8 + b2n h.alert * 2 ^ 9
      + b2n h.wakeLine * 2 ^ 10 + h.floor * 2 ^ 16 + h.capCode * 2 ^ 24 + w.scans.toNat * 2 ^ 32
  else if k = 1 then (List.range 64).foldl (fun a i => a + b2n (h.rule i).tripped * 2 ^ i) 0
  else if k < 162 then
    let c := h.chan (k - 2)
    (BitVec.ofInt 16 c.filtered).toNat + (BitVec.ofInt 16 c.raw).toNat * 2 ^ 16 + b2n (!c.sampled) * 2 ^ 32 + b2n c.fault * 2 ^ 33
  else if k = 162 then (List.range 8).foldl (fun a c => a + h.mOf c * 2 ^ (5 * c)) 0
  else 0

/-- The registers of a queue pair (R423); without a verified Sequencer they read 0 (R394). -/
def Hw.queueWord (h : Hw) (q r : Nat) : Nat :=
  let x := h.queue q
  if !h.sequencerOn then 0
  else
    match r with
    | 0x00 => x.sqBase.toNat
    | 0x08 => x.sqLog.toNat + b2n x.sqOn * 2 ^ 8 + b2n x.fault * 2 ^ 9 + x.fetch.toNat * 2 ^ 16 + x.head.toNat * 2 ^ 32
    | 0x10 => x.credit.toNat + x.outstanding.toNat * 2 ^ 16
    | 0x18 => x.owner.toNat
    | 0x20 => x.cqBase.toNat
    | 0x28 => x.cqLog.toNat + b2n x.cqOn * 2 ^ 8 + b2n x.overflow * 2 ^ 9 + x.cqTail.toNat * 2 ^ 16 + x.cqHead.toNat * 2 ^ 32
        + x.waiting.length * 2 ^ 48
    | 0x30 => x.vector.toNat
    | _ => 0

/-- The MSI-X table and its pending-bit array (R411). -/
def Hw.msixWord (h : Hw) (o : Nat) : Nat :=
  let m := tget MsixEntry.reset h.msix (o / 16)
  if o % 16 = 0 then m.addr.toNat else m.data.toNat + b2n m.masked * 2 ^ 32

def Hw.pbaWord (h : Hw) (o : Nat) : Nat :=
  (List.range 64).foldl (fun a k => a + b2n (tget MsixEntry.reset h.msix (o * 8 + k)).pending * 2 ^ k) 0

/-! ### Reads: log, attestation window, snapshot (R381, R382, R402, R430 to R432) -/

/-- An ERR_LOG entry as eight 64-bit words (R382). -/
def entryWord (e : LogEntry) (k : Nat) : Nat :=
  match k with
  | 0 => e.seq.toNat
  | 1 => e.epoch.toNat
  | 2 => e.kind.toNat + e.severity.toNat * 2 ^ 16 + e.cls.toNat * 2 ^ 24 + e.unit.toNat * 2 ^ 32
  | 3 => e.merged.toNat
  | 4 => e.d0.toNat
  | 5 => e.d1.toNat
  | 6 => e.d2.toNat
  | _ => e.d3.toNat

def Hw.logWord (h : Hw) (o : Nat) : Nat :=
  if o < 64 then
    match o with
    | 0 => h.log.writeSlot.toNat + h.log.overwritten.toNat * 2 ^ 32
    | 8 => h.log.newest.toNat
    | _ => 0
  else entryWord (tget LogEntry.reset h.log.slots (o / 64)) (o % 64 / 8)

/-- An entry of the measurement log as bytes (R401). -/
def measBytes (e : MeasEntry) : List Byte :=
  natBytesLE 8 e.seq.toNat ++ natBytesLE 1 e.reg ++ natBytesLE 1 e.kind.toNat ++ natBytesLE 2 0 ++ natBytesLE 4 e.version.toNat
  ++ hashBytes e.value ++ natBytesLE 8 e.epoch.toNat ++ natBytesLE 8 0

/-- A byte of a list placed at an offset; absent bytes read 0. -/
def byteAt (bs : List Byte) (k : Nat) : Byte := bs.getD k 0

/-- A byte of ATTEST_WIN (R402, R403). -/
def Hw.attestByte (h : Hw) (o : Nat) : Byte :=
  if o < 8 then
    byteAt (natBytesLE 8 (b2n h.sec.busy * 2 + b2n h.sec.done * 4 + h.sec.error.toNat * 8 + h.sec.mlog.length * 2 ^ 16 + b2n h.sec.mover * 2 ^ 26)) o
  else if 0x40 ≤ o ∧ o < 0x80 then byteAt (hashBytes h.sec.nonce) (o - 0x40)
  else if 0x100 ≤ o ∧ o < 0x185 then (if h.sec.keyOk then byteAt Config.identityKey (o - 0x100) else 0)
  else if 0x200 ≤ o ∧ o < 0x204 then byteAt (natBytesLE 4 Config.identityCert.length) (o - 0x200)
  else if 0x400 ≤ o ∧ o < 0x2000 then byteAt Config.identityCert (o - 0x400)
  else if 0x2000 ≤ o ∧ o < 0x2384 then byteAt h.sec.report (o - 0x2000)
  else if 0x4000 ≤ o ∧ o < 0x10000 then
    match h.sec.mlog[(o - 0x4000) / 96]? with
    | some e => byteAt (measBytes e) ((o - 0x4000) % 96)
    | none => 0
  else 0

/-- A stream summary as four words; a context that is not allocated reads 0 (R432). -/
def summaryWord (x : Summary) (k : Nat) : Nat :=
  match k with
  | 0 => x.handle.toNat + x.state.toNat * 2 ^ 32 + x.phase.toNat * 2 ^ 40 + x.flags.toNat * 2 ^ 48
  | 1 => x.sample.toNat
  | 2 => x.frame.toNat + x.home.toNat * 2 ^ 32 + x.group.toNat * 2 ^ 40 + x.fifths.toNat * 2 ^ 48
  | _ => 0

/-- The counters of the snapshot (R431). -/
def Snapshot.counter (x : Snapshot) (o : Nat) : Nat :=
  match o with
  | 0x180 => x.counters.saturated.toNat
  | 0x188 => x.counters.audioLate.toNat
  | 0x190 => x.waitSpace.toNat
  | 0x198 => x.counters.exhausted.toNat
  | 0x1A0 => x.counters.transient.toNat
  | 0x1A8 => x.counters.syncMissing.toNat
  | 0x1B0 => x.counters.rephases.toNat
  | 0x1B8 => x.counters.bar2Dropped.toNat
  | 0x1C0 => x.counters.misses.toNat
  | 0x1C8 => x.counters.dropped.toNat
  | 0x1D0 => x.counters.selftests.toNat
  | _ => 0

/-- The words of SNAP_PAGE as last published (R430). -/
def Snapshot.word (x : Snapshot) (o : Nat) : Nat :=
  match o with
  | 0x00 => x.epoch.toNat
  | 0x08 => x.pubCount.toNat
  | 0x10 => b2n x.gap + x.gapCount.toNat * 2 ^ 32
  | 0x18 => x.devState.toNat
  | 0x20 => x.streamLimit.toNat + b2n x.overCap * 2 ^ 11
  | 0x40 => x.pwrCap.toNat + x.ticksync.toNat * 2 ^ 32
  | 0x48 => x.policyEpoch.toNat
  | _ =>
    if 0x80 ≤ o ∧ o < 0x180 then
      let p := tget SnapPort.reset x.ports ((o - 0x80) / 16)
      if o % 16 = 0 then p.ctl.toNat + p.fmt.toNat * 2 ^ 32 else p.mask.toNat + p.state.toNat * 2 ^ 32
    else if 0x180 ≤ o ∧ o < 0x1D8 then x.counter o
    else if 0x200 ≤ o ∧ o < 0x3E8 then eccWord x.ecc (o - 0x200) + eccWord x.ecc (o - 0x200 + 4) * 2 ^ 32
    else if 0x1000 ≤ o ∧ o < 0x9000 then summaryWord (tget Summary.reset x.streams ((o - 0x1000) / 32)) ((o - 0x1000) % 32 / 8)
    else 0

/-- BAR2 reads the snapshot and nothing else (R235, R236). -/
def Hw.bar2Word (h : Hw) (o : Nat) : Nat := if 0x100000 ≤ o ∧ o < 0x110000 then h.snap.word (o - 0x100000) else 0

/-- A naturally aligned read of 4 or 8 bytes from 64-bit words; any other access returns 0 (R236). -/
def sizedRead (word : Nat → Nat) (o size : Nat) : W64 :=
  if size = 8 ∧ o % 8 = 0 then BitVec.ofNat 64 (word o)
  else if size = 4 ∧ o % 4 = 0 then BitVec.ofNat 64 (word (o / 8 * 8) / 2 ^ (32 * (o / 4 % 2)) % 2 ^ 32)
  else 0

/-- The 64-bit word at an aligned BAR0 offset (R411). Reserved offsets and WO fields read 0 (R236). -/
def Hw.bar0Word (h : Hw) (o : Nat) : Nat :=
  if o < 0x1000 then h.lowWord o
  else if o < 0x1200 then h.portWord ((o - 0x1000) / 32) (o % 32)
  else if 0x2000 ≤ o ∧ o < 0x2800 then
    (tget 0 h.war.policy ((o - 0x2000) / 4)).toNat + (tget 0 h.war.policy ((o - 0x2000) / 4 + 1)).toNat * 2 ^ 32
  else if 0x3000 ≤ o ∧ o < 0x3518 then h.statWord ((o - 0x3000) / 8)
  else if 0x10000 ≤ o ∧ o < 0x18000 then h.queueWord ((o - 0x10000) / 0x80) (o % 0x80)
  else if 0x20000 ≤ o ∧ o < 0x22000 then h.msixWord (o - 0x20000)
  else if 0x28000 ≤ o ∧ o < 0x28040 then h.pbaWord (o - 0x28000)
  else if 0x100000 ≤ o ∧ o < 0x200000 then h.logWord (o - 0x100000)
  else if 0x200000 ≤ o ∧ o < 0x210000 then bytesToNatLE ((List.range 8).map (fun k => h.attestByte (o - 0x200000 + k)))
  else if 0x400000 ≤ o ∧ o < 0x800000 then h.bar2Word (o - 0x400000)
  else if 0x1000000 ≤ o ∧ o < 0x2000000 then bytesToNatLE (readN h.sec.window (o - 0x1000000) 8)
  else 0

/-- What a read of each view's layout gives (R236). -/
def Hw.bar0Read (h : Hw) (o size : Nat) : W64 := sizedRead h.bar0Word o size
def Hw.bar2Read (h : Hw) (o size : Nat) : W64 := sizedRead h.bar2Word o size

/-! ### Configuration space (R231, R233, R242, R252) -/

/-- A register of configuration space as 32 bits. Both BARs are 64-bit and non-prefetchable, with their sizes' low address
bits 0; BAR4 and BAR5 are absent. The layouts are the PCI Express standard's (PRESUMED, log 89). -/
def Hw.configWord (h : Hw) (r : ConfigReg) : W32 :=
  let p := h.link.pci
  match r with
  | .bar 0 => p.bar0.setWidth 32 ||| 4#32
  | .bar 1 => (p.bar0 >>> 32).setWidth 32
  | .bar 2 => p.bar2.setWidth 32 ||| 4#32
  | .bar 3 => (p.bar2 >>> 32).setWidth 32
  | .bar _ => 0
  | .deviceControl => BitVec.ofNat 32 (b2n p.relaxed * 2 ^ 4 + p.maxPayload.toNat * 2 ^ 5 + p.maxRead.toNat * 2 ^ 12)
  | .deviceControl2 => BitVec.ofNat 32 (p.timeout.toNat + b2n p.timeoutOff * 2 ^ 4)
  | .msixControl => BitVec.ofNat 32 (0x1FF + b2n h.link.funcMask * 2 ^ 14 + b2n h.link.msixOn * 2 ^ 15)
  | .aerUncStatus => p.uncStatus
  | .aerUncMask => p.uncMask
  | .aerUncSeverity => p.uncFatal
  | .aerCorStatus => p.corStatus
  | .aerControl => BitVec.ofNat 32 (b2n p.ecrcGen * 2 ^ 6 + b2n p.ecrcCheck * 2 ^ 8)
  | .aerCorMask => p.corMask
  | .aerHeader k => p.header.extractLsb' (32 * k.val) 32
  | .identity => Config.deviceId ++ Config.vendorId
  | .classCode => 0x120000#24 ++ Config.revisionId
  | .subsystem => Config.subsystemId
  | .linkCapability => BitVec.ofNat 32 (7 + 16 * 2 ^ 4 + 2 * 2 ^ 10)
  | .linkControl => BitVec.ofNat 32 (b2n p.aspmL1 * 2)

/-- The function answers requests for configuration space: phase M has ended, in any power state with the rails on (R389). -/
def Hw.configUp (h : Hw) : Bool := h.pwr.railsOn && h.pwr.booted && !h.pwr.perst

/-- The function answers requests to a view: memory requests in D0, configuration requests in every state with the rails on
once phase M has ended (R236, R389). -/
def Hw.answers (h : Hw) : View → Bool
  | .bar0 | .bar2 => h.alive
  | .config _ => h.configUp

/-- A completion with data, and its Relaxed Ordering mark. -/
structure ReadCompletion where
  data : W64
  relaxed : Bool
  deriving DecidableEq, Repr

/-- A read through a view. Every completion has Relaxed Ordering clear; in D3 the function does not answer a memory request
(R236, R249). -/
def Hw.viewRead (h : Hw) (v : View) (off size : Nat) : Option ReadCompletion :=
  if h.answers v then
    some { relaxed := false
           data := match v with
             | .bar0 => h.bar0Read off size
             | .bar2 => h.bar2Read off size
             | .config r => (h.configWord r).setWidth 64 }
  else none

/-! ### Writes (R236, R408 to R411) -/

/-- Reserved bits of the words that are read only but for sticky bits; none where the offset is reserved. A write that
sets no reserved bit has no effect on RO fields. -/
def roReserved (o : Nat) : Option W64 :=
  match o with
  | 0x00 => some 0xFFFF000000000000#64
  | 0x08 => some 0
  | 0x10 => some 0xFFFFF800FF000080#64
  | 0x40 => some 0xFFFFF80000000000#64
  | _ =>
    if 0x108 ≤ o ∧ o < 0x180 then (if 0x118 ≤ o ∧ o < 0x140 then some 0xFFFFFFFFFFFFFFFF#64 else some 0)
    else if 0x200 ≤ o ∧ o < 0x400 then
      (if o = 0x228 then some 0xFFFFF80000000000#64 else if o = 0x238 then some 0xFFFF000000000000#64
       else if 0x240 ≤ o then some 0xFFFFFFFFFFFFFFFF#64 else some 0)
    else if 0x800 ≤ o ∧ o < 0x9C0 then some 0
    else if o = 0x9C0 then some 0xFFFFFFFF00000000#64
    else if o = 0x9C8 then some 0xFFFFFFFFFFFFFFF8#64
    else if o = 0x9D0 ∨ o = 0x9D8 then some 0
    else if 0xC20 ≤ o ∧ o < 0xC40 then some 0
    else if o = 0xC80 then some 0x00000000FFFFFF00#64
    else if o = 0xC88 ∨ o = 0xC90 then some 0
    else if o = 0xC98 then some 0xFFFFFFFFFFFFFFFC#64
    else if o = 0x3008 then some 0
    else if 0x3010 ≤ o ∧ o < 0x3510 then some 0xFFFFFFFC00000000#64
    else if o = 0x3510 then some 0xFFFFFF0000000000#64
    else if 0x28000 ≤ o ∧ o < 0x28040 then some 0
    else if o = 0x100000 then some 0x00000000FFFFC000#64
    else if o = 0x100008 then some 0
    else if 0x100040 ≤ o ∧ o < 0x200000 then (if o % 64 = 0x18 then some 0xFFFFFFFF00000000#64 else some 0)
    else none

/-- A word of 4 bytes that stands alone: the upper half of an 8-byte access is reserved (log 35). -/
def Hw.lone (h : Hw) (o : Nat) (p : Part) (w : W64) (f : Hw → W32 → Hw) : Hw :=
  if !coversLo p || setsBits p w 0xFFFFFFFF00000000#64 then h.dropWrite (partOff p o) else f h (w.setWidth 32)

/-- PWR_STAT: over_cap clears by writing 1 (R344). -/
def Hw.pwrStatWrite (h : Hw) (p : Part) (w : W64) : Hw :=
  if setsBits p w 0xFFFFFE00F8000000#64 then h.dropWrite (partOff p 0x30)
  else { h with war := { h.war with overCap := h.war.overCap && !(bitOf (carried p w).toNat 40) } }

/-- FW_SLOT_STAT word k: fallback clears by writing 1 (R405). -/
def Hw.fwStatWrite (h : Hw) (k : Nat) (p : Part) (w : W64) : Hw :=
  if setsBits p w 0x00000000FF00F8C0#64 then h.dropWrite (partOff p (0xC00 + 8 * k))
  else if bitOf (carried p w).toNat 3 then h.setFw k { h.fwSlot k with fallback := false } else h

/-- WARDEN_STAT word 0: hw_trip, reversed and input_low clear by writing 1 (R353). -/
def Hw.statWrite (h : Hw) (p : Part) (w : W64) : Hw :=
  let c := (carried p w).toNat
  if setsBits p w 0x00000000FCE0F800#64 then h.dropWrite (partOff p 0x3000)
  else { h with war := { h.war with
      hwTrip := h.war.hwTrip && !(bitOf c 2), reversed := h.war.reversed && !(bitOf c 7), inputLow := h.war.inputLow && !(bitOf c 8) } }

/-- An MSI-X table entry; clearing its mask sends a pending message (R242, R411). -/
def Hw.msixWrite (h : Hw) (o : Nat) (p : Part) (w : W64) : Hw :=
  let k := o / 16
  let m := tget MsixEntry.reset h.msix k
  let put (x : MsixEntry) : Hw := { h with msix := tput MsixEntry.reset h.msix k x }
  if o % 16 = 0 then put { m with addr := merge p m.addr w }
  else if setsBits p w 0xFFFFFFFE00000000#64 then h.dropWrite (partOff p (0x20000 + o))
  else
    let v := merge p (m.data.setWidth 64 + (if m.masked then 0x100000000#64 else 0)) w
    (put { m with data := v.setWidth 32, masked := bitOf v.toNat 32 }).sendPending

/-- ATTEST_WIN: the control word, the nonce and areas that are read only (R402, R403). -/
def Hw.attestWinWrite (h : Hw) (o : Nat) (p : Part) (w : W64) : Hw :=
  if o = 0 then h.attestWrite p w
  else if 0x40 ≤ o ∧ o < 0x80 then
    let sh := 8 * (o - 0x40)
    let old := BitVec.ofNat 64 (h.sec.nonce.toNat / 2 ^ sh)
    let new := merge p old w
    { h with sec := { h.sec with nonce := BitVec.ofNat 512 (h.sec.nonce.toNat - old.toNat * 2 ^ sh + new.toNat * 2 ^ sh) } }
  else if (0x100 ≤ o ∧ o < 0x188) ∨ o = 0x200 ∨ (0x400 ≤ o ∧ o < 0x2000) ∨ (0x2000 ≤ o ∧ o < 0x2388) ∨ 0x4000 ≤ o then h
  else h.dropWrite (partOff p (0x200000 + o))

/-- The bytes of a write to the staging window (R395). -/
def Hw.windowWrite (h : Hw) (o : Nat) (p : Part) (w : W64) : Hw :=
  let bs := natBytesLE 8 w.toNat
  let (a, bs) := match p with | .lo => (o, bs.take 4) | .hi => (o + 4, bs.drop 4) | .both => (o, bs)
  { h with sec := { h.sec with window := writeN h.sec.window a bs } }

/-- The words of WARDEN_POLICY that a write covers: within a rule, both as one change. -/
def Hw.policyPart (h : Hw) (o : Nat) (p : Part) (w : W64) : Hw :=
  let lo := (o, w.setWidth 32)
  let hi := (o + 4, (w >>> 32).setWidth 32)
  match p with
  | .lo => h.policyWrite (0x2000 + o) [lo]
  | .hi => h.policyWrite (0x2000 + o + 4) [hi]
  | .both => if o < 0x400 then (h.policyWrite (0x2000 + o) [lo]).policyWrite (0x2000 + o) [hi] else h.policyWrite (0x2000 + o) [lo, hi]

/-- The registers of a port. -/
def Hw.portWrite (h : Hw) (q r : Nat) (p : Part) (w : W64) : Hw :=
  let lo (h : Hw) : Hw := h.aportCtlWrite q (w.setWidth 32)
  let hi (h : Hw) : Hw := h.aportFmtWrite q ((w >>> 32).setWidth 32)
  match r, p with
  | 0x00, .lo => lo h
  | 0x00, .hi => hi h
  | 0x00, .both => hi (lo h)
  | 0x08, _ => h.lone (portOff q 8) p w (fun a v => a.aportMaskWrite q v)
  | 0x10, _ => h.aportStatWrite q p w
  | _, _ => h.dropWrite (partOff p (portOff q r))

/-- A write of a part of the 64-bit word at an aligned BAR0 offset (R408 to R411). -/
def Hw.write64 (h : Hw) (o : Nat) (p : Part) (w : W64) : Hw :=
  if o = 0x18 then h.xferWrite p w
  else if o = 0x20 then h.ticksyncWrite p w
  else if o = 0x28 then h.lone o p w (fun a v => a.pwrCapWrite v)
  else if o = 0x30 then h.pwrStatWrite p w
  else if o = 0x38 then h.lone o p w (fun a v => a.fmeasWrite v)
  else if o = 0x100 then h.tickCtlWrite p w
  else if 0x400 ≤ o ∧ o < 0x440 then h.memCfgWrite ((o - 0x400) / 8) p w
  else if o = 0x9E0 then h.eccClearWrite p w
  else if 0xC00 ≤ o ∧ o < 0xC20 then h.fwStatWrite ((o - 0xC00) / 8) p w
  else if o = 0xC40 then h.fwCommand p w
  else if 0x1000 ≤ o ∧ o < 0x1200 then h.portWrite ((o - 0x1000) / 32) (o % 32) p w
  else if 0x2000 ≤ o ∧ o < 0x2800 then h.policyPart (o - 0x2000) p w
  else if o = 0x3000 then h.statWrite p w
  else if 0x10000 ≤ o ∧ o < 0x18000 then h.queueWrite ((o - 0x10000) / 0x80) (o % 0x80) p w
  else if 0x20000 ≤ o ∧ o < 0x22000 then h.msixWrite (o - 0x20000) p w
  else if o = 0x100010 then h.logClearWrite p w
  else if 0x200000 ≤ o ∧ o < 0x210000 then h.attestWinWrite (o - 0x200000) p w
  else if 0x1000000 ≤ o ∧ o < 0x2000000 then h.windowWrite (o - 0x1000000) p w
  else
    match roReserved o with
    | some m => if setsBits p w m then h.dropWrite (partOff p o) else h
    | none => h.dropWrite (partOff p o)

/-- A write to BAR2's layout at `o`; `off` is the offset that a dropped write is recorded with. Only doorbells act (R235, R238). -/
def Hw.bar2Write (h : Hw) (o off size : Nat) (data : W64) : Hw :=
  if o < 0x100000 then h.doorbellWrite (o / 0x1000) (o % 0x1000) size off data else h.dropWrite off

/-- Naturally aligned accesses of 4 B and 8 B only (R236). -/
def sizeOk (off size : Nat) : Bool := (size == 4 && off % 4 == 0) || (size == 8 && off % 8 == 0)

/-- A write through BAR0 (R234, R236). -/
def Hw.bar0Write (h : Hw) (off size : Nat) (data : W64) : Hw :=
  if !sizeOk off size then h.dropWrite off
  else if 0x400000 ≤ off ∧ off < 0x800000 then h.bar2Write (off - 0x400000) off size data
  else if size = 8 then h.write64 off .both data
  else if off % 8 = 0 then h.write64 off .lo (data &&& 0xFFFFFFFF#64)
  else h.write64 (off - 4) .hi (data <<< 32)

/-- The report of an error that the link corrected: its bit of the correctable status. No transfer feels it (R252; the
standard's bits, PRESUMED, log 89). -/
def Hw.aerCorrected (h : Hw) (e : LinkError) : Hw :=
  let bit : Nat := match e with | .fec => 0 | .receiver => 0 | .badDllp => 7 | .replay => 8
  { h with link := { h.link with pci := { h.link.pci with corStatus := h.link.pci.corStatus ||| (1#32 <<< bit) } } }

/-- The report of a bad request, and whether it is dropped. A failed ECRC is seen only where checking is enabled; the
standard's bits are 12, 18 and 19 (R231, R252; PRESUMED, log 89). A corrected one is sound. -/
def Hw.requestFault (h : Hw) : TlpFault → Hw × Bool
  | .none => (h, false)
  | .poisoned => (h.aer 12, true)
  | .malformed => (h.aer 18, true)
  | .ecrc => if h.link.pci.ecrcCheck then (h.aer 19, true) else (h, false)
  | .corrected e => (h.aerCorrected e, false)

/-- A write of a configuration register. MSI-X Enable and Function Mask release the messages that then may go; bit 15 of
Device Control starts a Function Level Reset; AER's status bits clear by writing 1 (R231, R233, R242, R252, R254). -/
def Hw.configWrite (h : Hw) (r : ConfigReg) (w : W32) : Hw :=
  let p := h.link.pci
  let put (p : PciConfig) : Hw := { h with link := { h.link with pci := p } }
  let w64 := w.setWidth 64
  match r with
  | .bar 0 => put { p with bar0 := (p.bar0 &&& 0xFFFFFFFF00000000#64) ||| (w64 &&& 0xFC000000#64) }
  | .bar 1 => put { p with bar0 := (p.bar0 &&& 0xFFFFFFFF#64) ||| (w64 <<< 32) }
  | .bar 2 => put { p with bar2 := (p.bar2 &&& 0xFFFFFFFF00000000#64) ||| (w64 &&& 0xFFC00000#64) }
  | .bar 3 => put { p with bar2 := (p.bar2 &&& 0xFFFFFFFF#64) ||| (w64 <<< 32) }
  | .bar _ => h
  | .deviceControl =>
    let h := put { p with relaxed := bitOf w.toNat 4, maxPayload := w.extractLsb' 5 3, maxRead := w.extractLsb' 12 3 }
    if bitOf w.toNat 15 then h.flr else h
  | .deviceControl2 => put { p with timeout := w.extractLsb' 0 4, timeoutOff := bitOf w.toNat 4 }
  | .msixControl =>
    ({ h with link := { h.link with funcMask := bitOf w.toNat 14, msixOn := bitOf w.toNat 15 } }).sendPending
  | .aerUncStatus => put { p with uncStatus := p.uncStatus &&& ~~~w }
  | .aerUncMask => put { p with uncMask := w }
  | .aerUncSeverity => put { p with uncFatal := w }
  | .aerCorStatus => put { p with corStatus := p.corStatus &&& ~~~w }
  | .aerControl => put { p with ecrcGen := bitOf w.toNat 6, ecrcCheck := bitOf w.toNat 8 }
  | .aerCorMask => put { p with corMask := w }
  | .linkControl => put { p with aspmL1 := bitOf w.toNat 1 }
  | .aerHeader _ | .identity | .classCode | .subsystem | .linkCapability => h

/-- A sound write through a view. -/
def Hw.viewWrite (h : Hw) (v : View) (off size : Nat) (data : W64) : Hw :=
  match v with
  | .bar0 => h.bar0Write off size data
  | .bar2 => h.viaBar2 (fun a => if sizeOk off size then a.bar2Write off off size data else a.dropWrite off)
  | .config r => h.configWrite r (data.setWidth 32)

/-- A dropped write through a view: a memory write is logged (R236, R238). -/
def Hw.viewDrop (h : Hw) (v : View) (off : Nat) : Hw :=
  match v with
  | .bar0 => h.dropWrite off
  | .bar2 => h.viaBar2 (fun a => a.dropWrite off)
  | .config _ => h

/-- REGISTER_WRITE: a write request to a view; a poisoned, malformed or ECRC-failed one is reported and dropped, and one of
another size or alignment is dropped (R236, R252). -/
def Hw.registerWrite (h : Hw) (v : View) (off size : Nat) (data : W64) (fault : TlpFault) : Hw :=
  let r := h.requestFault fault
  if r.2 then r.1.viewDrop v off else h.viewWrite v off size data

def execRegisterWrite (v : View) (off size : Nat) (data : W64) (fault : TlpFault) (s : State) : Host.Outcome State Fault Refusal :=
  .next { s with hw := if s.hw.answers v then s.hw.registerWrite v off size data fault else s.hw }

/-! ### SMBus (R237, R240, R442) -/

/-- The Warden's registers, which SMBus reaches in every power state (R240). -/
def wardenReach (o : Nat) : Bool := (decide (0x2000 ≤ o) && decide (o < 0x2800)) || (decide (0x3000 ≤ o) && decide (o < 0x3518))

/-- Offsets that SMBus reads (R411). -/
def smbusReads (o : Nat) : Bool :=
  decide (o < 0x48 ∧ o ≠ 0x2C ∧ o ≠ 0x3C) || (decide (0x100 ≤ o) && decide (o < 0x180)) || (decide (0x200 ≤ o) && decide (o < 0x440))
  || (decide (0x800 ≤ o) && decide (o < 0xA00)) || (decide (0xC00 ≤ o) && decide (o < 0xC48)) || (decide (0xC80 ≤ o) && decide (o < 0xCA0))
  || (decide (0x1000 ≤ o) && decide (o < 0x1200) && decide (o % 32 ≠ 0x0C) && decide (o % 32 < 0x18)) || wardenReach o
  || (decide (0x100000 ≤ o) && decide (o < 0x210000)) || (decide (0x1000000 ≤ o) && decide (o < 0x2000000))

/-- Offsets that SMBus writes: power cap, port set-up, Warden policy, attestation window (R237). -/
def smbusWrites (o : Nat) : Bool :=
  o == 0x28 || (decide (0x1000 ≤ o) && decide (o < 0x1200) && decide (o % 32 < 0x0C)) || (decide (0x2000 ≤ o) && decide (o < 0x2800))
  || (decide (0x200000 ≤ o) && decide (o < 0x210000))

/-- The main domain serves no access: the main rails are off (R240, R442). -/
def Hw.mainOff (h : Hw) : Bool := !h.pwr.railsOn

/-- A transaction at the module's address 0x5C plus the straps: served, or answered with NACK and without effect where its
PEC is wrong. One at another address is not the module's (R440, R442). -/
def Hw.smbusTake (h : Hw) (t : SmbusFrame) (f : Hw → Hw) : Hw :=
  if !h.pwr.auxUp || t.addr.toNat ≠ 0x5C + h.pwr.smbAddr.toNat then h
  else
    let h := if t.pec then f h else h
    { h with link := { h.link with smNack := !t.pec } }

/-- The pointer moves on, and the status of the access stands. -/
def Hw.smbusDone (h : Hw) (status : BitVec 8) : Hw := { h with link := { h.link with smPtr := h.link.smPtr + 4, smStat := status } }

/-- SMBUS_SET_POINTER. -/
def execSmbusSetPointer (ptr : W32) (t : SmbusFrame) (s : State) : Host.Outcome State Fault Refusal :=
  .next { s with hw := s.hw.smbusTake t (fun h => { h with link := { h.link with smPtr := ptr } }) }

/-- SMBUS_WRITE. -/
def Hw.smbusWrite (h : Hw) (data : W32) : Hw :=
  let o := h.link.smPtr.toNat
  if o % 4 ≠ 0 || (!h.mainOff && !smbusWrites o) then h.smbusDone 1
  else if h.mainOff && !(decide (0x2000 ≤ o) && decide (o < 0x2800)) then h.smbusDone 2
  else (h.bar0Write o 4 (data.setWidth 64)).smbusDone 0

def execSmbusWrite (data : W32) (t : SmbusFrame) (s : State) : Host.Outcome State Fault Refusal :=
  .next { s with hw := s.hw.smbusTake t (fun h => h.smbusWrite data) }

/-- SMBUS_READ. With status 1 the data is 0; with status 2 it is free (log 36). -/
def Hw.smbusRead (h : Hw) : Hw :=
  let o := h.link.smPtr.toNat
  let put (v : W32) (h : Hw) : Hw := { h with link := { h.link with smData := v } }
  if o % 4 ≠ 0 || (!h.mainOff && !smbusReads o) then put 0 (h.smbusDone 1)
  else if h.mainOff && !wardenReach o then put (h.takeFree.1.setWidth 32) (h.takeFree.2.smbusDone 2)
  else put ((h.bar0Read o 4).setWidth 32) (h.smbusDone 0)

def execSmbusRead (t : SmbusFrame) (s : State) : Host.Outcome State Fault Refusal :=
  .next { s with hw := s.hw.smbusTake t Hw.smbusRead }

/-- SMBUS_STATUS: the status byte is the data returned. -/
def execSmbusStatus (t : SmbusFrame) (s : State) : Host.Outcome State Fault Refusal :=
  .next { s with hw := s.hw.smbusTake t (fun h => { h with link := { h.link with smData := h.link.smStat.setWidth 32 } }) }

end Sys2Proof.Machine
end

