-- ==== Sys2Proof/Machine/Waiting.lean ====
section
/-!
DEFINITION. What waits beside a stream and takes effect in a tick of its own: lane slots, FEEDs, AUDIO_INs and planned
evictions (R136, R173, R282, R373, R458).
-/
namespace Sys2Proof.Machine

/-- The executive works on a tick whose boundary has passed. -/
def Hw.inTick (h : Hw) : Bool := h.decodes && h.ex.running && !h.ex.rerun && !h.ex.safeTick && (h.ex.window == .work || h.ex.window == .reserve)

/-- The oldest OPEN or IMPORT that waits for a lane slot takes effect when a slot is free; the later ones keep their
place behind it (R136). -/
def Hw.admitLane (h : Hw) : Hw :=
  match h.rings.laneWait with
  | [] => h
  | a :: rest =>
    let h1 := ({ h with rings := { h.rings with laneWait := [] } }).applyOne a
    { h1 with rings := { h1.rings with laneWait := h1.rings.laneWait ++ rest } }

def execLaneSlotAdmit (s : State) : Host.Outcome State Fault Refusal :=
  .next { s with hw := if s.hw.inTick && s.hw.placeLane.isSome then s.hw.admitLane else s.hw }

/-- The oldest queued FEED of a stream takes effect when its frames fit; otherwise it stays in front (R214, R458). -/
def Hw.applyQueued (h : Hw) (c : Nat) : Hw :=
  match h.stream c, h.ex.image with
  | some s, some i =>
    match s.queued with
    | [] => h
    | f :: rest =>
      let t := { s with queued := rest }
      ((h.setStream c t).markApplied f.a.seq 7).feedInto i f.a c t true
  | _, _ => h

def execFeedQueuedApply (ctx : Nat) (s : State) : Host.Outcome State Fault Refusal :=
  .next { s with hw := if s.hw.inTick then s.hw.applyQueued ctx else s.hw }

/-- One FEED that the lock held meets its stream. -/
def Hw.applyHeld (h : Hw) (i : ImageFile) (c : Nat) (f : WaitFeed) : Hw :=
  match h.stream c with
  | some s => (h.markApplied f.a.seq 7).feedInto i f.a c s false
  | none => h

/-- The FEEDs that a state lock held take effect, in decode order, at the boundary after the commit of the IMPORT that
released it (R282). They act on the imported stream, although they carry the earlier incarnation (DEDUCED, log 9). -/
def Hw.releaseHeld (h : Hw) (c : Nat) : Hw :=
  match h.stream c, h.ex.image with
  | some s, some i =>
    if s.locked || s.importSeq.isSome || (s.life != .idle && s.life != .speaking) then h
    else s.held.foldl (fun a f => a.applyHeld i c f) (h.setStream c { s with held := [] })
  | _, _ => h

def execFeedHeldRelease (ctx : Nat) (s : State) : Host.Outcome State Fault Refusal :=
  .next { s with hw := if s.hw.inTick then s.hw.releaseHeld ctx else s.hw }

/-- Codes of an AUDIO_IN container. -/
def audioBlocksOk (a : WaitAudio) (d : AudioData) : Bool :=
  match readList (.audio (audioContainer a.bits)) a.lenFirst d.list with
  | some bs => decide (bs.foldl (fun n b => n + b.length) 0 / audioContainer a.bits = a.expect) && decide (d.samples.length = a.expect)
  | none => false

/-- An AUDIO_IN's first window has come: the stream has a run in this tick that reaches its first sample, or that
window has passed (R173). -/
def windowCome (s : Stream) (a : WaitAudio) : Bool :=
  decide (a.start0.toNat < s.idx.toNat) || (s.work.run && decide (a.start0.toNat < s.idx.toNat + s.n))

/-- Samples whose index lies below the stream's next sample index. -/
def lateSamples (s : Stream) (a : WaitAudio) : Nat := min a.expect (s.idx.toNat - a.start0.toNat)

/-- The AUDIO_IN's list is read and its samples are placed; those of windows that have passed are late. A failed read
places none and completes with ABORTED, a bad list with REJECTED_FORMAT (R173, R252, R271). -/
def Hw.openAudio (h : Hw) (c : Nat) : Hw :=
  match h.stream c with
  | none => h
  | some s =>
    match s.audio.find? (fun a => !a.opened && windowCome s a) with
    | none => h
    | some a =>
      let drop := { s with audio := s.audio.filter (fun b => b.seq != a.seq) }
      match a.data with
      | .failed => (h.complete a.q a.seq opAudio a.tag a.handle stAborted 0 0).setStream c drop
      | .ok d =>
        if !audioBlocksOk a d then (h.complete a.q a.seq opAudio a.tag a.handle stFormat 0 0).setStream c drop
        else
          let late := lateSamples s a
          let h := h.complete a.q a.seq opAudio a.tag a.handle stDone (min late 65535) a.start0
          let h := { h with cnt := { h.cnt with audioLate := h.cnt.audioLate + BitVec.ofNat 64 late } }
          h.setStream c { s with audio := s.audio.map (fun b => if b.seq = a.seq then { b with opened := true } else b) }

def execAudioInFirstWindow (ctx : Nat) (s : State) : Host.Outcome State Fault Refusal :=
  .next { s with hw := if s.hw.inTick then s.hw.openAudio ctx else s.hw }

/-- The written bank of a stream whose planned eviction has this as its last output tick is copied once its run, frame
and chunk have passed their checks (R373). -/
def Hw.copyEvicted (h : Hw) (c : Nat) : Hw :=
  match h.stream c with
  | none => h
  | some s =>
    if s.plan == some h.ex.tick && s.life != .lost && !h.runIncomplete [] c s && !h.frameIncomplete [] c s && !h.chunkIncomplete [] c s then
      h.setStream c { s with work := { s.work with copied := true } }
    else h

def execEvictionCopy (ctx : Nat) (s : State) : Host.Outcome State Fault Refusal :=
  .next { s with hw := if s.hw.inTick then s.hw.copyEvicted ctx else s.hw }

end Sys2Proof.Machine
end

