-- ==== Sys2Proof/Machine/Dispatch.lean ====
section
/-!
DEFINITION. One arm per command, each a direct call of its meaning.
-/
namespace Sys2Proof.Machine

def exec (i : Instr) (s : State) : Host.Outcome State Fault Refusal :=
  match i with
  -- doorbells and link reads
  | .doorbellSqTail q w => Sys2Proof.Machine.execDoorbellSqTail q w s
  | .doorbellUrgent q w => Sys2Proof.Machine.execDoorbellUrgent q w s
  | .doorbellCqHead q w => Sys2Proof.Machine.execDoorbellCqHead q w s
  | .linkReadError t => Sys2Proof.Machine.execLinkReadError t s
  -- descriptors, as the Sequencer decodes them
  | .openStream q d => Sys2Proof.Machine.execOpenStream q d s
  | .feed q d r => Sys2Proof.Machine.execFeed q d r s
  | .bindVoice q d r => Sys2Proof.Machine.execBindVoice q d r s
  | .ctrl q d r => Sys2Proof.Machine.execCtrl q d r s
  | .stop q d => Sys2Proof.Machine.execStop q d s
  | .urgentStop q d => Sys2Proof.Machine.execUrgentStop q d s
  | .close q d => Sys2Proof.Machine.execClose q d s
  | .exportRec q d => Sys2Proof.Machine.execExportRec q d s
  | .importRec q d r => Sys2Proof.Machine.execImportRec q d r s
  | .weightStage q d r => Sys2Proof.Machine.execWeightStage q d r s
  | .weightCommit q d => Sys2Proof.Machine.execWeightCommit q d s
  | .fence q d => Sys2Proof.Machine.execFence q d s
  | .groupCreate q d r => Sys2Proof.Machine.execGroupCreate q d r s
  | .groupDissolve q d => Sys2Proof.Machine.execGroupDissolve q d s
  | .audioIn q d r => Sys2Proof.Machine.execAudioIn q d r s
  | .ringOut q d r => Sys2Proof.Machine.execRingOut q d r s
  -- the tick
  | .tickBoundary => Sys2Proof.Machine.execTickBoundary s
  | .replayReserveStart late => Sys2Proof.Machine.execReplayReserveStart late s
  | .intakeClose late => Sys2Proof.Machine.execIntakeClose late s
  | .idlePublication => Sys2Proof.Machine.execIdlePublication s
  | .cqWaitingPublish q => Sys2Proof.Machine.execCqWaitingPublish q s
  -- engines
  | .tilePassComplete tile unit feature op chk => Sys2Proof.Machine.execTilePassComplete tile unit feature op chk s
  | .groupScaleArrival tile x => Sys2Proof.Machine.execGroupScaleArrival tile x s
  | .accumulatorHandover tile accs => Sys2Proof.Machine.execAccumulatorHandover tile accs s
  | .lockSwap lock => Sys2Proof.Machine.execLockSwap lock s
  | .pumpTransferComplete pump d data e => Sys2Proof.Machine.execPumpTransferComplete pump d data e s
  | .replayStart => Sys2Proof.Machine.execReplayStart s
  | .csuPassComplete csu unit ctx op berm corrupt chk => Sys2Proof.Machine.execCsuPassComplete csu unit ctx op berm corrupt chk s
  | .bermConsume csu tag => Sys2Proof.Machine.execBermConsume csu tag s
  | .bermRelease csu => Sys2Proof.Machine.execBermRelease csu s
  | .laneIssueSlot lane => Sys2Proof.Machine.execLaneIssueSlot lane s
  | .laneStepWriteback lane corrupt chk => Sys2Proof.Machine.execLaneStepWriteback lane corrupt chk s
  | .pageInAdmit => Sys2Proof.Machine.execPageInAdmit s
  | .pageInComplete idx => Sys2Proof.Machine.execPageInComplete idx s
  | .stagePayloadVerified seq computed length shapes room readOk => Sys2Proof.Machine.execStagePayloadVerified seq computed length shapes room readOk s
  | .trunkCopyStart slot => Sys2Proof.Machine.execTrunkCopyStart slot s
  | .trunkCopyComplete slot => Sys2Proof.Machine.execTrunkCopyComplete slot s
  | .granuleRefetchComplete unit ok => Sys2Proof.Machine.execGranuleRefetchComplete unit ok s
  | .patrolScrub near unit addr e => Sys2Proof.Machine.execPatrolScrub near unit addr e s
  | .lpddrRefresh channel bank => Sys2Proof.Machine.execLpddrRefresh channel bank s
  | .refreshRatePoll multiplier temp => Sys2Proof.Machine.execRefreshRatePoll multiplier temp s
  | .zqCalibration => Sys2Proof.Machine.execZqCalibration s
  | .refreshManagement channel => Sys2Proof.Machine.execRefreshManagement channel s
  | .laneSlotAdmit => Sys2Proof.Machine.execLaneSlotAdmit s
  | .rebuildComplete ctx => Sys2Proof.Machine.execRebuildComplete ctx s
  | .feedQueuedApply ctx => Sys2Proof.Machine.execFeedQueuedApply ctx s
  | .feedHeldRelease ctx => Sys2Proof.Machine.execFeedHeldRelease ctx s
  | .audioInFirstWindow ctx => Sys2Proof.Machine.execAudioInFirstWindow ctx s
  | .fenceComplete q => Sys2Proof.Machine.execFenceComplete q s
  | .evictionCopy ctx => Sys2Proof.Machine.execEvictionCopy ctx s
  -- executive and set-up
  | .tickCtlLoad w => Sys2Proof.Machine.execTickCtlLoad w s
  | .loadCheck => Sys2Proof.Machine.execLoadCheck s
  | .tickCtlStart w => Sys2Proof.Machine.execTickCtlStart w s
  | .selftest failed => Sys2Proof.Machine.execSelftest failed s
  | .tickCtlStop w => Sys2Proof.Machine.execTickCtlStop w s
  | .memCfgWrite p w => Sys2Proof.Machine.execMemCfgWrite p w s
  | .memCfgLoadGo w => Sys2Proof.Machine.execMemCfgLoadGo w s
  | .imageCopyComplete img => Sys2Proof.Machine.execImageCopyComplete img s
  | .xferModeWrite p w => Sys2Proof.Machine.execXferModeWrite p w s
  | .sqCreditWrite q p w => Sys2Proof.Machine.execSqCreditWrite q p w s
  | .sqEnable q p w => Sys2Proof.Machine.execSqEnable q p w s
  | .sqDisable q p w => Sys2Proof.Machine.execSqDisable q p w s
  | .cqEnable q p w => Sys2Proof.Machine.execCqEnable q p w s
  | .cqDisable q p w => Sys2Proof.Machine.execCqDisable q p w s
  | .cqVectorWrite q p w => Sys2Proof.Machine.execCqVectorWrite q p w s
  | .eccStatClear w => Sys2Proof.Machine.execEccStatClear w s
  | .errLogClear w => Sys2Proof.Machine.execErrLogClear w s
  | .pwrCapWrite w => Sys2Proof.Machine.execPwrCapWrite w s
  | .ticksyncCtlWrite p w => Sys2Proof.Machine.execTicksyncCtlWrite p w s
  | .wardenPolicyWrite off w => Sys2Proof.Machine.execWardenPolicyWrite off w s
  | .aportCtlWrite port w => Sys2Proof.Machine.execAportCtlWrite port w s
  | .aportFmtWrite port w => Sys2Proof.Machine.execAportFmtWrite port w s
  | .aportSlotmaskWrite port w => Sys2Proof.Machine.execAportSlotmaskWrite port w s
  | .aportRetry port w => Sys2Proof.Machine.execAportRetry port w s
  | .fmeasStart w => Sys2Proof.Machine.execFmeasStart w s
  | .fmeasGateClose count => Sys2Proof.Machine.execFmeasGateClose count s
  | .fmeasAbort => Sys2Proof.Machine.execFmeasAbort s
  | .fwStage w => Sys2Proof.Machine.execFwStage w s
  | .fwStageComplete ok => Sys2Proof.Machine.execFwStageComplete ok s
  | .fwActivate w => Sys2Proof.Machine.execFwActivate w s
  | .fwAbandon w => Sys2Proof.Machine.execFwAbandon w s
  | .fwLiveSwitch => Sys2Proof.Machine.execFwLiveSwitch s
  | .fwTrialEnd kind => Sys2Proof.Machine.execFwTrialEnd kind s
  | .attestGo w => Sys2Proof.Machine.execAttestGo w s
  | .attestReportDone sig => Sys2Proof.Machine.execAttestReportDone sig s
  | .registerWrite v off size data fault => Sys2Proof.Machine.execRegisterWrite v off size data fault s
  -- SMBus
  | .smbusSetPointer ptr pec => Sys2Proof.Machine.execSmbusSetPointer ptr pec s
  | .smbusWrite data pec => Sys2Proof.Machine.execSmbusWrite data pec s
  | .smbusRead pec => Sys2Proof.Machine.execSmbusRead pec s
  | .smbusStatus pec => Sys2Proof.Machine.execSmbusStatus pec s
  -- link and resets
  | .linkTrained rate width => Sys2Proof.Machine.execLinkTrained rate width s
  | .linkDown => Sys2Proof.Machine.execLinkDown s
  | .tagSpaceChange tags => Sys2Proof.Machine.execTagSpaceChange tags s
  | .msixUnmask v => Sys2Proof.Machine.execMsixUnmask v s
  | .functionLevelReset => Sys2Proof.Machine.execFunctionLevelReset s
  | .perstAssert => Sys2Proof.Machine.execPerstAssert s
  | .phaseM failedChannel => Sys2Proof.Machine.execPhaseM failedChannel s
  | .d3hotEntry => Sys2Proof.Machine.execD3hotEntry s
  | .d3coldEntry => Sys2Proof.Machine.execD3coldEntry s
  | .d0Entry => Sys2Proof.Machine.execD0Entry s
  | .phaseW => Sys2Proof.Machine.execPhaseW s
  | .auxPowerFail => Sys2Proof.Machine.execAuxPowerFail s
  | .mainRailsStart => Sys2Proof.Machine.execMainRailsStart s
  | .railRegulationLoss => Sys2Proof.Machine.execRailRegulationLoss s
  | .inputUndervoltage => Sys2Proof.Machine.execInputUndervoltage s
  | .inputOvervoltage => Sys2Proof.Machine.execInputOvervoltage s
  | .refclkDetectorFire => Sys2Proof.Machine.execRefclkDetectorFire s
  | .holdoverEnd => Sys2Proof.Machine.execHoldoverEnd s
  | .refclkReturn linkUp => Sys2Proof.Machine.execRefclkReturn linkUp s
  | .refclkReturnSyncTimeout => Sys2Proof.Machine.execRefclkReturnSyncTimeout s
  -- TICKSYNC
  | .ticksyncInEdge e => Sys2Proof.Machine.execTicksyncInEdge e s
  | .ticksyncMissing => Sys2Proof.Machine.execTicksyncMissing s
  | .ticksyncStartTimeout => Sys2Proof.Machine.execTicksyncStartTimeout s
  -- Warden
  | .wardenScan codes => Sys2Proof.Machine.execWardenScan codes s
  | .throttleDwell cluster => Sys2Proof.Machine.execThrottleDwell cluster s
  | .throttleStepUp cluster => Sys2Proof.Machine.execThrottleStepUp cluster s
  | .capLoopStep => Sys2Proof.Machine.execCapLoopStep s
  | .hardwareTrip diode => Sys2Proof.Machine.execHardwareTrip diode s
  | .safeEntry => Sys2Proof.Machine.execSafeEntry s
  | .controlWatchdog => Sys2Proof.Machine.execControlWatchdog s
  -- audio ports
  | .portFrameIn port f => Sys2Proof.Machine.execPortFrameIn port f s
  | .nonaudioHoldEnd port => Sys2Proof.Machine.execNonaudioHoldEnd port s
  | .portFrameOut port => Sys2Proof.Machine.execPortFrameOut port s
  | .clockStop port => Sys2Proof.Machine.execClockStop port s
  | .driftFollowerLock port drift => Sys2Proof.Machine.execDriftFollowerLock port drift s
  | .short port => Sys2Proof.Machine.execShort port s
  | .openInput port dataLine => Sys2Proof.Machine.execOpenInput port dataLine s
  | .fmeasGateOpen => Sys2Proof.Machine.execFmeasGateOpen s

end Sys2Proof.Machine
end

