-- ==== Sys2Proof/Safety.lean ====
section
/-!
DEFINITION. What counts as a safe step, and the terms in which the claims speak of states.
-/
namespace Sys2Proof

open Sys2Proof.Machine

/-- The step neither faults nor is refused. -/
def SafeStep (s : State) : Prop := ∃ t, step s = .next t

/-- Every addressed memory of the block is in canonical form: the five device memories and the staging window. -/
def Machine.Hw.memsCanonical (h : Hw) : Prop :=
  Memory.wf h.mem.near = true ∧ Memory.wf h.mem.far = true ∧ Memory.wf h.mem.tile = true ∧ Memory.wf h.mem.se = true
  ∧ Memory.wf h.mem.ctl = true ∧ Memory.wf h.sec.window = true

/-- The next descriptor of queue q, as it waits for its boundary (R13, R246). -/
def Machine.Hw.nextAdmitted (h : Hw) (q : Nat) (d : Desc) (x : Payload) : Admitted :=
  { seq := h.ex.seq, q := q, owner := (h.queue q).owner, due := if h.ex.window = .commit then h.ex.tick + 2 else h.ex.tick + 1,
    desc := d, payload := x, urgent := decide (0 < (h.queue q).urgent) && dOpcode d == opStop
    unread := h.reservedRead q && decide (x ≠ .none) && !h.mayRead q, pin := none }

/-- The next descriptor of queue q has been fetched and waits for its boundary: the fetch position has advanced by one,
the descriptor has the next sequence number, it is open, it is the last one admitted, and the tag of its read is free for
the reads that wait (R13, R243, R260, R273). -/
def Machine.Hw.fetched (h : Hw) (q : Nat) (d : Desc) (x : Payload) : Hw :=
  let p := h.queue q
  let out := if h.reservedRead q then p.outstanding.toNat else p.outstanding.toNat - 1
  let h' := Hw.issueReads { h with
    qs := tput QueuePair.reset h.qs q
      { p with fetch := BitVec.ofNat 16 ((p.fetch.toNat + 1) % ringSize p.sqLog), urgent := p.urgent - 1, retried := false
               outstanding := BitVec.ofNat 16 (min (announced p - 1) out) }
    ex := { h.ex with seq := h.ex.seq + 1 }
    link := if h.reservedRead q then { h.link with urgentOut := useRead q h.link.urgentOut }
            else { h.link with urgentWait := useRead q h.link.urgentWait }
    rings := { h.rings with
      openDescs := h.rings.openDescs ++ [{ seq := h.ex.seq, q := q, owner := p.owner, tag := dTag d, op := dOpcode d
                                           handle := if zeroHandle (dOpcode d) then 0 else dHandle d
                                           barrier := dOpcode d == opFence && bitOf (dFlags d) 0 && dFormatOk d, applied := none }] } }
  { h' with rings := { h'.rings with admitted := h'.rings.admitted ++ [h.nextAdmitted q d x] } }

end Sys2Proof
end

