-- ==== Sys2Proof/Certificates/Slice0/Obligations.lean ====
section
/-!
DEFINITION. The statements for the provers.
-/
open Sys2Proof Sys2Proof.Machine

/-! ### The queue of commands -/

/-- Every step with a command at the front of the queue runs that command on the block with the queue's rest. -/
def Obligations.StepRunsFrontCommand : Prop :=
  ∀ (c : Instr) (rest : List Instr) (h : Hw), step { pending := c :: rest, hw := h } = exec c { pending := rest, hw := h }

/-- Every step answers a next state: the queue loses its front and nothing else, and on an empty queue the block idles
(the idling is the model's choice, log 1). -/
def Obligations.StepAlwaysAnswers : Prop :=
  ∀ s : State, (s.pending = [] → step s = .next s) ∧ ∃ t, step s = .next t ∧ t.pending = s.pending.tail

/-! ### Reset -/

/-- The reset values that the register tables give: queue pairs, MSI-X entries, ports, FMEAS, MEM_CFG, the snapshot's epoch,
ERR_LOG, and everything that reads 0. (State.reset is the unpowered module, log 37.) -/
def Obligations.ResetLeavesRegisterValues : Prop :=
  State.reset.pending = []
  ∧ (∀ q, Hw.reset.queue q = { sqBase := 0, sqLog := 4, sqOn := false, fault := false, fetch := 0, tail := 0, head := 0, urgent := 0,
                               retried := false, credit := 0, creditNow := 0, outstanding := 0, owner := 0, cqBase := 0, cqLog := 4,
                               cqOn := false, overflow := false, cqTail := 0, cqHead := 0, waiting := [], dropped := 0, vector := 0 })
  ∧ (∀ v, tget MsixEntry.reset Hw.reset.msix v = { addr := 0, data := 0, masked := true, pending := false })
  ∧ (∀ p, (Hw.reset.port p).ctl = 0x20 ∧ (Hw.reset.port p).fmt = 2 ∧ (Hw.reset.port p).mask = 3 ∧ (Hw.reset.port p).state = .off)
  ∧ Hw.reset.fm.ctl = 0x00180000 ∧ Hw.reset.mem.imageSize = 4 ∧ Hw.reset.mem.voiceMax = 0x8000 ∧ Hw.reset.snap.epoch = 0xFFFFFFFFFFFFFFFF
  ∧ Hw.reset.log.writeSlot = 1 ∧ Hw.reset.pwrCap = 0 ∧ Hw.reset.ts.ctl = 0 ∧ Hw.reset.link.legacy = false
  ∧ Hw.reset.ex.running = false ∧ Hw.reset.ex.image = none ∧ (∀ c, Hw.reset.stream c = none) ∧ (∀ c, Hw.reset.mOf c = 16)

/-! ### Memories and tables -/

/-- A byte that is written reads back; every other byte reads as before; and the canonical form is kept. -/
def Obligations.MemoryReadAfterWrite : Prop :=
  ∀ (m : Memory) (a c : Nat) (b : Byte), Memory.wf m = true →
    read8 (write8 m a b) c = (if c = a then b else read8 m c) ∧ Memory.wf (write8 m a b) = true

/-- Every step keeps the five device memories and the staging window in canonical form. -/
def Obligations.MemoriesStayCanonical : Prop :=
  ∀ s t : State, s.hw.memsCanonical → step s = .next t → t.hw.memsCanonical

/-- The memories are canonical after reset. -/
def Obligations.ResetMemoriesCanonical : Prop :=
  State.reset.hw.memsCanonical

/-- No step lets the next entry of ERR_LOG fall on position 0, which holds the log's header. -/
def Obligations.LogNeverOverwritesHeader : Prop :=
  ∀ s t : State, 1 ≤ s.hw.log.writeSlot.toNat → step s = .next t → 1 ≤ t.hw.log.writeSlot.toNat

/-! ### Doorbells and failed reads -/

/-- A write of sq_tail that the queue admits sets the tail; with urgent set, the first 8 announced descriptors join the urgent
class, and those new to it ask for a reserved tag: one read, or two where the ring's end lies between them. Then the reads that
tags allow are issued, and nothing else changes. A write that leaves the tail as it is changes nothing. A write of cq_head that
the queue admits is the index of the next record that software reads; nothing else changes. Issuing reads changes only which
reads are under way: the urgent ones keep their order of receipt and hold at most 64 reserved tags, and blocks that waited for
an ordinary tag wait no more where their queue may read. (That the class counts from the fetch position and never shrinks below
an earlier doorbell's is the model's reading, log 60; one ordinary read for each descriptor, log 82; waiting blocks, log 112.) -/
def Obligations.DoorbellsAreTaken : Prop :=
  (∀ (s : State) (q : Fin 256) (w : W32), s.hw.alive = true → (s.hw.queue q).sqOn = true → w.toNat < 131072 →
      w.toNat % 65536 < 2 ^ (s.hw.queue q).sqLog.toNat →
      let p := s.hw.queue q
      let size := 2 ^ p.sqLog.toNat
      let n := (w.toNat % 65536 + size - p.fetch.toNat % size) % size
      let urgent (u : Bool) : Nat := if u then max p.urgent (min 8 n) else p.urgent
      let grown (u : Bool) : Nat := urgent u - p.urgent
      let first (u : Bool) : Nat := min (grown u) (size - (p.fetch.toNat + p.urgent) % size)
      let reads (u : Bool) : List (Nat × Nat) :=
        if p.fault then [] else [(q.val, first u), (q.val, grown u - first u)].filter (fun e => decide (0 < e.2))
      let after (u : Bool) : State := { s with hw := Hw.issueReads { s.hw.setQueue q
        { p with tail := BitVec.ofNat 16 (w.toNat % 65536), urgent := urgent u } with
          link := { s.hw.link with urgentWait := s.hw.link.urgentWait ++ reads u } } }
      (w.toNat % 65536 = p.tail.toNat →
        exec (.doorbellSqTail q w) s = .next s ∧ exec (.doorbellUrgent q w) s = .next s)
      ∧ (w.toNat % 65536 ≠ p.tail.toNat →
        exec (.doorbellSqTail q w) s = .next (after (w.toNat.testBit 16)) ∧ exec (.doorbellUrgent q w) s = .next (after true)))
  ∧ (∀ (s : State) (q : Fin 256) (w : W32), s.hw.alive = true → (s.hw.queue q).cqOn = true → w.toNat < 2 ^ (s.hw.queue q).cqLog.toNat →
      w.toNat < 65536 →
      exec (.doorbellCqHead q w) s = .next { s with hw := s.hw.setQueue q { s.hw.queue q with cqHead := BitVec.ofNat 16 w.toNat } })
  ∧ (∀ h : Hw,
      let g := h.issueReads
      g = { h with qs := g.qs, rings := { h.rings with admitted := g.rings.admitted }
                   link := { h.link with urgentOut := g.link.urgentOut, urgentWait := g.link.urgentWait, turn := g.link.turn } }
      ∧ g.rings.admitted = h.rings.admitted.map (fun a => { a with unread := a.unread && !h.mayRead a.q })
      ∧ (∀ q, g.queue q = { h.queue q with outstanding := (g.queue q).outstanding })
      ∧ g.link.urgentOut ++ g.link.urgentWait = h.link.urgentOut ++ h.link.urgentWait
      ∧ (h.link.urgentOut.length ≤ 64 → g.link.urgentOut.length ≤ 64))

/-- A doorbell write, of either half, urgent or not, with a reserved bit, with an index at or above the queue's size, or to a
disabled queue is dropped: it is counted for ERR_LOG and for the snapshot, and no queue changes. A write of another size or
alignment than a natural 4 B or 8 B is dropped in either view: one more write is counted as dropped, through BAR2 in the
snapshot too, and nothing else changes. A poisoned or malformed write, and where ECRC checking is enabled one whose ECRC fails,
is dropped alike and reported in Advanced Error Reporting; one whose error the link corrected is reported and acts (their bits,
log 89). -/
def Obligations.BadWritesAreDropped : Prop :=
  (∀ (s : State) (q : Fin 256) (w : W32), s.hw.alive = true →
      (131072 ≤ w.toNat ∨ (s.hw.queue q).sqOn = false ∨ 2 ^ (s.hw.queue q).sqLog.toNat ≤ w.toNat % 65536) →
      let dropped : State := { s with hw := { s.hw with
        link := { s.hw.link with
          dropCount := BitVec.ofNat 16 (min (s.hw.link.dropCount.toNat + 1) 65535)
          dropFirst := if s.hw.link.dropCount = 0 then BitVec.ofNat 32 (q.val * 0x1000) else s.hw.link.dropFirst }
        cnt := { s.hw.cnt with bar2Dropped := s.hw.cnt.bar2Dropped + 1 } } }
      exec (.doorbellSqTail q w) s = .next dropped ∧ exec (.doorbellUrgent q w) s = .next dropped)
  ∧ (∀ (s : State) (q : Fin 256) (w : W32), s.hw.alive = true →
      (65536 ≤ w.toNat ∨ (s.hw.queue q).cqOn = false ∨ 2 ^ (s.hw.queue q).cqLog.toNat ≤ w.toNat) →
      exec (.doorbellCqHead q w) s = .next { s with hw := { s.hw with
        link := { s.hw.link with
          dropCount := BitVec.ofNat 16 (min (s.hw.link.dropCount.toNat + 1) 65535)
          dropFirst := if s.hw.link.dropCount = 0 then BitVec.ofNat 32 (q.val * 0x1000 + 4) else s.hw.link.dropFirst }
        cnt := { s.hw.cnt with bar2Dropped := s.hw.cnt.bar2Dropped + 1 } } })
  ∧ (∀ (s : State) (off size : Nat) (d : W64), s.hw.alive = true → ¬ (size = 4 ∧ off % 4 = 0) → ¬ (size = 8 ∧ off % 8 = 0) →
      exec (.registerWrite .bar0 off size d .none) s = .next { s with hw := { s.hw with link := { s.hw.link with
          dropCount := BitVec.ofNat 16 (min (s.hw.link.dropCount.toNat + 1) 65535)
          dropFirst := if s.hw.link.dropCount = 0 then BitVec.ofNat 32 off else s.hw.link.dropFirst } } }
      ∧ exec (.registerWrite .bar2 off size d .none) s = .next { s with hw := { s.hw with
          link := { s.hw.link with
            dropCount := BitVec.ofNat 16 (min (s.hw.link.dropCount.toNat + 1) 65535)
            dropFirst := if s.hw.link.dropCount = 0 then BitVec.ofNat 32 off else s.hw.link.dropFirst }
          cnt := { s.hw.cnt with bar2Dropped := s.hw.cnt.bar2Dropped + 1 } } })
  ∧ (∀ (s : State) (off size : Nat) (d : W64) (e : LinkError), s.hw.alive = true →
      let seen : State := { s with hw := { s.hw with link := { s.hw.link with pci := { s.hw.link.pci with
        corStatus := s.hw.link.pci.corStatus ||| (1#32 <<< (match e with | .fec | .receiver => 0 | .badDllp => 7 | .replay => 8)) } } } }
      exec (.registerWrite .bar0 off size d (.corrected e)) s = exec (.registerWrite .bar0 off size d .none) seen
      ∧ exec (.registerWrite .bar2 off size d (.corrected e)) s = exec (.registerWrite .bar2 off size d .none) seen)
  ∧ (∀ (s : State) (off size : Nat) (d : W64) (f : TlpFault) (bit : Nat), s.hw.alive = true →
      (f = .poisoned ∧ bit = 12 ∨ f = .malformed ∧ bit = 18 ∨ f = .ecrc ∧ s.hw.link.pci.ecrcCheck = true ∧ bit = 19) →
      ∃ t, exec (.registerWrite .bar0 off size d f) s = .next t
        ∧ t.hw.link.dropCount = BitVec.ofNat 16 (min (s.hw.link.dropCount.toNat + 1) 65535)
        ∧ t.hw.link.dropFirst = (if s.hw.link.dropCount = 0 then BitVec.ofNat 32 off else s.hw.link.dropFirst)
        ∧ t.hw.link.pci.uncStatus = s.hw.link.pci.uncStatus ||| (1#32 <<< bit)
        ∧ t.hw.qs = s.hw.qs ∧ t.hw.mem = s.hw.mem ∧ t.hw.sec = s.hw.sec ∧ t.hw.ex = s.hw.ex ∧ t.hw.streams = s.hw.streams
        ∧ t.hw.latches = s.hw.latches ∧ t.hw.rings = s.hw.rings)

/-- A failed descriptor fetch is tried once more; when the second fails, the queue stops with its fault bit set and its reads
gone, an entry is recorded and vector 511 is raised. A failed list or block read leaves its descriptor without what it was to
read; of a block of an AUDIO_IN that has opened, the samples are lost and nothing completes. A failed read of the image copy
ends it with load_err. With the completion timeout disabled no read times out. (The fetch position stays, log 62; the failed
image copy, log 23; what Advanced Error Reporting notes of it, log 89.) -/
def Obligations.FailedReads : Prop :=
  ∀ (s : State) (cause : ReadCause), s.hw.decodes = true → (cause = .timeout → s.hw.link.pci.timeoutOff = false) →
    (∀ q : Fin 256, s.hw.fetching q = true →
      ((s.hw.queue q).retried = false → ∃ t, exec (.linkReadError ⟨.fetch q, cause⟩) s = .next t
          ∧ t.hw.queue q = { s.hw.queue q with retried := true } ∧ (∀ k, k ≠ q.val → t.hw.queue k = s.hw.queue k)
          ∧ t.hw.streams = s.hw.streams ∧ t.hw.rings = s.hw.rings ∧ t.hw.mem = s.hw.mem ∧ t.hw.ex = s.hw.ex)
      ∧ ((s.hw.queue q).retried = true → ∃ t, exec (.linkReadError ⟨.fetch q, cause⟩) s = .next t
          ∧ t.hw.queue q = { s.hw.queue q with retried := false, fault := true, outstanding := 0, urgent := 0 }
          ∧ 511 ∈ t.hw.link.raise ∧ t.hw.log ≠ s.hw.log
          ∧ (∀ k, k ≠ q.val → t.hw.queue k = { s.hw.queue k with outstanding := (t.hw.queue k).outstanding })
          ∧ t.hw.streams = s.hw.streams ∧ t.hw.rings = { s.hw.rings with admitted := t.hw.rings.admitted }
          ∧ t.hw.mem = s.hw.mem ∧ t.hw.ex = s.hw.ex))
    ∧ (∀ (n first count c : Nat) (x : Stream), s.hw.stream c = some x → ∃ t, exec (.linkReadError ⟨.audio n first count, cause⟩) s = .next t
        ∧ t.hw.stream c = some { x with audio := x.audio.map (fun a => if a.seq = n && a.opened then { a with lost := a.lost ++ [(first, count)] } else a) }
        ∧ t.hw.rings = s.hw.rings ∧ t.hw.qs = s.hw.qs ∧ t.hw.mem = s.hw.mem ∧ t.hw.ex = s.hw.ex)
    ∧ (∀ n, s.hw.cat.staging = [] → s.hw.streams = [] → ∃ t, exec (.linkReadError ⟨.block n, cause⟩) s = .next t
        ∧ t.hw.rings.admitted = s.hw.rings.admitted.map (fun a => if a.seq = n then { a with payload := failPayload a.payload } else a)
        ∧ t.hw.qs = s.hw.qs ∧ t.hw.mem = s.hw.mem ∧ t.hw.ex = s.hw.ex)
    ∧ (∀ n g, s.hw.cat.staging = [g] → g.seq = n → g.copying = false → s.hw.streams = [] →
        ∃ t p, exec (.linkReadError ⟨.block n, cause⟩) s = .next t ∧ t.hw.cat.staging = [] ∧ t.hw.rings.done = s.hw.rings.done ++ [p]
          ∧ p.r.status = 0x01 ∧ p.r.tag = g.tag ∧ (g.restore = false → (t.hw.vslot g.trunk g.idx g.slot).state = .free))
    ∧ (s.hw.mem.loadBusy = true → ∃ t, exec (.linkReadError ⟨.image, cause⟩) s = .next t
        ∧ t.hw.mem = { s.hw.mem with loadBusy := false, loadDone := true, loadErr := true } ∧ t.hw.qs = s.hw.qs
        ∧ t.hw.streams = s.hw.streams ∧ t.hw.rings = s.hw.rings ∧ t.hw.ex = s.hw.ex)
    ∧ (∀ x : ReadTarget, ∀ u : State, u.hw.link.pci.timeoutOff = true → exec (.linkReadError ⟨x, .timeout⟩) u = .next u)

/-! ### Descriptors -/

/-- While the executive runs, the Sequencer takes the next descriptor of a queue: the fetch position advances, the
descriptor takes the next sequence number, and it waits for the boundary of its class rule; the tag of its read is free
again. Nothing else changes. BIND_VOICE and a style CTRL are admitted alike; on decode they may pin the version that they
select and request at most one page-in. (The tick's moments are commands, log 71; the tags that reads hold, log 82; blocks
that wait for a tag, log 112.) -/
def Obligations.DescriptorsWaitForTheirBoundary : Prop :=
  (∀ (s : State) (q : Fin 256) (d : Desc), s.hw.ex.running = true → s.hw.canDecode q = true →
      let taken (x : Payload) : Host.Outcome State Fault Refusal := .next { s with hw := s.hw.fetched q d x }
      (dOpcode d = 0x01 → exec (.openStream q d) s = taken .none)
      ∧ (dOpcode d = 0x02 → ∀ r, exec (.feed q d r) s = taken (.feed r))
      ∧ (dOpcode d = 0x05 → (s.hw.queue q).urgent = 0 → exec (.stop q d) s = taken .none)
      ∧ (dOpcode d = 0x06 → exec (.close q d) s = taken .none)
      ∧ (dOpcode d = 0x07 → exec (.exportRec q d) s = taken .none)
      ∧ (dOpcode d = 0x08 → ∀ r, exec (.importRec q d r) s = taken (.record r))
      ∧ (dOpcode d = 0x09 → ∀ r, exec (.weightStage q d r) s = taken (.package r))
      ∧ (dOpcode d = 0x0A → exec (.weightCommit q d) s = taken .none)
      ∧ (dOpcode d = 0x0B → exec (.fence q d) s = taken .none)
      ∧ (dOpcode d = 0x0C → bitOf (dFlags d) 0 = false → ∀ r, exec (.groupCreate q d r) s = taken (.members r))
      ∧ (dOpcode d = 0x0C → bitOf (dFlags d) 0 = true → exec (.groupDissolve q d) s = taken .none)
      ∧ (dOpcode d = 0x0D → ∀ r, exec (.audioIn q d r) s = taken (.audio r))
      ∧ (dOpcode d = 0x0E → ∀ r, exec (.ringOut q d r) s = taken (.ring r)))
  ∧ (∀ (s : State) (q : Fin 256) (d : Desc) (r : HostRead (List F16)), s.hw.ex.running = true → s.hw.canDecode q = true →
      let takes (o : Host.Outcome State Fault Refusal) (x : Payload) : Prop :=
        ∃ (xs : List PageIn) (pn : Option (Nat × Nat)), xs.length ≤ 1 ∧ (∀ p ∈ xs, p.admitted = false) ∧
          o = .next { s with hw := { s.hw.fetched q d x with
            cat := { s.hw.cat with pageIns := s.hw.cat.pageIns ++ xs }
            rings := { (s.hw.fetched q d x).rings with admitted := (s.hw.fetched q d x).rings.admitted.dropLast ++ [{ s.hw.nextAdmitted q d x with pin := pn }] } } }
      (dOpcode d = 0x03 → takes (exec (.bindVoice q d r) s) (if dField d 0x18 8 = 0 then .none else .style r))
      ∧ (dOpcode d = 0x04 → takes (exec (.ctrl q d r) s) (if dField d 0x10 2 = 4 then .style r else .none)))

/-- An urgent STOP decoded at or after the intake close closes its stream's output gate at once, also where that commit has ended
the utterance, and acts at the next boundary. -/
def Obligations.UrgentStopClosesGate : Prop :=
  ∀ (s : State) (q : Fin 256) (d : Desc) (c : Nat) (x : Stream), s.hw.ex.running = true → s.hw.ex.window = .commit → s.hw.canDecode q = true →
    dOpcode d = 0x05 → 0 < (s.hw.queue q).urgent → dFormatOk d = true → s.hw.lookup (s.hw.queue q).owner (dHandle d) = some (c, x) →
    ∃ t y, exec (.urgentStop q d) s = .next t ∧ t.hw.stream c = some y ∧ y.gated = true ∧ y.life = x.life
      ∧ (∃ a ∈ t.hw.rings.admitted, a.desc = d ∧ a.due = s.hw.ex.tick + 1 ∧ a.urgent = true)
      ∧ t.hw.rings.done = s.hw.rings.done ∧ (∀ k, k ≠ c → t.hw.stream k = s.hw.stream k)

/-- While the executive is stopped and the device is not in HOLDING, a stream descriptor that no barrier holds completes at
once with NO_CONTEXT, and no context is allocated; in HOLDING every descriptor completes with VERSION_MISMATCH, also
WEIGHT_STAGE, WEIGHT_COMMIT and FENCE. (Also with reserved bits set, log 68.) While the executive is stopped, FENCE,
WEIGHT_COMMIT and WEIGHT_STAGE are served at once: a FENCE waits for every open descriptor of its queue decoded before it; a
WEIGHT_COMMIT of a STAGED version completes DONE with its switch due at the next start; a WEIGHT_STAGE of a sound package takes
a FREE slot, which is STAGING with the package's hash, and completes nothing yet. With no image loaded a WEIGHT_STAGE completes
REJECTED_FORMAT, and ABORTED where its list or header read has failed. -/
def Obligations.StoppedDescriptors : Prop :=
  (∀ (s : State) (q : Fin 256) (d : Desc), s.hw.ex.running = false → s.hw.canDecode q = true → (s.hw.queue q).urgent = 0 →
      s.hw.rings.admitted = [] → (∀ o ∈ s.hw.rings.openDescs, o.barrier = false) →
      let ends (o : Host.Outcome State Fault Refusal) : Prop :=
        ∃ t p, o = .next t ∧ t.hw.rings.done = s.hw.rings.done ++ [p] ∧ p.r.status = (if s.hw.ex.mode = .holding then 0x07 else 0x06)
          ∧ p.r.tag = dTag d ∧ p.r.event = false ∧ p.q = q.val ∧ t.hw.streams = s.hw.streams ∧ t.hw.rings.admitted = []
      (dOpcode d = 0x01 → ends (exec (.openStream q d) s))
      ∧ (dOpcode d = 0x02 → ∀ r, ends (exec (.feed q d r) s))
      ∧ (dOpcode d = 0x03 → ∀ r, ends (exec (.bindVoice q d r) s))
      ∧ (dOpcode d = 0x04 → ∀ r, ends (exec (.ctrl q d r) s))
      ∧ (dOpcode d = 0x05 → ends (exec (.stop q d) s))
      ∧ (dOpcode d = 0x06 → ends (exec (.close q d) s))
      ∧ (dOpcode d = 0x07 → ends (exec (.exportRec q d) s))
      ∧ (dOpcode d = 0x08 → ∀ r, ends (exec (.importRec q d r) s))
      ∧ (dOpcode d = 0x0C → bitOf (dFlags d) 0 = false → ∀ r, ends (exec (.groupCreate q d r) s))
      ∧ (dOpcode d = 0x0C → bitOf (dFlags d) 0 = true → ends (exec (.groupDissolve q d) s))
      ∧ (dOpcode d = 0x0D → ∀ r, ends (exec (.audioIn q d r) s))
      ∧ (dOpcode d = 0x0E → ∀ r, ends (exec (.ringOut q d r) s))
      ∧ (s.hw.ex.mode = .holding →
          (dOpcode d = 0x09 → ∀ r, ends (exec (.weightStage q d r) s)) ∧ (dOpcode d = 0x0A → ends (exec (.weightCommit q d) s))
          ∧ (dOpcode d = 0x0B → ends (exec (.fence q d) s))))
  ∧ (∀ (s : State) (q : Fin 256) (d : Desc), s.hw.ex.running = false → s.hw.ex.mode ≠ .holding → s.hw.canDecode q = true →
      (s.hw.queue q).urgent = 0 → s.hw.rings.admitted = [] → (∀ o ∈ s.hw.rings.openDescs, o.barrier = false) → dFormatOk d = true →
      (dOpcode d = 0x0B → bitOf (dFlags d) 1 = false → ∃ t f, exec (.fence q d) s = .next t ∧ t.hw.rings.fences = s.hw.rings.fences ++ [f]
        ∧ f.q = q.val ∧ f.scope = (s.hw.rings.openDescs.filter (fun o => decide (o.seq < s.hw.ex.seq) && o.q == q.val)).map (fun o => o.seq)
        ∧ t.hw.rings.done = s.hw.rings.done)
      ∧ (dOpcode d = 0x0A → dField d 0x10 2 = 1 → ∀ k : Nat, k < 3 → s.hw.cat.switches = [] →
        (∀ j : Nat, j < 3 → j ≠ k → (s.hw.trunk j).state ≠ .staged) → (s.hw.trunk k).state = .staged → (s.hw.trunk k).damaged = false →
        hash16 (s.hw.trunk k).hash = BitVec.ofNat 128 (dField d 0x18 16) →
        ∃ t p, exec (.weightCommit q d) s = .next t ∧ t.hw.cat = { s.hw.cat with switches := [(true, 0, k)] }
          ∧ t.hw.rings.done = s.hw.rings.done ++ [p] ∧ p.r.status = 0x00 ∧ p.r.detail0 = BitVec.ofNat 16 k)
      ∧ (dOpcode d = 0x09 → (s.hw.ex.image = none → ∀ r, ∃ t p, exec (.weightStage q d r) s = .next t ∧ t.hw.cat = s.hw.cat
            ∧ t.hw.rings.done = s.hw.rings.done ++ [p] ∧ p.r.status = 0x05 ∧ p.r.tag = dTag d)
        ∧ (s.hw.ex.image ≠ none → ∃ t p, exec (.weightStage q d .failed) s = .next t ∧ t.hw.cat = s.hw.cat
            ∧ t.hw.rings.done = s.hw.rings.done ++ [p] ∧ p.r.status = 0x01 ∧ p.r.tag = dTag d)
        ∧ (∀ (i : ImageFile) (x : PackageData), s.hw.ex.image = some i → s.hw.cat.staging = [] → s.hw.cat.switches = [] →
          (readList .package (dField d 0x18 4) x.list).isSome = true → s.hw.packageOk i x.header = true →
          let trunk := decide (leField x.header 0x004 2 = 1)
          let idx := if trunk then 0 else targetIndex (pkTarget x.header)
          (∀ k ∈ slotRange trunk, (s.hw.vslot trunk idx k).state = .free ∧ (s.hw.vslot trunk idx k).damaged = false) →
          ∃ t g, exec (.weightStage q d (.ok x)) s = .next t ∧ g.slot ∈ slotRange trunk ∧ t.hw.cat.staging = [g] ∧ g.tag = dTag d ∧ g.q = q.val
            ∧ g.trunk = trunk ∧ g.idx = idx ∧ g.hash = pkHash x.header ∧ g.restore = false ∧ g.verified = false
            ∧ t.hw.vslot trunk idx g.slot = { VSlot.reset with
                state := .staging, hash := pkHash x.header, length := leField x.header 0x010 8, key := pkKey x.header }
            ∧ (∀ k ∈ slotRange trunk, k ≠ g.slot → t.hw.vslot trunk idx k = s.hw.vslot trunk idx k)
            ∧ t.hw.rings.done = s.hw.rings.done ∧ t.hw.streams = s.hw.streams)))

/-! ### The tick -/

/-- From the commit window of a running executive, a boundary begins the next tick: the epoch number rises by exactly 1, and
the work window opens. A scheduled start begins epoch 0 with the executive running, and DEV_STATE is RUNNING, or DEGRADED
where a unit is fenced or a permanent fault stands; it waits while the trunk that is CURRENT from epoch 0 has no near copy.
At the end of the work window the replay reserve begins; work that ran over is recorded with the ACLK it ran over by. -/
def Obligations.WindowsBegin : Prop :=
  (∀ s : State, s.hw.decodes = true → s.hw.ex.running = true → s.hw.ex.window = .commit → s.hw.ex.rerun = false → s.hw.ex.stopping = none →
      s.hw.pwr.syncTimeout = false →
      ∃ t, exec .tickBoundary s = .next t ∧ t.hw.ex.tick = s.hw.ex.tick + 1 ∧ t.hw.ex.window = .work ∧ t.hw.ex.running = true
        ∧ t.hw.ex.last = s.hw.ex.last ∧ t.hw.ex.gap = false)
  ∧ (∀ s : State, s.hw.decodes = true → s.hw.ex.running = false → s.hw.ex.start = .scheduled →
      (s.hw.trunkReady = true → ∃ t, exec .tickBoundary s = .next t ∧ t.hw.ex.tick = 0 ∧ t.hw.ex.last = none ∧ t.hw.ex.running = true
        ∧ t.hw.ex.window = .work ∧ t.hw.ex.start = .none ∧ t.hw.ex.mode = (if s.hw.ex.fencedAny || s.hw.ex.perm then .degraded else .running))
      ∧ (s.hw.trunkReady = false → exec .tickBoundary s = .next s))
  ∧ (∀ (s : State) (n : Nat), s.hw.decodes = true → s.hw.ex.running = true → s.hw.ex.window = .work → s.hw.ex.rerun = false →
      exec (.replayReserveStart none) s = .next { s with hw := { s.hw with ex := { s.hw.ex with window := .reserve, overrun := none } } }
      ∧ ∃ t e, exec (.replayReserveStart (some n)) s = .next t ∧ t.hw.ex = { s.hw.ex with window := .reserve, overrun := some n }
          ∧ t.hw.log.pending = s.hw.log.pending ++ [e] ∧ e.kind = 0x0002 ∧ e.d0 = BitVec.ofNat 64 n ∧ t.hw.streams = s.hw.streams)

/-- At intake close the tick commits: its epoch is published with the snapshot, every record, log entry and message of the
tick has been released, and the commit window opens. -/
def Obligations.IntakeCloseCommits : Prop :=
  ∀ (s : State) (late : List Late) (i : ImageFile), s.hw.decodes = true → s.hw.ex.running = true → s.hw.ex.rerun = false →
    (s.hw.ex.window = .work ∨ s.hw.ex.window = .reserve) → s.hw.ex.safeTick = false → s.hw.ex.image = some i → s.hw.ex.linkLost = false →
    ∃ t, exec (.intakeClose late) s = .next t ∧ t.hw.ex.window = .commit ∧ t.hw.ex.last = some s.hw.ex.tick ∧ t.hw.ex.tick = s.hw.ex.tick
      ∧ t.hw.snap.epoch = s.hw.ex.tick ∧ t.hw.snap.pubCount = s.hw.snap.pubCount + 1 ∧ t.hw.rings.done = [] ∧ t.hw.rings.events = []
      ∧ t.hw.log.pending = [] ∧ t.hw.link.raise = []

/-- While the executive is stopped, an idle publication publishes the snapshot with an all-ones epoch; where no descriptor
waits behind a barrier, every record, log entry and message that is due has then been released. (The idle publication as an
event of its own, logs 14 and 38.) -/
def Obligations.IdlePublicationPublishes : Prop :=
  ∀ s : State, s.hw.decodes = true → s.hw.ex.running = false →
    ∃ t, exec .idlePublication s = .next t ∧ t.hw.snap.epoch = 0xFFFFFFFFFFFFFFFF ∧ t.hw.snap.pubCount = s.hw.snap.pubCount + 1
      ∧ t.hw.ex.running = false ∧ t.hw.streams = s.hw.streams ∧ t.hw.log.pending = []
      ∧ (s.hw.rings.admitted = [] → t.hw.rings.done = [] ∧ t.hw.rings.events = [] ∧ t.hw.link.raise = [] ∧ t.hw.rings.admitted = [])

/-- While the executive is stopped, waiting records that fit are published in order once entries free: the tail moves on by
their number, and none waits; while it runs the next commit publishes them (log 113). A FENCE whose scope holds no open
descriptor any more composes its completion, which counts the descriptors it waited for. -/
def Obligations.WaitingRecordsAndFences : Prop :=
  (∀ (s : State) (q : Fin 256), s.hw.decodes = true → s.hw.ex.running = false → (s.hw.queue q).cqOn = true →
      (s.hw.queue q).cqLog.toNat ≤ 16 → (s.hw.queue q).waiting ≠ [] → (s.hw.queue q).waiting.length ≤ freeEntries (s.hw.queue q) →
      ∃ t, exec (.cqWaitingPublish q) s = .next t ∧ (t.hw.queue q).waiting = []
        ∧ (t.hw.queue q).cqTail.toNat = ((s.hw.queue q).cqTail.toNat + (s.hw.queue q).waiting.length) % 2 ^ (s.hw.queue q).cqLog.toNat
        ∧ (t.hw.queue q).dropped = (s.hw.queue q).dropped ∧ (∀ k, k ≠ q.val → t.hw.queue k = s.hw.queue k) ∧ t.hw.streams = s.hw.streams)
  ∧ (∀ (s : State) (q : Fin 256), s.hw.ex.running = true → exec (.cqWaitingPublish q) s = .next s)
  ∧ (∀ (s : State) (q : Fin 256) (f : FenceWait), s.hw.decodes = true → s.hw.rings.fences = [f] → f.q = q.val →
      (∀ n ∈ f.scope, ∀ o ∈ s.hw.rings.openDescs, o.seq ≠ n) →
      ∃ t p, exec (.fenceComplete q) s = .next t ∧ t.hw.rings.fences = [] ∧ t.hw.rings.done = s.hw.rings.done ++ [p] ∧ p.q = q.val
        ∧ p.r.status = 0x00 ∧ p.r.tag = f.tag ∧ p.r.detail0 = BitVec.ofNat 16 (min f.count 65535) ∧ t.hw.streams = s.hw.streams)

/-! ### Tensor Tiles, Pumps and replay -/

/-- Entries of a scale stream that arrive are counted in the idle chamber of the tile's scale lock, no more than the fill still
lacks and no further than the stream may run ahead of the weights; the last of them fill the chamber, and a swap that waits for
it is made. Accumulators that a step has handed on reach the tile. Where a pass of the tile waits, it then goes on, and nothing
else changes. At its swap instruction a lock whose idle chamber is filled exchanges its chambers, the scale entries of a scale
lock with them; one that is not filled waits for the fill. (The pace of arrival, log 96; locks above the tiles', log 97.) -/
def Obligations.TileEvents : Prop :=
  (∀ (s : State) (t n : Nat), s.hw.engOn = true → t < 128 →
      let u := s.hw.tileU t
      let l := 3 * t + 1
      let m := min n (min u.due u.lead)
      let ends : Bool := decide (0 < u.due ∧ u.due = m)
      let swaps : Bool := ends && decide (l ∈ s.hw.eng.swapWait)
      let came : Tile := { u with idle := u.idle + m, due := u.due - m, lead := u.lead - m }
      let arrived (x : State) : Prop :=
        x = { s with hw := { s.hw with eng := { s.hw.eng with
          tiles := x.hw.eng.tiles, locks := x.hw.eng.locks, filled := x.hw.eng.filled, swapWait := x.hw.eng.swapWait } } }
        ∧ x.hw.tileU t = { (if swaps then came.swapScales else came) with waits := none }
        ∧ (∀ k, k ≠ t → x.hw.tileU k = s.hw.tileU k)
        ∧ (∀ k, tget 0 x.hw.eng.locks k = tget 0 s.hw.eng.locks k + (if k = l ∧ swaps = true then 1 else 0))
        ∧ (∀ k, tget false x.hw.eng.filled k = if k = l ∧ ends = true then !swaps else tget false s.hw.eng.filled k)
        ∧ x.hw.eng.swapWait = (if swaps then s.hw.eng.swapWait.filter (fun k => k != l) else s.hw.eng.swapWait)
      (u.waits = none → ∃ x, exec (.groupScaleArrival t n) s = .next x ∧ arrived x)
      ∧ (∀ w, u.waits = some w → ∃ x, arrived x
          ∧ exec (.groupScaleArrival t n) s = exec (.tilePassComplete w.runner w.step w.slip w.errs w.chk) x))
  ∧ (∀ (s : State) (i : ImageFile) (y : TickStep) (sv : Serve) (op : TileOp) (t q from0 first count : Nat), s.hw.engOn = true → t < 128 →
      s.hw.ex.image = some i → tickStep i q = some y → y.op = .tile from0 sv first count op → q ∈ s.hw.eng.steps →
      let u := s.hw.tileU t
      let reached (x : State) : Prop :=
        x = { s with hw := { s.hw with eng := { s.hw.eng with tiles := x.hw.eng.tiles } } }
        ∧ x.hw.tileU t = { u with accs := tput [] u.accs q (tget [] (s.hw.tileU from0).outs q), waits := none }
        ∧ (∀ k, k ≠ t → x.hw.tileU k = s.hw.tileU k)
      (u.waits = none → ∃ x, exec (.accumulatorHandover t q) s = .next x ∧ reached x)
      ∧ (∀ w, u.waits = some w → ∃ x, reached x
          ∧ exec (.accumulatorHandover t q) s = exec (.tilePassComplete w.runner w.step w.slip w.errs w.chk) x))
  ∧ (∀ (s : State) (i : ImageFile) (l p : Nat), s.hw.engOn = true → s.hw.ex.image = some i → s.hw.nextSwap i l = some p →
      l < i.parts.tick.locks → (l < 384 → s.hw.tileReached i (l / 3) p = true) →
      let atOnce : Prop := 384 ≤ l ∧ (auxLock i l).2 = 0
      (atOnce ∨ tget false s.hw.eng.filled l = true → ∃ x, exec (.lockSwap l) s = .next x
        ∧ (∀ k, tget 0 x.hw.eng.locks k = tget 0 s.hw.eng.locks k + (if k = l then 1 else 0))
        ∧ (∀ k, tget false x.hw.eng.filled k = if k = l then false else tget false s.hw.eng.filled k)
        ∧ x.hw.eng.swapWait = s.hw.eng.swapWait.filter (fun k => k != l)
        ∧ (∀ t, x.hw.tileU t = if l < 384 ∧ l % 3 = 1 ∧ t = l / 3 then (s.hw.tileU t).swapScales else s.hw.tileU t)
        ∧ x.hw.mem = s.hw.mem ∧ x.hw.streams = s.hw.streams)
      ∧ (¬ atOnce → tget false s.hw.eng.filled l = false → l ∉ s.hw.eng.swapWait →
          exec (.lockSwap l) s = .next { s with hw := { s.hw with eng := { s.hw.eng with swapWait := s.hw.eng.swapWait ++ [l] } } }))

/-- A vector addition of the tick program that passes its checks writes the FP32 sums, element by element, in its row of the
destination in the tile's SRAM, every NaN canonical; a result that is not finite flags the stream; the step counts as done,
and nothing else changes but for the tile's control mailbox, which takes the record of the verdict. A step of a tile, of any
kind, that fails its checks writes no result: no memory but the mailbox and no stream changes, and its replay unit is queued
for replay. (What stands where in the tile's SRAM, log 20; the records, log 117.) -/
def Obligations.VectorPass : Prop :=
  let noted (s : State) (t p verdict : Nat) : Memory :=
    if (s.hw.tileU t).records < 4096 then writeN s.hw.mem.tile (recordAt t (s.hw.tileU t).records) (natBytesLE 4 p ++ natBytesLE 4 verdict)
    else s.hw.mem.tile
  let counted (u : Tile) : Tile := { u with records := if u.records < 4096 then u.records + 1 else u.records }
  (∀ (s : State) (i : ImageFile) (x : Stream) (y : TickStep) (sv : Serve) (a b dst : Loc) (t p c r q n first count : Nat),
      s.hw.engOn = true → t < 128 → (⟨.tile, t⟩ : UnitId) ∉ s.hw.eng.fenced → s.hw.ex.image = some i → tickStep i p = some y →
      y.op = .tile t sv first count (.vector .add false a b dst n) → s.hw.stepOpen i p y t = true →
      s.hw.stepRows sv first count = [(c, r, q)] → s.hw.stream c = some x → s.hw.eng.replays = [] →
      dst.off + dst.stride * r + 4 * n ≤ regionSize dst.region →
      let sums := (List.zipWith fp32Add (s.hw.rowF32s t a r n) (s.hw.rowF32s t b r n)).map canon32
      let at0 := t * 0x280000 + regionBase dst.region + (dst.off + dst.stride * r)
      ∃ u, exec (.tilePassComplete t p 0 [] .pass) s = .next u
        ∧ u.hw.rowF32s t dst r n = sums
        ∧ (∀ k, k < at0 ∨ at0 + 4 * n ≤ k → read8 u.hw.mem.tile k = read8 (noted s t p 1) k)
        ∧ u.hw.mem = { s.hw.mem with tile := u.hw.mem.tile }
        ∧ u.hw.eng = { s.hw.eng with tiles := u.hw.eng.tiles, steps := s.hw.eng.steps ++ [p] }
        ∧ u.hw.tileU t = counted (s.hw.tileU t) ∧ (∀ k, k ≠ t → u.hw.tileU k = s.hw.tileU k)
        ∧ u.hw.stream c = some { x with arithNonfinite := x.arithNonfinite || sums.any (fun v => (val32 v).nonfinite) }
        ∧ (∀ k, k ≠ c → u.hw.stream k = s.hw.stream k) ∧ u.hw.rings = s.hw.rings ∧ u.hw.ex = s.hw.ex)
  ∧ (∀ (s : State) (i : ImageFile) (y : TickStep) (sv : Serve) (op : TileOp) (t p first count : Nat) (slip : Int) (errs : List SumError),
      s.hw.engOn = true → t < 128 → passUnit t op ∉ s.hw.eng.fenced → s.hw.ex.image = some i → tickStep i p = some y →
      y.op = .tile t sv first count op → s.hw.stepOpen i p y t = true → (∀ z, opPass i p op = some z → s.hw.arrayReady t z = true) →
      s.hw.eng.replays = [] →
      ∃ u r, exec (.tilePassComplete t p slip errs .fault) s = .next u
        ∧ u.hw.mem = { s.hw.mem with tile := noted s t p 0 } ∧ u.hw.tileU t = counted (s.hw.tileU t)
        ∧ (∀ k, k ≠ t → u.hw.tileU k = s.hw.tileU k) ∧ u.hw.streams = s.hw.streams ∧ u.hw.eng.steps = s.hw.eng.steps
        ∧ u.hw.eng.replays = [r] ∧ r.unit = (unitOf i p).getD 0 ∧ r.who = passUnit t op ∧ r.running = false ∧ r.fails = 0
        ∧ r.ctx = none ∧ r.refetch = false)

/-- A Pump transfer that may run, between device spaces or from the host, with neither idle_chamber, hash nor a granule map,
copies its rows: every destination byte in its space takes the source byte where the source has it (elsewhere it is a free
value, log 22), and no other byte of the destination space changes. The image region and the directory, which stand below the
weight store, take no Pump's bytes (log 88). (Where the classes may write, log 119; the source of a Pump program that streams a
bound version's weights, log 116.) -/
def Obligations.PumpCopiesRow : Prop :=
  ∀ (s : State) (p : Nat) (d : BitVec 256) (data : List Byte), p < 16 → s.hw.pumpServes p d = true → s.hw.pumpAllowed d = true →
    s.hw.eng.replays = [] → pumpDstSpace d ≤ 4 → pumpIdle d = false → pumpHash d = false → pumpMap d = false →
    let dst := pumpField d 64 64
    let len := pumpField d 128 32
    let from0 := pumpField d 160 3
    let to0 := pumpField d 163 3
    let rows := pumpField d 192 16
    let dstRow (r : Nat) : Nat := dst + r * (pumpField d 224 16 * 64)
    let source (r k : Nat) : Option Byte :=
      if from0 = 5 then some ((padTo len (data.drop (r * len))).getD k 0)
      else match s.hw.pumpSrcByte d (r * (pumpField d 208 16 * 64) + k) with
        | some a => if s.hw.inSpace from0 a then some (s.hw.spaceByte from0 a) else none
        | none => none
    let kept (a : Nat) : Prop := s.hw.inSpace to0 a = false ∨ to0 = 1 ∧ a < s.hw.storeBase
    rows = 1 ∨ from0 ≠ to0 ∧ len ≤ pumpField d 224 16 * 64 →
    ∃ t, exec (.pumpTransferComplete p d data .clean) s = .next t
      ∧ (∀ r k b, r < rows → k < len → ¬ kept (dstRow r + k) → source r k = some b → t.hw.spaceByte to0 (dstRow r + k) = b)
      ∧ (∀ a, kept a ∨ (∀ r, r < rows → a < dstRow r ∨ dstRow r + len ≤ a) → t.hw.spaceByte to0 a = s.hw.spaceByte to0 a)
      ∧ (∀ sp a, sp ≠ to0 → t.hw.spaceByte sp a = s.hw.spaceByte sp a)
      ∧ (((s.hw.pumpStep d).map PumpStep.base).getD .space = .space → ∀ o, s.hw.pumpSrcByte d o = some (pumpField d 0 64 + o))
      ∧ t.hw.streams = s.hw.streams ∧ t.hw.mem.ecc = s.hw.mem.ecc ∧ t.hw.rings = s.hw.rings ∧ t.hw.qs = s.hw.qs

/-- The waiting replay unit whose fault was detected first starts to run again, with the other faults of the same work: every lock
stands where it stood at the unit's first step, and the unit's steps are to be done again, of a Conv-Scan Unit those of its
group's streams. Memories and streams stand as they were, but for the passes that a Conv-Scan Unit has to repeat. (A step that
has handed its berm on, or released the one it read, stands, log 120.) -/
def Obligations.ReplayRunsFirstFault : Prop :=
  ∀ (s : State) (i : ImageFile) (r : Replay), s.hw.engOn = true → s.hw.ex.image = some i →
    s.hw.eng.replays.find? (fun x => !x.running && !x.refetch && x.who.kind != .lane) = some r →
    let again (x : Replay) : Bool := x.unit == r.unit && !x.refetch && x.who.kind != .lane
      && (if r.who.kind = .csu then x.who.kind == .csu && x.who.index / 4 == r.who.index / 4 else x.who.kind != .csu)
    let first := match i.parts.tick.units[r.unit]? with | some u => u.first | none => 0
    ∃ t, exec .replayStart s = .next t
      ∧ t.hw.eng.replays = s.hw.eng.replays.map (fun x => if again x then { x with running := true } else x)
      ∧ t.hw.mem = s.hw.mem ∧ t.hw.eng.fenced = s.hw.eng.fenced ∧ t.hw.ex = s.hw.ex
      ∧ (∀ l, l < i.parts.tick.locks → tget 0 t.hw.eng.locks l = swapsBefore i l first)
      ∧ t.hw.eng.steps = (if r.who.kind = .csu then s.hw.eng.steps else s.hw.eng.steps.filter (fun p => !inUnit i r.unit p))
      ∧ (∀ c, s.hw.stream c = none → t.hw.stream c = none)
      ∧ (∀ c x, s.hw.stream c = some x → t.hw.stream c = some { x with work := { x.work with
          cover := x.work.cover.filter (fun e => !r.repeats i e.1 c || bermDone i x e.1) } })

/-! ### The Sample Engine -/

/-- A Conv-Scan Unit pass whose inputs and berm are there and whose checks pass writes its results into its stream. Once every
step that reads the berm is complete, its buffer is released. The pass that completes its step hands the berm of its own stripe
on to the unit that runs the next stripe, or holds it until that unit's release; where no stripe reads it, none is handed on.
Nothing else changes. A pass that fails its checks writes nothing, hands nothing on, and its replay unit is queued. (The stream
that a berm belongs to, log 120.) -/
def Obligations.CsuPassWritesResults : Prop :=
  ∀ (s : State) (i : ImageFile) (x : Stream) (op : CsuOp) (units : List Nat) (expects : Option Nat) (c p ctx t0 count : Nat) (errs : List SumError),
    s.hw.engOn = true → c < 32 → (⟨.csu, c⟩ : UnitId) ∉ s.hw.eng.fenced → (s.hw.csu c).waiting = none → s.hw.ex.image = some i →
    s.hw.stream ctx = some x → (tickStep i p).map TickStep.op = some (.csu units op expects) → c = s.hw.csuRunner i p ctx →
    s.hw.eng.replays = [] → x.synth = true → stepCovered i x p op = false → csuReady i x p op t0 count = true →
    ((s.hw.csu c).held = none ∨ bermReaders i x p = []) →
    let buf := expects.bind (s.hw.bermFor c ctx)
    (expects.isSome = true → buf.isSome = true) →
    let se := s.hw.mem.se
    let berm := buf.map (fun k => (stripeFirst i x op, (s.hw.csu k).berm))
    let y := csuDo se i x p op t0 count berm errs
    let left : Option Nat := match expects with
      | some q => if (bermReaders i y q).all (fun e => stepCovered i y e.1 e.2) then buf else none
      | none => none
    let out : Option Berm := (bermReaders i y p).head?.map (fun e =>
      { goes := s.hw.csuRunner i e.1 ctx, tag := bermTag s.hw.ex.tick p, ctx := ctx, samples := bermOf i y op })
    let after (k : Nat) : CsuUnit :=
      if left = some k then { s.hw.csu k with reading := false, flag := none, berm := [], released := true } else s.hw.csu k
    let wrote (t : State) : Prop := t.hw.stream ctx = some y ∧ (∀ k, k ≠ ctx → t.hw.stream k = s.hw.stream k) ∧ t.hw.mem = s.hw.mem
      ∧ t.hw.eng = { s.hw.eng with csus := t.hw.eng.csus }
    y.bank = x.bank
    ∧ (csuOk se i x op t0 count berm errs = true → ∃ t, exec (.csuPassComplete c p ctx t0 count errs .pass) s = .next t ∧ wrote t
        ∧ (stepCovered i y p op = false → t.hw = s.hw.setStream ctx y)
        ∧ (stepCovered i y p op = true → out = none → ∀ k, t.hw.csu k = after k)
        ∧ (stepCovered i y p op = true → ∀ b, out = some b →
          ((after b.goes).released = true →
            let hit := decide ((after b.goes).waiting = some b.tag)
            t.hw.csu b.goes = { after b.goes with flag := some b.tag, berm := b.samples, ctx := b.ctx, released := false, reading := hit
                                                  waiting := if hit then none else (after b.goes).waiting }
            ∧ ∀ k, k ≠ b.goes → t.hw.csu k = after k)
          ∧ ((after b.goes).released = false → t.hw.csu c = { after c with held := some b } ∧ ∀ k, k ≠ c → t.hw.csu k = after k)))
    ∧ (∃ t r, exec (.csuPassComplete c p ctx t0 count errs .fault) s = .next t ∧ t.hw.streams = s.hw.streams ∧ t.hw.mem = s.hw.mem
        ∧ t.hw.eng.csus = s.hw.eng.csus ∧ t.hw.eng.replays = [r] ∧ r.who = ⟨.csu, c⟩ ∧ r.unit = (unitOf i p).getD 0 ∧ r.ctx = none
        ∧ r.running = false ∧ r.fails = 0)

/-- A consumer starts its pass when the berm's flag carries the tag it expects, in its own buffer or, on the peer that runs a
fenced unit's stripe, in that unit's; it waits while none does. A producer that holds a finished berm writes it, with its tag,
once the consumer has released the buffer, and a consumer that waits for that tag starts. Nothing else changes. -/
def Obligations.BermHandshake : Prop :=
  ∀ (s : State) (c : Nat) (tag : BitVec 32), s.hw.engOn = true → c < 32 →
    let only (t : State) : Prop := t.hw = { s.hw with eng := { s.hw.eng with csus := t.hw.eng.csus } }
    let elsewhere (k : Nat) : Prop := k ∈ csuGroup c ∧ k ≠ c ∧ (⟨.csu, k⟩ : UnitId) ∈ s.hw.eng.fenced ∧ (s.hw.csu k).flag = some tag
    ((s.hw.csu c).flag = some tag → ∃ t, exec (.bermConsume c tag) s = .next t ∧ only t
      ∧ t.hw.csu c = { s.hw.csu c with reading := true, waiting := none } ∧ ∀ k, k ≠ c → t.hw.csu k = s.hw.csu k)
    ∧ (∀ k, (s.hw.csu c).flag ≠ some tag → elsewhere k → (∀ j, elsewhere j → j = k) →
      ∃ t, exec (.bermConsume c tag) s = .next t ∧ only t ∧ t.hw.csu c = { s.hw.csu c with waiting := none }
      ∧ t.hw.csu k = { s.hw.csu k with reading := true } ∧ ∀ j, j ≠ c → j ≠ k → t.hw.csu j = s.hw.csu j)
    ∧ ((s.hw.csu c).flag ≠ some tag → (∀ j, ¬ elsewhere j) →
      exec (.bermConsume c tag) s = .next { s with hw := s.hw.setCsu c { s.hw.csu c with waiting := some tag } })
    ∧ (∀ b, (s.hw.csu c).held = some b → (s.hw.csu b.goes).released = true →
      let v := if b.goes = c then { s.hw.csu c with held := none } else s.hw.csu b.goes
      ∃ t, exec (.bermRelease c) s = .next t
        ∧ (b.goes ≠ c → t.hw.csu c = { s.hw.csu c with held := none })
        ∧ t.hw.csu b.goes = { v with flag := some b.tag, berm := b.samples, ctx := b.ctx, released := false
                                     reading := decide (v.waiting = some b.tag)
                                     waiting := if v.waiting = some b.tag then none else v.waiting }
        ∧ (∀ j, j ≠ c → j ≠ b.goes → t.hw.csu j = s.hw.csu j) ∧ only t)
    ∧ ((s.hw.csu c).held = none → exec (.bermRelease c) s = .next s)
    ∧ (∀ b, (s.hw.csu c).held = some b → (s.hw.csu b.goes).released = false → exec (.bermRelease c) s = .next s)

/-- An issue slot of a lane: the second slot of an S16C step presents its lo columns; a slot with no eligible context stays
empty; otherwise the next eligible context in round-robin order issues its next step. The oldest step in a lane's pipeline
is written back into its stream; with a failed check it writes nothing and may be issued again from unchanged operands, and
the reissue is counted. (Reissues, log 46.) -/
def Obligations.LaneSteps : Prop :=
  (∀ (s : State) (i : ImageFile) (l slot c : Nat) (x : Stream), s.hw.engOn = true → l < 24 → (⟨.lane, l⟩ : UnitId) ∉ s.hw.eng.fenced →
      s.hw.ex.image = some i →
      ((s.hw.lane l).lo = some c → exec (.laneIssueSlot l) s =
        .next { s with hw := s.hw.setLane l { s.hw.lane l with slots := (s.hw.lane l).slots + 1, lo := none } })
      ∧ ((s.hw.lane l).lo = none → s.hw.nextIssue i l = none → exec (.laneIssueSlot l) s =
        .next { s with hw := s.hw.setLane l { s.hw.lane l with slots := (s.hw.lane l).slots + 1 } })
      ∧ ((s.hw.lane l).lo = none → s.hw.nextIssue i l = some (slot, c, x) → ∃ t y, exec (.laneIssueSlot l) s = .next t
          ∧ (t.hw.lane l).slots = (s.hw.lane l).slots + 1 ∧ (t.hw.lane l).lastSlot = slot
          ∧ (t.hw.lane l).flight = (s.hw.lane l).flight ++ [(c, x.work.lane.step)]
          ∧ (t.hw.lane l).lo = (if twoSlots i x.work.lane.step then some c else none)
          ∧ t.hw.stream c = some y ∧ y.work.lane.inFlight = true ∧ y.bank = x.bank ∧ y.wbank = x.wbank
          ∧ (∀ k, k ≠ c → t.hw.stream k = s.hw.stream k) ∧ (∀ k, k ≠ l → t.hw.lane k = s.hw.lane k)))
  ∧ (∀ (s : State) (i : ImageFile) (x : Stream) (st : LaneStep) (l c : Nat) (rest : List (Nat × Nat)) (errs : List SumError) (chk : PassCheck),
      s.hw.engOn = true → l < 24 → s.hw.ex.image = some i → (s.hw.lane l).flight = (c, x.work.lane.step) :: rest →
      (s.hw.lane l).lo ≠ some c → s.hw.stream c = some x → laneStep i x.work.lane.step = some st → x.synth = true →
      x.work.lane.inFlight = true → s.hw.eng.replays = [] →
      (stepOk s.hw.mem.se i x st errs = true → exec (.laneStepWriteback l errs .pass) s =
        .next { s with hw := (s.hw.setLane l { s.hw.lane l with flight := rest }).setStream c (stepDo s.hw.mem.se i x st x.work.lane.step errs) })
      ∧ (chk = .fault ∨ chk = .pass ∧ stepOk s.hw.mem.se i x st errs = false →
          ∃ t y, exec (.laneStepWriteback l errs chk) s = .next t ∧ t.hw.stream c = some y ∧ y.wbank = x.wbank ∧ y.bank = x.bank
          ∧ y.work.lane.step = x.work.lane.step ∧ y.work.lane.inFlight = false ∧ (t.hw.lane l).flight = rest
          ∧ (t.hw.lane l).reissues = (s.hw.lane l).reissues + 1
          ∧ (t.hw.histOf ⟨.lane, l⟩).count = (s.hw.histOf ⟨.lane, l⟩).count + 1 ∧ t.hw.mem = s.hw.mem
          ∧ (∀ k, k ≠ c → t.hw.stream k = s.hw.stream k) ∧ (∀ k, k ≠ l → t.hw.lane k = s.hw.lane k)))

/-- A rebuild that completes leaves both banks with the layer histories and scan states that the conditioning of the
utterance gives, every other part of the committed bank as it was, and sets at most the stream's sticky arithmetic flags and,
with the drift trips of the tick, its drift flag. The bank of a stream whose planned eviction has this as its last output tick is copied once its run, frame and chunk have passed. -/
def Obligations.RebuildAndEviction : Prop :=
  (∀ (s : State) (i : ImageFile) (x : Stream) (c : Nat), s.hw.decodes = true → s.hw.ex.image = some i → s.hw.stream c = some x → x.rebuilding = true →
      let r := rebuildTicks s.hw.mem.se i x x.history.frames x.history.spill 0 0 x.bank.utt.uttFirst.toNat
        { part := { x.bank.sample with hist := [], scans := [] }, trips := [], sat := false, nan := false }
      let drift := r.trips.foldl (fun (a : Option (Nat × Nat)) k => match a with | none => some (k, 1) | some (l, n) => some (min l k, n + 1)) x.work.drift
      ∃ t y, exec (.rebuildComplete c) s = .next t ∧ t.hw.stream c = some y
        ∧ y = { x with rebuilding := false, arithSat := x.arithSat || r.sat, arithNonfinite := x.arithNonfinite || r.nan,
                            stateDrift := x.stateDrift || !r.trips.isEmpty, work := { x.work with drift := drift }, bank := y.bank, wbank := y.bank }
        ∧ y.bank = { x.bank with sample := { x.bank.sample with hist := r.part.hist, scans := r.part.scans } }
        ∧ (∀ k, k ≠ c → t.hw.stream k = s.hw.stream k) ∧ t.hw.mem = s.hw.mem)
  ∧ (∀ (s : State) (x : Stream) (c : Nat), s.hw.inTick = true → s.hw.stream c = some x → x.plan = some s.hw.ex.tick → x.life ≠ .lost →
      s.hw.runIncomplete [] c x = false → s.hw.frameIncomplete [] c x = false → s.hw.chunkIncomplete [] c x = false →
      exec (.evictionCopy c) s = .next { s with hw := s.hw.setStream c { x with work := { x.work with copied := true } } })

/-! ### Weight store, page-ins and memories -/

/-- The first waiting page-in for which the cache has room, or for which the permitted evictions make room, is admitted and
counted against the tick; where it has room already, no other version changes; where the evictions give no room, nothing
changes. When it completes, the expert is resident and not yet usable. The near copy of a trunk starts in a free near slot
once no RETIRING trunk holds one; when it completes, the near copy is resident, and a trunk that staging waits for is STAGED.
A copy that completes has brought every payload byte from its granule to its place in near memory, and no other byte changes.
(Which granules, log 103; where a near granule map stands, log 88; where the blocks of a version stand, log 114; a page-in that
no eviction makes fit, log 21.) -/
def Obligations.PageInsAndTrunkCopies : Prop :=
  let copied (i : ImageFile) (v : VSlot) (s t : State) : Prop :=
    t.hw.mem = { s.hw.mem with near := t.hw.mem.near }
    ∧ (∀ a, (∀ o, o < v.length → v.nearByte i o ≠ some a) → read8 t.hw.mem.near a = read8 s.hw.mem.near a)
    ∧ (∀ o a b, o < v.length → v.nearByte i o = some a → (∀ j, j < v.length → v.nearByte i j = some a → j = o) →
        s.hw.inSpace 0 a = true → s.hw.farByte v o = some b → read8 t.hw.mem.near a = s.hw.spaceByte 1 b)
  (∀ (s : State) (i : ImageFile) (p : PageIn), s.hw.memOn = true → s.hw.ex.image = some i →
      (s.hw.cat.pagesTick < 24 →
        s.hw.cat.pageIns.find? (fun r => !r.admitted && !(s.hw.vslot false r.idx r.slot).damaged) = some p →
        let need := (s.hw.vslot false p.idx p.slot).need
        let room := cacheGranules i + s.hw.evictable.foldl (fun n e => n + e.2.2.need) 0 - s.hw.cacheUsed
        (need ≤ room → ∃ t, exec .pageInAdmit s = .next t
          ∧ t.hw.cat.pageIns = s.hw.cat.pageIns.map (fun r => if r.idx = p.idx ∧ r.slot = p.slot then { r with admitted := true } else r)
          ∧ t.hw.cat.pagesTick = s.hw.cat.pagesTick + 1 ∧ t.hw.streams = s.hw.streams ∧ t.hw.mem = s.hw.mem ∧ t.hw.rings = s.hw.rings
          ∧ (s.hw.cacheUsed + need ≤ cacheGranules i → p.slot < 2 →
            t.hw.vslot false p.idx p.slot = { s.hw.vslot false p.idx p.slot with
              nearGranules := (s.hw.cacheFree (cacheGranules i)).take need, nearMap := (t.hw.vslot false p.idx p.slot).nearMap }
            ∧ (∀ j k, k < 2 → ¬ (j = p.idx ∧ k = p.slot) → t.hw.vslot false j k = s.hw.vslot false j k)))
        ∧ (room < need → exec .pageInAdmit s = .next s))
      ∧ (s.hw.cat.pageIns.find? (fun r => r.admitted && r.idx == p.idx) = some p → (s.hw.vslot false p.idx p.slot).state ≠ .free →
        ∃ t, exec (.pageInComplete p.idx) s = .next t
          ∧ t.hw.vslot false p.idx p.slot = { s.hw.vslot false p.idx p.slot with resident := true, usable := false }
          ∧ t.hw.cat.pageIns = s.hw.cat.pageIns.filter (fun r => !(r.idx == p.idx && r.slot == p.slot))
          ∧ t.hw.streams = s.hw.streams ∧ copied i (s.hw.vslot false p.idx p.slot) s t))
  ∧ (∀ (s : State) (i : ImageFile) (g : Staging) (k n : Nat), k < 3 → s.hw.memOn = true → s.hw.ex.image = some i →
      (s.hw.copyDue k = true → (s.hw.trunk k).nearSlot = none → (∀ j, j < 3 → (s.hw.trunk j).state ≠ .retiring) → s.hw.freeTrunkSlot i = some n →
        ∃ t, exec (.trunkCopyStart k) s = .next t
          ∧ t.hw.trunk k = { s.hw.trunk k with nearSlot := some n, resident := false, nearMap := (t.hw.trunk k).nearMap }
          ∧ (∀ j, j < 3 → j ≠ k → t.hw.trunk j = s.hw.trunk j) ∧ t.hw.rings = s.hw.rings ∧ t.hw.mem = s.hw.mem)
      ∧ ((s.hw.trunk k).nearSlot = some n → (s.hw.trunk k).resident = false → s.hw.cat.staging = [g] → g.trunk = true → g.slot = k →
          g.copying = true →
        ∃ t p, exec (.trunkCopyComplete k) s = .next t ∧ copied i (s.hw.trunk k) s t
          ∧ t.hw.trunk k = { s.hw.trunk k with resident := true, usable := true, state := .staged } ∧ t.hw.cat.staging = []
          ∧ t.hw.rings.done = s.hw.rings.done ++ [p] ∧ p.r.status = 0x00 ∧ (∀ j, j < 3 → j ≠ k → t.hw.trunk j = s.hw.trunk j))
      ∧ ((s.hw.trunk k).nearSlot = some n → (s.hw.trunk k).resident = false → s.hw.cat.staging = [] →
        ∃ t, exec (.trunkCopyComplete k) s = .next t ∧ copied i (s.hw.trunk k) s t
          ∧ t.hw.trunk k = { s.hw.trunk k with resident := true, usable := true }
          ∧ (∀ j, j < 3 → j ≠ k → t.hw.trunk j = s.hw.trunk j) ∧ t.hw.rings = s.hw.rings))

/-- A staged expert package whose hash, length and shapes are those announced has its payload in its granules and becomes
STAGED, and its WEIGHT_STAGE completes DONE with its slot and the first 8 bytes of its hash; with another hash the slot
returns to FREE and the descriptor completes REJECTED_FORMAT, and after a failed read ABORTED. (Which granules, log 103;
where the granule map stands, log 88.) -/
def Obligations.StagedPayloadIsVerified : Prop :=
  ∀ (s : State) (i : ImageFile) (g : Staging) (m : ManifestEntry) (rest : List Byte) (choice gs : List Nat), s.hw.memOn = true →
    s.hw.ex.image = some i → s.hw.cat.staging = [g] → g.copying = false → g.verified = false → g.trunk = false → g.restore = false →
    g.slot < 2 → manifestOf i true g.entry = some m → m.length = g.length → s.hw.takeGranules g.length choice = some gs →
    let payload := padTo g.length (g.fed ++ rest)
    let ends (ok : Bool) (status : BitVec 8) : Prop :=
      ∃ t p, exec (.stagePayloadVerified g.seq rest g.length m.shapes choice ok) s = .next t
        ∧ (t.hw.vslot false g.idx g.slot).state = .free ∧ t.hw.cat.staging = [] ∧ t.hw.mem = s.hw.mem
        ∧ t.hw.rings.done = s.hw.rings.done ++ [p] ∧ p.r.status = status ∧ p.r.tag = g.tag
    (sha512 payload = g.hash → ∃ t p, exec (.stagePayloadVerified g.seq rest g.length m.shapes choice true) s = .next t
        ∧ t.hw.vslot false g.idx g.slot = { s.hw.vslot false g.idx g.slot with
            granules := gs, mapAddr := (t.hw.vslot false g.idx g.slot).mapAddr, blocks := m.blocks, state := .staged }
        ∧ t.hw.mem.far = (s.hw.writePayload gs payload).mem.far ∧ t.hw.cat.staging = []
        ∧ t.hw.rings.done = s.hw.rings.done ++ [p] ∧ p.r.status = 0x00 ∧ p.r.tag = g.tag ∧ p.r.detail0 = BitVec.ofNat 16 g.slot
        ∧ p.r.detail1 = g.hash.setWidth 64)
    ∧ (sha512 payload ≠ g.hash → ends true 0x05)
    ∧ ends false 0x01

/-- A refetch that succeeds is counted, and its replay unit may replay; one that fails makes the version DAMAGED, is counted
and recorded at the far channel, and nothing replays. A scrub read with no error changes nothing; one that is corrected is
counted at its stack or channel; one that is uncorrectable acts as a read by the line's owner. The far-memory controller
counts each per-bank refresh, each ZQ calibration and each refresh management command, and follows the multiplier that a poll
reports with the temperature it reads. Nothing else changes. (Which line a failed refetch names, log 88.) -/
def Obligations.FarMemoryAndScrub : Prop :=
  (∀ (s : State) (r : Replay) (unit : Nat), s.hw.memOn = true →
      s.hw.eng.replays.find? (fun x => x.refetch && x.unit == unit && x.owner.isSome) = some r →
      let left (f : Replay → Replay) : List Replay := if r.who.kind = .nearStack then s.hw.eng.replays.filter (fun x => x != r)
        else s.hw.eng.replays.map (fun x => if x = r then f x else x)
      exec (.granuleRefetchComplete unit true) s = .next { s with hw := { s.hw with
        mem := { s.hw.mem with ecc := { s.hw.mem.ecc with refetch := satAdd s.hw.mem.ecc.refetch 1 } }
        eng := { s.hw.eng with replays := left (fun x => { x with refetch := false }) } } }
      ∧ (∀ tr idx k, r.owner = some (tr, idx, k) → k < (if tr then 3 else 2) →
          let v := s.hw.vslot tr idx k
          v.damaged = false → v.state = .staged ∨ v.state = .current ∨ v.state = .retiring →
          ∃ t ch, exec (.granuleRefetchComplete unit false) s = .next t
            ∧ t.hw.vslot tr idx k = { v with damaged := true, nearGranules := if v.resident then v.nearGranules else [] }
            ∧ t.hw.eng.replays = left (fun x => { x with owner := none })
            ∧ t.hw.mem.ecc.lastSpace = 1 ∧ (tget 0 t.hw.mem.ecc.farUnc ch) = satAdd (tget 0 s.hw.mem.ecc.farUnc ch) 1
            ∧ (∀ j, j ≠ ch → tget 0 t.hw.mem.ecc.farUnc j = tget 0 s.hw.mem.ecc.farUnc j)
            ∧ t.hw.log ≠ s.hw.log ∧ (tr = true → t.hw.ex.perm = true) ∧ t.hw.streams = s.hw.streams
            ∧ t.hw.mem = { s.hw.mem with ecc := t.hw.mem.ecc }))
  ∧ (∀ (s : State) (unit : Nat) (ok : Bool), (∀ x ∈ s.hw.eng.replays, x.refetch = true → x.unit = unit → x.owner = none) →
      exec (.granuleRefetchComplete unit ok) s = .next s)
  ∧ (∀ (s : State) (a n : Nat) (o : LineOwner), s.hw.memOn = true →
      let count (t : Table W32) (k : Nat) : Table W32 := tput 0 t k (satAdd (tget 0 t k) 1)
      let ecc (e : EccStat) : Host.Outcome State Fault Refusal := .next { s with hw := { s.hw with mem := { s.hw.mem with ecc := e } } }
      (a < 0x2000000000 →
        exec (.patrolScrub true (stackOf a) a .clean) s = .next s
        ∧ exec (.patrolScrub true (stackOf a) a (.corrected n)) s =
            ecc { s.hw.mem.ecc with nearCorr := count s.hw.mem.ecc.nearCorr (stackOf a) }
        ∧ exec (.patrolScrub true (stackOf a) a (.uncorrectable n o)) s =
            .next { s with hw := s.hw.uncorrectable true (stackOf a) a ⟨.nearStack, stackOf a⟩ scrubUnit o (BitVec.ofNat 256 a) }
        ∧ ∃ t, exec (.patrolScrub true (stackOf a) a (.uncorrectable n .other)) s = .next t
            ∧ t.hw.mem = { s.hw.mem with ecc := { s.hw.mem.ecc with
                nearUnc := count s.hw.mem.ecc.nearUnc (stackOf a), lastSpace := 0, lastAddr := BitVec.ofNat 64 a } }
            ∧ t.hw.log ≠ s.hw.log ∧ t.hw.streams = s.hw.streams ∧ t.hw.eng = s.hw.eng ∧ t.hw.cat = s.hw.cat)
      ∧ (0x100000000000 ≤ a → a < 0x100000000000 + s.hw.farBytes →
        exec (.patrolScrub false (channelOf a) a .clean) s = .next s
        ∧ exec (.patrolScrub false (channelOf a) a (.corrected n)) s =
            ecc { s.hw.mem.ecc with farCorr := count s.hw.mem.ecc.farCorr (channelOf a) }
        ∧ exec (.patrolScrub false (channelOf a) a (.uncorrectable n o)) s =
            .next { s with hw := s.hw.uncorrectable false (channelOf a) a ⟨.nearStack, channelOf a⟩ scrubUnit o (BitVec.ofNat 256 a) }
        ∧ ∃ t, exec (.patrolScrub false (channelOf a) a (.uncorrectable n .other)) s = .next t
            ∧ t.hw.mem = { s.hw.mem with ecc := { s.hw.mem.ecc with
                farUnc := count s.hw.mem.ecc.farUnc (channelOf a), lastSpace := 1, lastAddr := BitVec.ofNat 64 a } }
            ∧ t.hw.log ≠ s.hw.log ∧ t.hw.streams = s.hw.streams ∧ t.hw.eng = s.hw.eng ∧ t.hw.cat = s.hw.cat))
  ∧ (∀ (s : State) (ch bank m : Nat) (x : W16), s.hw.memOn = true → ch < 48 → bank < 64 →
      exec (.lpddrRefresh ch bank) s = .next { s with hw := { s.hw with mem := { s.hw.mem with
        refreshes := tput 0 s.hw.mem.refreshes (ch * 64 + bank) (tget 0 s.hw.mem.refreshes (ch * 64 + bank) + 1) } } }
      ∧ exec (.refreshRatePoll m x) s = .next { s with hw := { s.hw with mem := { s.hw.mem with multiplier := m, polled := x } } }
      ∧ exec .zqCalibration s = .next { s with hw := { s.hw with mem := { s.hw.mem with zq := s.hw.mem.zq + 1 } } }
      ∧ exec (.refreshManagement ch) s = .next { s with hw := { s.hw with mem := { s.hw.mem with
          rfm := tput 0 s.hw.mem.rfm ch (tget 0 s.hw.mem.rfm ch + 1) } } })

/-! ### What waits beside a stream -/

/-- The first OPEN that waits for a lane slot allocates a free context on the slot that R136 places it on, in the phase group
that it names or in the one with the fewest streams, and completes DONE with the new handle; the later ones keep their places.
(Which free context, log 59; its admission checks are made again, log 77.) -/
def Obligations.WaitingOpenTakesSlot : Prop :=
  ∀ (s : State) (i : ImageFile) (a : Admitted) (rest : List Admitted) (c : Nat) (sl : LaneSlot), s.hw.inTick = true →
    s.hw.ex.image = some i → s.hw.rings.laneWait = a :: rest → dOpcode a.desc = 0x01 → dFormatOk a.desc = true →
    s.hw.openOptions i a.desc = true → s.hw.ex.hold = false → s.hw.ctxs.length < s.hw.admitLimit →
    s.hw.freeCtx = some c → s.hw.placeLane = some sl →
    let g := if bitOf (dField a.desc 0x26 1) 7 then dField a.desc 0x26 1 % 8 else s.hw.fewestGroup
    s.hw.phaseCount g < s.hw.groupLimit →
    ∃ t x p, exec .laneSlotAdmit s = .next t ∧ t.hw.stream c = some x ∧ x.lane = some sl ∧ x.life = .idle ∧ x.owner = a.owner ∧ x.home = a.q
      ∧ x.phase = g ∧ x.rate = dField a.desc 0x24 1 ∧ x.incarnation = tget 0 s.hw.incs c + 1
      ∧ (∀ k, k ≠ c → t.hw.stream k = s.hw.stream k) ∧ t.hw.rings.laneWait = rest ∧ t.hw.mem = s.hw.mem
      ∧ t.hw.rings.done = s.hw.rings.done ++ [p] ∧ p.r.status = 0x00 ∧ p.r.tag = dTag a.desc ∧ p.r.handle = handleOf c x.incarnation ∧ p.q = a.q

/-- The oldest queued FEED of a stream takes effect when its frames fit: they join the feature area, and the FEED completes
DONE with their number; while they do not fit it stays in front. Once an IMPORT has released the lock and completed, the FEEDs
that it held leave the hold; other streams are as before. (They act on the imported stream, log 9.) -/
def Obligations.WaitingFeeds : Prop :=
  (∀ (s : State) (i : ImageFile) (x : Stream) (f : WaitFeed) (rest : List WaitFeed) (c : Nat) (v : FeedData) (bs : List BlockEntry),
      s.hw.inTick = true → s.hw.ex.image = some i → s.hw.stream c = some x → x.queued = f :: rest → f.a.payload = .feed (.ok v) →
      readList (.feature (frameBytes i)) (dField f.a.desc 0x20 4) v.list = some bs →
      (listFrames (imgFw i) (frameBytes i) bs v.frames).length = dField f.a.desc 0x14 4 →
      x.bank.utt.generation.toNat = dField f.a.desc 0x10 4 →
      (areaRoom i x.area (dField f.a.desc 0x14 4) = true →
        ∃ t y p, exec (.feedQueuedApply c) s = .next t ∧ t.hw.stream c = some y ∧ y.queued = rest
        ∧ y.area = placeFrames { x.area with raw := x.area.raw ++ listFrames (imgFw i) (frameBytes i) bs v.frames }
        ∧ y.bank = x.bank ∧ t.hw.rings.done = s.hw.rings.done ++ [p] ∧ p.r.status = 0x00 ∧ p.r.detail0 = BitVec.ofNat 16 (dField f.a.desc 0x14 4)
        ∧ (∀ k, k ≠ c → t.hw.stream k = s.hw.stream k))
      ∧ (areaRoom i x.area (dField f.a.desc 0x14 4) = false →
        ∃ t, exec (.feedQueuedApply c) s = .next t ∧ t.hw.stream c = some x ∧ t.hw.rings.done = s.hw.rings.done
        ∧ (∀ k, k ≠ c → t.hw.stream k = s.hw.stream k)))
  ∧ (∀ (s : State) (i : ImageFile) (x : Stream) (c : Nat), s.hw.inTick = true → s.hw.ex.image = some i → s.hw.stream c = some x →
      x.locked = false → x.importSeq = none → (x.life = .idle ∨ x.life = .speaking) →
      ∃ t y, exec (.feedHeldRelease c) s = .next t ∧ t.hw.stream c = some y ∧ y.held = [] ∧ y.bank = x.bank ∧ y.life = x.life
        ∧ (∀ k, k ≠ c → t.hw.stream k = s.hw.stream k) ∧ t.hw.mem = s.hw.mem)

/-- An AUDIO_IN whose first window has come and whose list is good places its samples and completes DONE with the samples
that came late; one whose read failed completes ABORTED, and one whose list is bad REJECTED_FORMAT, and neither places any. -/
def Obligations.AudioOpensAtFirstWindow : Prop :=
  ∀ (s : State) (x : Stream) (a : WaitAudio) (v : AudioData) (c : Nat), s.hw.inTick = true → s.hw.stream c = some x → x.audio = [a] →
    a.opened = false → windowCome x a = true →
    let ends (status : BitVec 8) : Prop := ∃ t y p, exec (.audioInFirstWindow c) s = .next t ∧ t.hw.stream c = some y ∧ y.audio = []
        ∧ t.hw.rings.done = s.hw.rings.done ++ [p] ∧ p.r.status = status ∧ p.r.tag = a.tag ∧ t.hw.cnt = s.hw.cnt
        ∧ (∀ k, k ≠ c → t.hw.stream k = s.hw.stream k)
    (a.data = .ok v → audioBlocksOk a v = true → ∃ t y p, exec (.audioInFirstWindow c) s = .next t ∧ t.hw.stream c = some y
        ∧ y.audio = [{ a with opened := true }] ∧ y.bank = x.bank ∧ t.hw.rings.done = s.hw.rings.done ++ [p] ∧ p.r.status = 0x00
        ∧ p.r.tag = a.tag ∧ p.r.detail0 = BitVec.ofNat 16 (min (lateSamples x a) 65535)
        ∧ t.hw.cnt.audioLate = s.hw.cnt.audioLate + BitVec.ofNat 64 (lateSamples x a) ∧ (∀ k, k ≠ c → t.hw.stream k = s.hw.stream k))
    ∧ (a.data = .ok v → audioBlocksOk a v = false → ends 0x05)
    ∧ (a.data = .failed → ends 0x01)

/-! ### Random bits and exact sums -/

/-- A mask with probability m is yes exactly when its 16-bit draw u lies below m: never for m = 0, always for m = 65,536, and
for exactly m of the 65,536 values of u. -/
def Obligations.MaskProbability : Prop :=
  ∀ (seed stream : W64) (p : Purpose) (element step m : Nat), m ≤ 65536 →
    (maskYes seed stream p element step m = true ↔ (drawAt seed stream p element step 0).toNat / 2 ^ 48 < m)
    ∧ maskYes seed stream p element step 0 = false ∧ maskYes seed stream p element step 65536 = true
    ∧ ((List.range 65536).filter (fun u => decide (u < m))).length = m

/-- When the exact sum of a block's terms is zero, the block sum is +0.0, whatever the signs of the zero terms. -/
def Obligations.ZeroBlockSum : Prop :=
  let value : Exact → ℚ
    | .fin neg m e => (if neg then -(m : ℚ) else (m : ℚ)) * (2 : ℚ) ^ e
    | _ => 0
  ∀ ts : List Exact, (∀ x ∈ ts, ∃ neg m e, x = .fin neg m e) → (ts.map value).sum = 0 → toF32 (exactSum ts) = 0#32

/-! ### Start, stop and load (TICK_CTL) -/

/-- Each trigger of TICK_CTL acts under its conditions: a load begins the checks, a start begins the start sequence, and a
stop is latched for the next boundary, or for the one after from a commit window. Nothing else changes. (A load that is
under way, log 48.) A start request in SAFE is refused and recorded: the executive's state does not change, and vector 511
is raised. -/
def Obligations.TickControl : Prop :=
  (∀ (s : State) (w : W64), s.hw.alive = true → w &&& 0xFFFFFFFFFF00E0F8#64 = 0 →
      (w &&& 7#64 = 1#64 → s.hw.ex.mode = .ready → s.hw.ex.running = false → s.hw.ex.start = .none → s.hw.mem.loadBusy = false →
        exec (.tickCtlLoad w) s = .next { s with hw := { s.hw with ex := { s.hw.ex with loadState := 1 } } })
      ∧ (w &&& 7#64 = 2#64 → s.hw.ex.mode = .ready → s.hw.ex.image ≠ none → s.hw.ex.running = false → s.hw.ex.start = .none →
          s.hw.mem.trainFail = none →
        exec (.tickCtlStart w) s = .next { s with hw := { s.hw with ex := { s.hw.ex with start := .testing } } })
      ∧ (w &&& 7#64 = 4#64 → s.hw.ex.running = true → s.hw.streams = [] → s.hw.ex.stopping = none →
        exec (.tickCtlStop w) s = .next { s with hw := { s.hw with ex := { s.hw.ex with
          stopping := some (if s.hw.ex.window = .commit then 2 else 1) } } }))
  ∧ (∀ (s : State) (w : W64), s.hw.alive = true → w &&& 0xFFFFFFFFFF00E0F8#64 = 0 → w &&& 7#64 = 2#64 → s.hw.ex.mode = .safe →
      ∃ t, exec (.tickCtlStart w) s = .next t ∧ t.hw.ex = s.hw.ex ∧ t.hw.log ≠ s.hw.log ∧ 511 ∈ t.hw.link.raise)

/-- The load checks end in the image coming into force, with M5 extended by its hash and the weights of the Conv-Scan Units and
the lanes in SE SRAM, or in the number of the first check that fails, with the previous image in force. (The structured
sections of an image, log 43; the place of the weights, log 74.) -/
def Obligations.LoadChecksEnd : Prop :=
  ∀ s : State, s.hw.memOn = true → s.hw.ex.loadState = 1 → s.hw.ex.mode = .ready → s.hw.ex.running = false → s.hw.ex.start = .none →
    let c := s.hw.checkRegion
    ∃ t, exec .loadCheck s = .next t
      ∧ t.hw.ex = { s.hw.ex with image := if c = 0 then s.hw.mem.region else s.hw.ex.image
                                 loadState := if c = 0 then 2 else 3
                                 failedCheck := BitVec.ofNat 8 c }
      ∧ (∀ i, c = 0 → s.hw.mem.region = some i →
          tget (0 : Hash) t.hw.sec.meas 5 = sha512 (hashBytes (tget (0 : Hash) s.hw.sec.meas 5) ++ hashBytes (imgHash i))
          ∧ t.hw.mem = { s.hw.mem with se := writeN s.hw.mem.se 0 (seWeights i) })
      ∧ (∀ k, k ≠ 5 → tget (0 : Hash) t.hw.sec.meas k = tget (0 : Hash) s.hw.sec.meas k)
      ∧ (c ≠ 0 → t.hw.sec = s.hw.sec ∧ t.hw.log ≠ s.hw.log ∧ t.hw.mem = s.hw.mem) ∧ t.hw.qs = s.hw.qs

/-- A self-test in which every unit with results gives the expected ones is counted; epoch 0 is then scheduled, or, for a
follower, waits for its edge. A unit whose results differ is fenced, the run is not counted, and the start goes on only where
every fence has an entry of the degraded table: otherwise the device rests in SAFE. (The form of a unit's results, log 104.) -/
def Obligations.SelfTestPasses : Prop :=
  ∀ s : State, s.hw.decodes = true → s.hw.ex.start = .testing → s.hw.ex.safePlan = none →
    (∀ r : List (UnitId × List W64), (∀ e ∈ r, testable e.1 = true → failsAt e.2 = none) →
      exec (.selftest r) s = .next { s with hw := { s.hw with
        ex := { s.hw.ex with start := if s.hw.ts.ctlNow.toNat % 4 = 2 then .waitEdge else .scheduled }
        cnt := { s.hw.cnt with selftests := s.hw.cnt.selftests + 1 } } })
    ∧ (∀ (u : UnitId) (r : List W64), testable u = true → failsAt r ≠ none → u ∉ s.hw.eng.fenced →
      ∃ t, exec (.selftest [(u, r)]) s = .next t ∧ u ∈ t.hw.eng.fenced ∧ t.hw.cnt = s.hw.cnt ∧ t.hw.log ≠ s.hw.log
        ∧ 511 ∈ t.hw.link.raise ∧ t.hw.streams = s.hw.streams
        ∧ (if t.hw.fencesCovered then t.hw.ex.start = (if s.hw.ts.ctlNow.toNat % 4 = 2 then .waitEdge else .scheduled)
           else t.hw.ex.start = .none ∧ t.hw.ex.mode = .safe))

/-! ### Memory set-up -/

/-- The far addresses of the regions, as words 4 to 7 of MEM_CFG read them; without far memory they read 0. -/
def Obligations.FarMemoryRegions : Prop :=
  ∀ h : Hw,
    let none := decide (h.farBytes = 0)
    let image := 0x100000000000
    let dir := image + h.mem.imageSize.toNat * 0x40000000
    let region := h.mem.voiceMax.toNat * 4096 + 65536
    let store := (dir + 2 * region + 0x1FFFFF) / 0x200000 * 0x200000
    let work := (image + h.farBytes - 0x80000000) / 0x200000 * 0x200000
    h.bar0Read 0x420 8 = (if none then 0 else BitVec.ofNat 64 dir)
    ∧ h.bar0Read 0x428 8 = (if none then 0 else BitVec.ofNat 64 store)
    ∧ h.bar0Read 0x430 8 = (if none then 0 else BitVec.ofNat 64 ((work - store) / 0x200000))
    ∧ h.bar0Read 0x438 8 = (if none then 0 else BitVec.ofNat 64 work)

/-- MEM_CFG word 0 takes a legal pair of sizes while the executive is stopped and the weight store is empty; otherwise a
write that changes a size is ignored and recorded. load_go starts a copy when no copy runs, no load is checking, and the
device is neither in HOLDING nor ASLEEP, whether or not the executive runs; otherwise it is refused. A copy that ends
changes the image region and never the image in force. (After a failed copy the region is as before, log 23.) -/
def Obligations.ImageMemory : Prop :=
  (∀ (s : State) (w : W64), s.hw.alive = true → w &&& 0xFFFFFFFFE00000E0#64 = 0 → 1 ≤ w.toNat % 32 → w.toNat % 32 ≤ 16 →
      1024 ≤ w.toNat / 256 % 2097152 → w.toNat / 256 % 2097152 ≤ 1048576 →
      (s.hw.ex.running = false → s.hw.storeUsed = false →
        exec (.memCfgWrite .both w) s = .next { s with hw := { s.hw with mem := { s.hw.mem with
          imageSize := BitVec.ofNat 5 (w.toNat % 32), voiceMax := BitVec.ofNat 21 (w.toNat / 256 % 2097152) } } })
      ∧ (s.hw.ex.running = true ∨ s.hw.storeUsed = true →
        w.toNat % 32 ≠ s.hw.mem.imageSize.toNat ∨ w.toNat / 256 % 2097152 ≠ s.hw.mem.voiceMax.toNat →
        ∃ t, exec (.memCfgWrite .both w) s = .next t ∧ t.hw.mem = s.hw.mem ∧ t.hw.log ≠ s.hw.log))
  ∧ (∀ (s : State) (w : W64) (f : ImageFile), s.hw.alive = true → w &&& 0xFFFFFFFFFFFFFFF0#64 = 0 → w &&& 1#64 = 1#64 →
      let may := s.hw.mem.loadBusy = false ∧ s.hw.ex.loadState ≠ 1 ∧ s.hw.ex.mode ≠ .holding ∧ s.hw.ex.mode ≠ .asleep
      (may → s.hw.mem.loadLen.toNat ≤ s.hw.imageRegionBytes → exec (.memCfgLoadGo w) s = .next { s with hw := { s.hw with
          mem := { s.hw.mem with loadDone := false, loadErr := false, loadBusy := true } } })
      ∧ (¬ may → ∃ t, exec (.memCfgLoadGo w) s = .next t ∧ t.hw.mem = s.hw.mem ∧ t.hw.ex = s.hw.ex ∧ t.hw.log ≠ s.hw.log)
      ∧ (s.hw.memOn = true → s.hw.mem.loadBusy = true →
          exec (.imageCopyComplete (some f)) s = .next { s with hw := { s.hw with mem := { s.hw.mem with
            loadBusy := false, loadDone := true, loadErr := false, regionBad := false
            region := some { f with file := f.file.take s.hw.mem.loadLen.toNat } } } }
          ∧ exec (.imageCopyComplete none) s = .next { s with hw := { s.hw with mem := { s.hw.mem with
            loadBusy := false, loadDone := true, loadErr := true } } }))

/-! ### Queue and transfer set-up -/

/-- XFER_MODE changes its mode while the executive is stopped, to legacy only with 10-bit tags or wider, and the reads that
the new mode allows are issued; a write that may not change it is refused and recorded. TICKSYNC_CTL holds its role and delay at once and brings them into force at a boundary; a
policy word that fits its entry does the same; ECC_STAT is cleared at a boundary; ERR_LOG is emptied at a boundary while the
executive runs. (While the executive is stopped the boundary of what no tick's work uses is the idle publication, log 14.) -/
def Obligations.SettingsAtABoundary : Prop :=
  (∀ (s : State) (p : Part) (w : W64), s.hw.alive = true → p ≠ .hi → carried p w &&& 0xFFFF00000000FCFE#64 = 0 → s.hw.ex.running = false →
      (w &&& 1#64 = 1#64 → s.hw.link.tags ≠ 0) →
      let n := { s.hw with link := { s.hw.link with legacy := decide (w &&& 1#64 = 1#64) } }
      exec (.xferModeWrite p w) s = .next { s with hw := n.issueReads })
  ∧ (∀ (s : State) (p : Part) (w : W64), s.hw.alive = true → p ≠ .hi → carried p w &&& 0xFFFF00000000FCFE#64 = 0 →
      s.hw.ex.running = true ∨ w &&& 1#64 = 1#64 ∧ s.hw.link.tags = 0 →
      ∃ t, exec (.xferModeWrite p w) s = .next t ∧ t.hw.log ≠ s.hw.log ∧ 511 ∈ t.hw.link.raise ∧ t.hw.qs = s.hw.qs
        ∧ t.hw.link = { s.hw.link with raise := t.hw.link.raise })
  ∧ (∀ (s : State) (w : W32) (off : Nat), s.hw.alive = true →
      let n := if s.hw.ex.running && decide (s.hw.ex.window = .commit) then 2 else 1
      (w &&& 0xF800FFFC#32 = 0 → w.toNat % 4 ≠ 3 → exec (.ticksyncCtlWrite .lo (w.setWidth 64)) s = .next { s with hw := { s.hw with
          ts := { s.hw.ts with ctl := w }, latches := s.hw.latches ++ [(n, .ticksync w)] } })
      ∧ (off < 0x280 → off % 4 = 0 → w &&& 0xFFFFFE0C#32 = 0 → (w.toNat.testBit 8 = true → w.toNat / 16 % 16 ≤ 12) →
          exec (.wardenPolicyWrite off w) s = .next { s with hw := { s.hw with
            war := { s.hw.war with policy := tput 0 s.hw.war.policy (off / 4) w }, latches := s.hw.latches ++ [(n, .policy off w)] } })
      ∧ exec (.eccStatClear 1) s = .next { s with hw := { s.hw with latches := s.hw.latches ++ [(n, .eccClear)] } }
      ∧ (s.hw.ex.running = true → exec (.errLogClear 1) s = .next { s with hw := { s.hw with latches := s.hw.latches ++ [(n, .logClear)] } })
      ∧ (s.hw.ex.running = false → exec (.errLogClear 1) s = .next { s with hw := { s.hw with log := { s.hw.log with
          slots := [], writeSlot := 1, overwritten := 0 } } }))

/-- Enabling a submission queue resets its fetch position and its reported head and clears its fault; disabling one stops it
at once, and its reads are gone. SQ_CREDIT takes a credit within the pool, which comes into force at the next boundary.
Enabling a completion queue sets its tail and head to 0; disabling one needs that nothing stands due to it; CQ_VECTOR takes
any vector but 511, for which the write is dropped and recorded. -/
def Obligations.QueueSetup : Prop :=
  (∀ (s : State) (q : Fin 256) (g : Part) (w : W64), s.hw.alive = true → s.hw.sequencerOn = true → g ≠ .hi →
      let p := s.hw.queue q
      (carried g w &&& 0xFFFF00000000FCE0#64 = 0 → 4 ≤ w.toNat % 32 → w.toNat % 32 ≤ 16 →
        (w.toNat.testBit 8 = true → p.sqOn = false → p.cqOn = true → s.hw.creditSum + p.credit.toNat ≤ s.hw.ordinaryPool →
          ∃ t, exec (.sqEnable q g w) s = .next t
            ∧ t.hw = { s.hw with qs := t.hw.qs, link := { s.hw.link with
                urgentWait := s.hw.link.urgentWait.filter (fun e => e.1 != q.val), urgentOut := s.hw.link.urgentOut.filter (fun e => e.1 != q.val) } }
            ∧ t.hw.queue q = { p with sqLog := BitVec.ofNat 5 (w.toNat % 32), sqOn := true, fetch := 0, tail := 0, head := 0, fault := false,
                                      urgent := 0, retried := false, outstanding := 0 }
            ∧ (∀ k, k ≠ q.val → t.hw.queue k = s.hw.queue k))
        ∧ (w.toNat.testBit 8 = false → p.sqOn = true → w.toNat % 32 = p.sqLog.toNat →
          ∃ t, exec (.sqDisable q g w) s = .next t
            ∧ t.hw = { s.hw with qs := t.hw.qs, rings := { s.hw.rings with admitted := t.hw.rings.admitted }
                                 link := { s.hw.link with
                urgentWait := t.hw.link.urgentWait, urgentOut := t.hw.link.urgentOut, turn := t.hw.link.turn } }
            ∧ t.hw.queue q = { p with sqOn := false, outstanding := 0, urgent := 0 }
            ∧ t.hw.rings.admitted.map (fun a => { a with unread := false }) = s.hw.rings.admitted.map (fun a => { a with unread := false })
            ∧ (∀ e ∈ t.hw.link.urgentOut ++ t.hw.link.urgentWait, e.1 ≠ q.val)
            ∧ (∀ k, k ≠ q.val → t.hw.queue k = { s.hw.queue k with outstanding := (t.hw.queue k).outstanding })))
      ∧ (carried g w &&& 0xFFFFFFFF00000000#64 = 0 → p.sqOn = true → w.toNat % 65536 ≤ s.hw.ordinaryPool →
          s.hw.creditSum - p.credit.toNat + w.toNat % 65536 ≤ s.hw.ordinaryPool →
          exec (.sqCreditWrite q g w) s = .next { s with hw := { s.hw.setQueue q { p with credit := BitVec.ofNat 16 (w.toNat % 65536) } with
            latches := s.hw.latches ++ [(if s.hw.ex.running && decide (s.hw.ex.window = .commit) then 2 else 1,
                                         .credit q.val (BitVec.ofNat 16 (w.toNat % 65536)))] } }))
  ∧ (∀ (s : State) (q : Fin 256) (g : Part) (w : W64), s.hw.alive = true → s.hw.sequencerOn = true → g ≠ .hi →
      let p := s.hw.queue q
      (carried g w &&& 0xFCE0#64 = 0 → 4 ≤ w.toNat % 32 → w.toNat % 32 ≤ 16 → w.toNat.testBit 9 = false →
        (w.toNat.testBit 8 = true → p.cqOn = false →
          exec (.cqEnable q g w) s = .next { s with hw := s.hw.setQueue q ({ p with
            cqLog := BitVec.ofNat 5 (w.toNat % 32), cqOn := true, cqTail := 0, cqHead := 0, dropped := 0 }) })
        ∧ (w.toNat.testBit 8 = false → p.cqOn = true → w.toNat % 32 = p.cqLog.toNat → s.hw.cqIdle q = true →
          exec (.cqDisable q g w) s = .next { s with hw := s.hw.setQueue q ({ p with cqOn := false }) }))
      ∧ (carried g w &&& 0xFFFFFFFFFFFFFE00#64 = 0 →
        (w.toNat % 512 ≠ 511 → exec (.cqVectorWrite q g w) s = .next { s with hw := s.hw.setQueue q ({ p with vector := BitVec.ofNat 9 w.toNat }) })
        ∧ (w.toNat % 512 = 511 → ∃ t, exec (.cqVectorWrite q g w) s = .next t ∧ t.hw.qs = s.hw.qs ∧ t.hw.link.dropCount ≠ 0)))

/-! ### Latched settings and clears -/

/-- PWR_CAP holds a cap code of 0, 1 or 2 at once and brings it into force at the next boundary; 3 and reserved bits are
refused, with the write dropped and recorded; at reset it is 0. The codes stand for 1,150 W, 900 W and 700 W, and no
write through BAR2 reaches the register. -/
def Obligations.PowerCapWrite : Prop :=
  Hw.reset.pwrCap = 0 ∧ Hw.reset.pwrCapNow = 0 ∧ capWatts 0 = 1150 ∧ capWatts 1 = 900 ∧ capWatts 2 = 700 ∧
  (∀ (s t : State) (off size : Nat) (d : W64) (bad : TlpFault), exec (.registerWrite .bar2 off size d bad) s = .next t →
      t.hw.pwrCap = s.hw.pwrCap ∧ t.hw.pwrCapNow = s.hw.pwrCapNow ∧ t.hw.latches = s.hw.latches) ∧
  ∀ (s : State) (w : W32), s.hw.alive = true →
    (w.toNat < 3 → ∃ t, exec (.pwrCapWrite w) s = .next t ∧ t.hw.pwrCap = w ∧ t.hw.pwrCapNow = s.hw.pwrCapNow
        ∧ t.hw.latches = s.hw.latches ++ [(if s.hw.ex.running && decide (s.hw.ex.window = .commit) then 2 else 1, .pwrCap w)]
        ∧ (∀ h : Hw, (h.force (.pwrCap w)).pwrCapNow = w) ∧ t.hw.link = s.hw.link
        ∧ t.hw.bar0Read 0x28 4 = w.setWidth 64)
    ∧ (3 ≤ w.toNat → ∃ t, exec (.pwrCapWrite w) s = .next t ∧ t.hw.pwrCap = s.hw.pwrCap ∧ t.hw.latches = s.hw.latches
        ∧ t.hw.link.dropCount ≠ 0)

/-! ### Register writes -/

/-- A naturally aligned 8-byte write to the staging window stores its bytes little-endian: the window reads back what was
written, and every other byte of it is as before. A 4-byte write of one half of SQ_BASE leaves the other half as it was, and
an 8-byte write takes both as one change. -/
def Obligations.RegisterWriteSizes : Prop :=
  (∀ (s : State) (o : Nat) (d : W64), s.hw.alive = true → o % 8 = 0 → o + 8 ≤ 0x1000000 →
      ∃ t, exec (.registerWrite .bar0 (0x1000000 + o) 8 d .none) s = .next t ∧ t.hw.bar0Read (0x1000000 + o) 8 = d
        ∧ (∀ a, a < o ∨ o + 8 ≤ a → read8 t.hw.sec.window a = read8 s.hw.sec.window a) ∧ t.hw.mem = s.hw.mem ∧ t.hw.ex = s.hw.ex
        ∧ t.hw.qs = s.hw.qs ∧ t.hw.link = s.hw.link)
  ∧ (∀ (s : State) (q : Fin 256) (d : W64), s.hw.alive = true → s.hw.sequencerOn = true → (s.hw.queue q).sqOn = false → d &&& 0xFFF#64 = 0 →
      let p := s.hw.queue q
      let at0 := 0x10000 + q.val * 0x80
      let set (v : W64) : Host.Outcome State Fault Refusal := .next { s with hw := s.hw.setQueue q ({ p with sqBase := v }) }
      exec (.registerWrite .bar0 at0 8 d .none) s = set d
      ∧ exec (.registerWrite .bar0 at0 4 d .none) s = set ((p.sqBase >>> 32 <<< 32) ||| (d &&& 0xFFFFFFFF#64))
      ∧ exec (.registerWrite .bar0 (at0 + 4) 4 d .none) s = set ((d <<< 32) ||| (p.sqBase &&& 0xFFFFFFFF#64)))

/-! ### SMBus -/

/-- The SMBus commands at the module's address, 0x5C plus its address straps: the pointer is set; a read gives the register at
the pointer and moves it on by 4; a write beyond what SMBus may write is refused with status 1; with the main rails off an access
beyond the Warden's registers is refused with status 2; the status is returned. A transaction with a wrong PEC is answered with
NACK and does nothing else; one at another address does nothing. (A misaligned pointer, log 36; the straps, log 3.) -/
def Obligations.SmbusCommands : Prop :=
  ∀ (s : State) (p d : W32) (f : SmbusFrame), s.hw.pwr.auxUp = true →
    let at0 := s.hw.link.smPtr.toNat
    let nack : State := { s with hw := { s.hw with link := { s.hw.link with smNack := true } } }
    (f.addr.toNat = 0x5C + s.hw.pwr.smbAddr.toNat → f.pec = true →
      exec (.smbusSetPointer p f) s = .next { s with hw := { s.hw with link := { s.hw.link with smPtr := p, smNack := false } } }
      ∧ exec (.smbusStatus f) s = .next { s with hw := { s.hw with link := { s.hw.link with
          smData := s.hw.link.smStat.setWidth 32, smNack := false } } }
      ∧ (at0 % 4 = 0 → s.hw.pwr.railsOn = true → smbusReads at0 = true →
          exec (.smbusRead f) s = .next { s with hw := { s.hw with link := { s.hw.link with
            smPtr := s.hw.link.smPtr + 4, smStat := 0, smData := (s.hw.bar0Read at0 4).setWidth 32, smNack := false } } })
      ∧ (s.hw.link.smPtr = 0x28 → s.hw.pwr.railsOn = true → d.toNat < 3 → ∃ t, exec (.smbusWrite d f) s = .next t ∧ t.hw.pwrCap = d
          ∧ t.hw.link.smStat = 0 ∧ t.hw.link.smPtr = 0x2C ∧ t.hw.link.smNack = false)
      ∧ (s.hw.pwr.railsOn = true → smbusWrites at0 = false → exec (.smbusWrite d f) s =
          .next { s with hw := { s.hw with link := { s.hw.link with smPtr := s.hw.link.smPtr + 4, smStat := 1, smNack := false } } })
      ∧ (s.hw.pwr.railsOn = false → at0 % 4 = 0 → at0 < 0x2000 ∨ 0x2800 ≤ at0 → exec (.smbusWrite d f) s =
          .next { s with hw := { s.hw with link := { s.hw.link with smPtr := s.hw.link.smPtr + 4, smStat := 2, smNack := false } } })
      ∧ (s.hw.pwr.railsOn = false → at0 % 4 = 0 → wardenReach at0 = false → ∃ t, exec (.smbusRead f) s = .next t
          ∧ t.hw.link = { s.hw.link with smPtr := s.hw.link.smPtr + 4, smStat := 2, smNack := false, smData := t.hw.link.smData }))
    ∧ (f.addr.toNat = 0x5C + s.hw.pwr.smbAddr.toNat → f.pec = false →
      exec (.smbusSetPointer p f) s = .next nack ∧ exec (.smbusWrite d f) s = .next nack ∧ exec (.smbusRead f) s = .next nack
      ∧ exec (.smbusStatus f) s = .next nack)
    ∧ (f.addr.toNat ≠ 0x5C + s.hw.pwr.smbAddr.toNat →
      exec (.smbusSetPointer p f) s = .next s ∧ exec (.smbusWrite d f) s = .next s ∧ exec (.smbusRead f) s = .next s
      ∧ exec (.smbusStatus f) s = .next s)

/-! ### Firmware objects and attestation -/

/-- STAGE verifies the object in the window: it is refused with its error, or its write to the inactive slot begins; when
that ends, the slot holds a staged object, or the flash failed. ABANDON leaves the inactive slot empty and invalid. When the
write and the read-back of a STAGE end, the inactive slot holds the verified object and it is staged; where the flash fails,
the error is 07. The length that the command's upper half wrote is kept. (The object is kept from the command on, log 42; an
empty slot, log 130.) -/
def Obligations.FirmwareStagingAndAbandon : Prop :=
  (∀ (s : State) (w : W64) (k : Nat), s.hw.alive = true → w &&& 0x00000000FFFFFFE0#64 = 0 → w.toNat / 8 % 4 = k → s.hw.fwBusy = false →
      let x := s.hw.fwSlot k
      let len := w.toNat / 2 ^ 32
      let h : Hw := { s.hw with sec := { s.hw.sec with fwLength := BitVec.ofNat 32 len } }
      let o := readN s.hw.sec.window 0 len
      let e := if objError k s.hw.sec.revoked x.floor o ≠ 0 then objError k s.hw.sec.revoked x.floor o
               else if leField o 0x10 4 + 1024 ≠ len then 0x06 else 0
      (w.toNat % 8 = 1 → 1024 ≤ len → len ≤ 1024 + payloadLimit k →
        ∃ t, exec (.fwStage w) s = .next t
          ∧ (e ≠ 0 → t.hw = h.setFw k { x with err := BitVec.ofNat 8 e, update := if x.staged then 4 else 0 })
          ∧ (e = 0 → t.hw.sec.pendingKind = some k ∧ t.hw.sec.pendingObj = o
              ∧ t.hw.fwSlot k = { x.setInactive [] false with staged := false, update := 2, err := 0 })
          ∧ t.hw.ex = s.hw.ex ∧ (∀ j, j ≠ k → t.hw.fwSlot j = s.hw.fwSlot j))
      ∧ (w.toNat % 8 = 1 → len < 1024 ∨ 1024 + payloadLimit k < len → exec (.fwStage w) s =
          .next { s with hw := h.setFw k { x with err := 0x06, update := if x.staged then 4 else 0 } })
      ∧ (w.toNat % 8 = 3 → exec (.fwAbandon w) s =
          .next { s with hw := h.setFw k { x.setInactive [] false with staged := false, update := 0, err := 0 } }))
  ∧ (∀ (s : State) (k : Nat), s.hw.sec.pendingKind = some k →
      let x := s.hw.fwSlot k
      let after (y : FwSlot) : State :=
        { s with hw := { s.hw.setFw k y with sec := { (s.hw.setFw k y).sec with pendingKind := none, pendingObj := [] } } }
      exec (.fwStageComplete true) s = .next (after { x.setInactive s.hw.sec.pendingObj true with staged := true, update := 4, err := 0 })
      ∧ exec (.fwStageComplete false) s = .next (after { x with update := 0, err := 0x07 }))

/-- ACTIVATE with nothing staged is refused with 0B, and of a blob while the executive runs with 09; of a staged blob while
it is stopped it switches the slots, in the boot record too, and raises the floor; a running Warden hands over to a staged image
of a listed combination at a scan. A planned live switch takes effect at its boundary: the image that was staged runs, in trial,
a Sequencer from the other half of control SRAM, COMPAT_VEC follows, and M6 alone is extended. A trial that passes raises the
floor, and the boot record's trial flag clears. (Error 09 for a blob while the executive runs, log 58; the trial's count, log
50; the halves of control SRAM, log 107.) -/
def Obligations.FirmwareActivation : Prop :=
  (∀ (s : State) (w : W64) (k : Nat), s.hw.alive = true → w &&& 0x00000000FFFFFFE0#64 = 0 → w.toNat % 8 = 2 → w.toNat / 8 % 4 = k →
    s.hw.fwBusy = false →
    let x := s.hw.fwSlot k
    let h : Hw := { s.hw with sec := { s.hw.sec with fwLength := BitVec.ofNat 32 (w.toNat / 2 ^ 32) } }
    let going := h.setFw k { x with update := 5, err := 0 }
    (x.staged = false → exec (.fwActivate w) s = .next { s with hw := h.setFw k { x with err := 0x0B } })
    ∧ (x.staged = true → k = 3 → s.hw.ex.running = true → exec (.fwActivate w) s = .next { s with hw := h.setFw k { x with err := 0x09 } })
    ∧ (x.staged = true → k = 3 → s.hw.ex.running = false → ∃ t y, exec (.fwActivate w) s = .next t ∧ t.hw.fwSlot 3 = y
        ∧ y.activeB = !x.activeB ∧ y.a = x.a ∧ y.b = x.b ∧ y.staged = false ∧ y.runs = x.runs
        ∧ y.floor = BitVec.ofNat 32 (max x.floor.toNat (objSecurity x.inactive))
        ∧ t.hw.sec.record.map (fun r => nth false r.active 3) = some (!x.activeB)
        ∧ (∀ j, j ≠ 3 → t.hw.fwSlot j = s.hw.fwSlot j) ∧ t.hw.sec.meas = s.hw.sec.meas ∧ t.hw.ex = s.hw.ex)
    ∧ (x.staged = true → k = 1 → s.hw.ex.running = false → s.hw.war.on = true → (s.hw.stagedRow 1).isSome = true →
        exec (.fwActivate w) s = .next { s with hw := { going with sec := { going.sec with live := some (1, s.hw.ex.tick) } } }))
  ∧ (∀ (s : State) (k : Nat) (n : W64), s.hw.pwr.booted = true → s.hw.sec.live = some (k, n) → s.hw.ex.running = true →
    (s.hw.ex.tick < n → exec .fwLiveSwitch s = .next s)
    ∧ (n ≤ s.hw.ex.tick → ∃ t, exec .fwLiveSwitch s = .next t ∧ (t.hw.fwSlot k).runs = some (s.hw.fwSlot k).inactive
        ∧ (t.hw.fwSlot k).trial = true ∧ (t.hw.fwSlot k).activeB = !(s.hw.fwSlot k).activeB ∧ t.hw.sec.live = none
        ∧ t.hw.sec.ctlHigh = (if k = 0 then !s.hw.sec.ctlHigh else s.hw.sec.ctlHigh) ∧ (k = 1 → t.hw.war.on = true)
        ∧ t.hw.sec.listed = t.hw.currentRow.isSome ∧ (∀ j, j ≠ k → t.hw.fwSlot j = s.hw.fwSlot j)
        ∧ tget (0 : Hash) t.hw.sec.meas 6 = sha512 (hashBytes (tget (0 : Hash) s.hw.sec.meas 6) ++ hashBytes (signedHash (s.hw.fwSlot k).inactive))
        ∧ (∀ j, j ≠ 6 → tget (0 : Hash) t.hw.sec.meas j = tget (0 : Hash) s.hw.sec.meas j) ∧ t.hw.ex = s.hw.ex))
  ∧ (∀ (s : State) (k : Fin 4), s.hw.pwr.booted = true → (s.hw.fwSlot k).trial = true →
    65536 ≤ (s.hw.fwSlot k).trialTicks ∨ s.hw.ex.running = false →
    ∃ t, exec (.fwTrialEnd k) s = .next t ∧ t.hw.fwSlot k = { s.hw.fwSlot k with
      trial := false, trialTicks := 0
      floor := BitVec.ofNat 32 (max (s.hw.fwSlot k).floor.toNat (objSecurity (s.hw.fwSlot k).active)) }
      ∧ (∀ j, j ≠ k.val → t.hw.fwSlot j = s.hw.fwSlot j)
      ∧ t.hw.sec.record.map (fun r => (nth false r.active k, nth false r.trial k)) = some ((s.hw.fwSlot k).activeB, false)
      ∧ t.hw = { s.hw with sec := { s.hw.sec with fw := t.hw.sec.fw, recA := t.hw.sec.recA, recB := t.hw.sec.recB } })

/-- go captures the fields of a report, and is ignored while one is being made; a report ends with its bytes and a signature
that verifies over them under the identity key, with error 2 where that key is not unsealed, or with error 1. -/
def Obligations.AttestationReports : Prop :=
  (∀ (s : State) (w : W64), s.hw.alive = true → w &&& 0xFFFFFFFFF800FFC0#64 = 0 → w &&& 1#64 = 1#64 →
    (s.hw.sec.busy = true → exec (.attestGo w) s = .next s)
    ∧ (s.hw.sec.busy = false → exec (.attestGo w) s = .next { s with hw := { s.hw with sec := { s.hw.sec with
        busy := true, done := false, error := 0, capture := some s.hw.captureReport } } }))
  ∧ (∀ (s : State) (r : Report) (g : List Byte), s.hw.sec.busy = true → s.hw.sec.capture = some r →
    let ended (e : BitVec 3) : Host.Outcome State Fault Refusal :=
      .next { s with hw := { s.hw with sec := { s.hw.sec with busy := false, done := false, error := e, capture := none } } }
    (s.hw.sec.keyOk = false → exec (.attestReportDone (some g)) s = ended 2 ∧ exec (.attestReportDone none) s = ended 2)
    ∧ (s.hw.sec.keyOk = true → exec (.attestReportDone none) s = ended 1
        ∧ exec (.attestReportDone (some g)) s =
          if verifySig (sha512 (reportBytes r)) (padTo 132 g) Config.identityKey then
            .next { s with hw := { s.hw with sec := { s.hw.sec with
              busy := false, done := true, error := 0, capture := none, report := reportBytes r ++ padTo 132 g } } }
          else ended 1))

/-! ### The link -/

/-- Training reports the negotiated rate and width. Losing the link lets the tick in progress commit, and stops the executive
at once in a commit window. A new tag pool keeps every credit and issues the reads that it allows; a sum above a narrower pool
is recorded. Unmasking a vector whose message is pending sends that message and clears its pending bit; with none pending, the
mask clears and nothing is sent. A configuration write of Message Control sets MSI-X Enable and Function Mask in every state
in which the function answers configuration requests; while either holds messages back, none is sent. (The stop in the commit
window, log 52; Message Control and the unmasking of the function, log 32.) -/
def Obligations.LinkAndMessages : Prop :=
  (∀ s : State,
      (∀ r wd : BitVec 4, s.hw.pwr.railsOn = true → s.hw.pwr.perst = false → r.toNat ≤ 6 → wd.toNat ≤ 4 →
        exec (.linkTrained r wd) s = .next { s with hw := { s.hw with link := { s.hw.link with up := true, rate := r, width := wd } } })
      ∧ (s.hw.ex.running = false → exec .linkDown s = .next { s with hw := { s.hw with link := { s.hw.link with up := false } } })
      ∧ (s.hw.ex.running = true → s.hw.ex.window ≠ .commit ∨ s.hw.ex.rerun = true → exec .linkDown s = .next { s with hw := { s.hw with
          link := { s.hw.link with up := false }, ex := { s.hw.ex with linkLost := true } } })
      ∧ (s.hw.ex.running = true → s.hw.ex.window = .commit → s.hw.ex.rerun = false → ∃ t, exec .linkDown s = .next t
          ∧ t.hw.ex.running = false ∧ t.hw.link.up = false ∧ t.hw.streams = [] ∧ t.hw.qs = s.hw.qs)
      ∧ (∀ g : BitVec 2, s.hw.pwr.booted = true → g ≠ 3 →
          let n := { s.hw with link := { s.hw.link with tags := g } }
          (s.hw.ordinaryPool ≤ n.ordinaryPool ∨ n.creditSum ≤ n.ordinaryPool → exec (.tagSpaceChange g) s = .next { s with hw := n.issueReads })
          ∧ (n.ordinaryPool < s.hw.ordinaryPool → n.ordinaryPool < n.creditSum → ∃ t, exec (.tagSpaceChange g) s = .next t
              ∧ t.hw.link.tags = g ∧ (∀ k, t.hw.queue k = { s.hw.queue k with outstanding := (t.hw.queue k).outstanding })
              ∧ t.hw.log ≠ s.hw.log ∧ 511 ∈ t.hw.link.raise)))
  ∧ (∀ (s : State) (v : Fin 512), s.hw.alive = true → s.hw.link.msixOn = true → s.hw.link.funcMask = false → s.hw.link.up = true →
      s.hw.ex.linkLost = false → (∀ e ∈ s.hw.msix, e.1 ≠ v.val → e.2.pending = false ∨ e.2.masked = true) →
      let e := tget MsixEntry.reset s.hw.msix v
      let put (x : MsixEntry) : Table MsixEntry := tput MsixEntry.reset s.hw.msix v x
      (e.pending = false → exec (.msixUnmask (some v)) s = .next { s with hw := { s.hw with msix := put { e with masked := false } } })
      ∧ (e.pending = true → ∃ t, exec (.msixUnmask (some v)) s = .next t ∧ tget MsixEntry.reset t.hw.msix v = { e with masked := false, pending := false }
          ∧ t.hw.link.posted = s.hw.link.posted ++ [.msix v e.addr e.data] ∧ t.hw.streams = s.hw.streams ∧ t.hw.rings = s.hw.rings
          ∧ (∀ k, k ≠ v.val → tget MsixEntry.reset t.hw.msix k = tget MsixEntry.reset s.hw.msix k)))
  ∧ (∀ (s : State) (off size : Nat) (d : W64), s.hw.pwr.railsOn = true → s.hw.pwr.booted = true → s.hw.pwr.perst = false →
      ∃ t, exec (.registerWrite (.config .msixControl) off size d .none) s = .next t
        ∧ t.hw.link.funcMask = d.toNat.testBit 14 ∧ t.hw.link.msixOn = d.toNat.testBit 15 ∧ t.hw.ex = s.hw.ex ∧ t.hw.streams = s.hw.streams
        ∧ (d.toNat.testBit 14 = true ∨ d.toNat.testBit 15 = false → t.hw.msix = s.hw.msix ∧ t.hw.link.posted = s.hw.link.posted))

/-! ### Boot, resets and supplies -/

/-- Phase W runs once after 3V3_AUX has risen and starts the Warden exactly where the objects verify; phase M makes the function
answer, with the memories initialised and calibrated and M5, M6 and M7 at zero, and ends in READY, HOLDING or SAFE. -/
def Obligations.BootPhases : Prop :=
  (∀ s : State, s.hw.pwr.wDone = true → exec .phaseW s = .next s)
  ∧ (∀ s : State, s.hw.pwr.wDone = false → s.hw.pwr.refclk = .running →
    ∃ t, exec .phaseW s = .next t ∧ t.hw.pwr.auxUp = true ∧ t.hw.pwr.wDone = true ∧ t.hw.war.on = !t.hw.sec.wFailed ∧ t.hw.war.scans = 0
      ∧ t.hw.war.policyNow = t.hw.war.policy ∧ t.hw.pwr.railsOn = s.hw.pwr.railsOn ∧ t.hw.sec.meas = s.hw.sec.meas)
  ∧ (∀ (s : State) (f : Option (Nat × Nat)), s.hw.pwr.railsOn = true → s.hw.pwr.pgood = true → s.hw.pwr.booted = false → s.hw.pwr.refclk = .running →
    (∀ e, f = some e → e.1 < 48) →
    ∃ t, exec (.phaseM f) s = .next t ∧ t.hw.alive = true ∧ t.hw.mem.trainFail = f ∧ t.hw.mem.trained = f.isNone
      ∧ t.hw.mem.zq = s.hw.mem.zq + 1
      ∧ t.hw.ex.mode = (if s.hw.war.safe || s.hw.war.stuckSafe then .safe
                        else if t.hw.currentRow.isSome && t.hw.sequencerOn && !s.hw.sec.wFailed then .ready else .holding)
      ∧ (∀ k, 5 ≤ k → tget (0 : Hash) t.hw.sec.meas k = 0) ∧ t.hw.sec.boots = s.hw.sec.boots + 1 ∧ t.hw.war.wake = false)

/-- PERST# resets everything except the Warden and the supplies; with the main rails off it changes nothing. A
function-level reset, in every power state in which the function answers, returns the queue, MSI-X, XFER_MODE and
configuration registers, and treats a running executive as a link loss does; otherwise it changes nothing. (What PERST#
leaves, log 53; reads in flight and the power state at a function-level reset, log 33; what of the configuration space is
sticky, log 89.) -/
def Obligations.Resets : Prop :=
  ∀ s : State,
    (s.hw.pwr.railsOn = false → exec .perstAssert s = .next s)
    ∧ (s.hw.pwr.railsOn = true → ∃ t, exec .perstAssert s = .next t ∧ t.hw.pwr.perst = true ∧ t.hw.pwr.booted = false ∧ t.hw.pwr.railsOn = true
        ∧ t.hw.ex = Hw.reset.ex ∧ t.hw.qs = [] ∧ t.hw.streams = [] ∧ t.hw.rings = Hw.reset.rings ∧ t.hw.log = Hw.reset.log
        ∧ t.hw.mem = Hw.reset.mem ∧ t.hw.cat = Hw.reset.cat ∧ t.hw.msix = []
        ∧ t.hw.ports = [] ∧ t.hw.war.policy = s.hw.war.policy ∧ t.hw.war.scans = s.hw.war.scans ∧ t.hw.war.m = s.hw.war.m
        ∧ t.hw.sec.revoked = s.hw.sec.revoked ∧ t.hw.sec.boots = s.hw.sec.boots)
    ∧ (s.hw.pwr.booted = false ∨ s.hw.pwr.perst = true → exec .functionLevelReset s = .next s)
    ∧ (s.hw.pwr.booted = true → s.hw.pwr.perst = false →
        ∃ t, exec .functionLevelReset s = .next t ∧ t.hw.qs = [] ∧ t.hw.msix = [] ∧ t.hw.link.legacy = false ∧ t.hw.link.tags = 0
          ∧ t.hw.link.msixOn = false ∧ t.hw.link.funcMask = false ∧ t.hw.link.pci = s.hw.link.pci.flr
          ∧ t.hw.link.urgentWait = [] ∧ t.hw.link.urgentOut = [] ∧ t.hw.pwr = s.hw.pwr
          ∧ (s.hw.ex.running = false → t.hw.ex = s.hw.ex ∧ t.hw.streams = s.hw.streams)
          ∧ (s.hw.ex.running = true → s.hw.ex.window ≠ .commit ∨ s.hw.ex.rerun = true →
              t.hw.ex = { s.hw.ex with linkLost := true } ∧ t.hw.streams = s.hw.streams)
          ∧ (s.hw.ex.running = true → s.hw.ex.window = .commit → s.hw.ex.rerun = false → t.hw.ex.running = false ∧ t.hw.streams = []))

/-- What the supplies do to the block: the rails come on once both supplies are valid, whichever came first, and with 3V3_AUX the
address straps are read; each failure takes them off, and MOD_PGOOD and the content of both memories with them; a loss of 3V3_AUX stops the Warden too. With the rails off, or 3V3_AUX gone, the
failure finds nothing to take off. (The straps, log 3.) -/
def Obligations.Supplies : Prop :=
  ∀ s : State,
    exec .mainRailsStart s = .next { s with hw := { s.hw with pwr := { s.hw.pwr with
        auxUp := true, smbAddr := if s.hw.pwr.auxUp then s.hw.pwr.smbAddr else Config.smbStraps
        railsOn := true, pgood := true, inputCut := false } } }
    ∧ exec .railRegulationLoss s = .next { s with hw := { s.hw with pwr := { s.hw.pwr with pgood := false } } }
    ∧ (s.hw.pwr.railsOn = true → ∃ t, exec .inputUndervoltage s = .next t ∧ t.hw.pwr.railsOn = false ∧ t.hw.pwr.pgood = false
        ∧ t.hw.mem = Hw.reset.mem
        ∧ t.hw.war.inputLow = true ∧ t.hw.war.policy = s.hw.war.policy ∧ t.hw.pwr.auxUp = s.hw.pwr.auxUp ∧ t.hw.streams = [])
    ∧ (s.hw.pwr.railsOn = true → ∃ t, exec .inputOvervoltage s = .next t ∧ t.hw.pwr.railsOn = false ∧ t.hw.pwr.pgood = false
        ∧ t.hw.pwr.inputCut = true ∧ t.hw.mem = Hw.reset.mem ∧ t.hw.pwr.auxUp = s.hw.pwr.auxUp ∧ t.hw.streams = [])
    ∧ (s.hw.pwr.railsOn = true → ∃ t, exec .d3coldEntry s = .next t ∧ t.hw.pwr.railsOn = false ∧ t.hw.pwr.pgood = false
        ∧ t.hw.pwr.dstate = .d3cold ∧ t.hw.mem = Hw.reset.mem ∧ t.hw.war.policy = s.hw.war.policy ∧ t.hw.streams = [])
    ∧ (s.hw.pwr.railsOn = false → exec .inputUndervoltage s = .next s ∧ exec .d3coldEntry s = .next s
        ∧ exec .inputOvervoltage s = .next { s with hw := { s.hw with pwr := { s.hw.pwr with inputCut := true } } })
    ∧ (s.hw.pwr.auxUp = true → ∃ t, exec .auxPowerFail s = .next t ∧ t.hw.pwr.auxUp = false ∧ t.hw.pwr.railsOn = false ∧ t.hw.pwr.pgood = false
        ∧ t.hw.mem = Hw.reset.mem ∧ t.hw.war = Hw.reset.war ∧ t.hw.sec.revoked = s.hw.sec.revoked ∧ t.hw.streams = [])
    ∧ (s.hw.pwr.auxUp = false → exec .auxPowerFail s = .next s)

/-- D3hot is entered with the executive stopped, and the memories keep what they hold in self-refresh, far memory after an
all-bank refresh of each of its 48 channels; it is refused while the executive runs or starts. Back in D0 the device is in the
state of rest, with the same memory, far memory trained again. -/
def Obligations.SleepKeepsMemory : Prop :=
  ∀ s : State,
    (s.hw.alive = true → s.hw.ex.running = false → s.hw.ex.start = .none → ∃ t, exec .d3hotEntry s = .next t ∧ t.hw.ex.mode = .asleep
        ∧ t.hw.pwr.dstate = .d3hot ∧ t.hw.alive = false ∧ t.hw.streams = s.hw.streams ∧ t.hw.ex.image = s.hw.ex.image
        ∧ t.hw.mem = { s.hw.mem with nearSelf := true, farSelf := true, allBank := t.hw.mem.allBank }
        ∧ (s.hw.mem.farSelf = false → ∀ c, c < 48 → tget 0 t.hw.mem.allBank c = tget 0 s.hw.mem.allBank c + 1))
    ∧ (s.hw.alive = true → s.hw.ex.running = true ∨ s.hw.ex.start ≠ .none → ∃ t, exec .d3hotEntry s = .next t ∧ t.hw.ex = s.hw.ex
        ∧ t.hw.pwr = s.hw.pwr ∧ t.hw.mem = s.hw.mem ∧ t.hw.log ≠ s.hw.log)
    ∧ (s.hw.ex.mode = .asleep → s.hw.pwr.dstate = .d3hot → s.hw.pwr.railsOn = true → s.hw.pwr.refclk = .running →
        ∃ t, exec .d0Entry s = .next t ∧ t.hw.pwr.dstate = .d0 ∧ t.hw.ex.mode = s.hw.restMode ∧ t.hw.war.wake = false
          ∧ t.hw.mem = { s.hw.mem with nearSelf := false, farSelf := false, retrained := s.hw.mem.retrained + b2n s.hw.mem.farSelf }
          ∧ t.hw.streams = s.hw.streams ∧ t.hw.ex.image = s.hw.ex.image)

/-! ### The reference clock and TICKSYNC -/

/-- When the detector fires, the tick in progress is abandoned to run again, near memory goes to self-refresh and no stream
changes; at the end of holdover far memory has followed, after an all-bank refresh of its channels, and the PLLs stop; when
REFCLK returns they relock and the memories leave self-refresh but in ASLEEP, a follower waits for its edge, and a running
executive whose link is down, or was down in the outage, stops. (A start sequence begins again, log 34.) -/
def Obligations.ReferenceClockLoss : Prop :=
  ∀ s : State,
    let awake := { s.hw.mem with nearSelf := false, farSelf := false, retrained := s.hw.mem.retrained + b2n s.hw.mem.farSelf }
    (s.hw.pwr.refclk = .running → ∃ t, exec .refclkDetectorFire s = .next t ∧ t.hw.pwr.refclk = .holdover ∧ t.hw.pwr.masterBclk = false
        ∧ t.hw.ex.rerun = (s.hw.ex.rerun || s.hw.ex.running) ∧ t.hw.ex.tick = s.hw.ex.tick ∧ t.hw.ex.running = s.hw.ex.running
        ∧ t.hw.mem = { s.hw.mem with nearSelf := true } ∧ t.hw.streams = s.hw.streams ∧ t.hw.decodes = false)
    ∧ (s.hw.pwr.refclk ≠ .running → exec .refclkDetectorFire s = .next { s with hw := { s.hw with war := { s.hw.war with
        refEvents := s.hw.war.refEvents + 1 } } })
    ∧ (s.hw.pwr.refclk = .holdover → ∃ t, exec .holdoverEnd s = .next t
        ∧ t.hw = { s.hw with pwr := { s.hw.pwr with refclk := .stopped, pllsLocked := false }
                             mem := { s.hw.mem with farSelf := true, allBank := t.hw.mem.allBank } }
        ∧ (s.hw.mem.farSelf = false → ∀ c, c < 48 → tget 0 t.hw.mem.allBank c = tget 0 s.hw.mem.allBank c + 1))
    ∧ (s.hw.pwr.refclk ≠ .holdover → exec .holdoverEnd s = .next s)
    ∧ (∀ up : Bool, s.hw.pwr.refclk ≠ .running →
        (s.hw.ex.running = false → exec (.refclkReturn up) s = .next { s with hw := { s.hw with
            mem := if s.hw.ex.mode = .asleep then { s.hw.mem with nearSelf := true } else awake
            pwr := { s.hw.pwr with refclk := .running, pllsLocked := s.hw.pwr.booted && decide (s.hw.ex.mode ≠ .asleep) }
            link := { s.hw.link with up := s.hw.link.up && up } } })
        ∧ (s.hw.ex.running = true → s.hw.link.up = false ∨ up = false ∨ s.hw.ex.linkLost = true →
          ∃ t, exec (.refclkReturn up) s = .next t ∧ t.hw.ex.running = false
          ∧ t.hw.pwr.refclk = .running ∧ t.hw.streams = [])
        ∧ (s.hw.ex.running = true → s.hw.ex.mode ≠ .asleep → s.hw.link.up = true → up = true → s.hw.ex.linkLost = false →
          ∃ t, exec (.refclkReturn up) s = .next t
          ∧ t.hw.ex = s.hw.ex
          ∧ t.hw.pwr = { s.hw.pwr with refclk := .running, pllsLocked := s.hw.pwr.booted,
                                       syncTimeout := s.hw.pwr.syncTimeout || decide (s.hw.ts.ctlNow.toNat % 4 = 2) }
          ∧ t.hw.mem = awake ∧ t.hw.streams = s.hw.streams))
    ∧ (s.hw.pwr.refclk = .running → ∀ up : Bool, exec (.refclkReturn up) s = .next s)
    ∧ (s.hw.pwr.syncTimeout = true → ∃ t, exec .refclkReturnSyncTimeout s = .next t ∧ t.hw.pwr.syncTimeout = false ∧ t.hw.ts.missing = true
        ∧ t.hw.ts.sync = 2 ∧ t.hw.ts.own = true ∧ t.hw.cnt.syncMissing = s.hw.cnt.syncMissing + 1 ∧ t.hw.ex = s.hw.ex)
    ∧ (s.hw.pwr.syncTimeout = false → exec .refclkReturnSyncTimeout s = .next s)

/-- A TICKSYNC_IN edge schedules a follower's start; while it runs, an edge that lies within 2 ACLK of the boundary, by its time
plus the delay in force, is locked, and one farther away is a slip, and beyond 8,192 ACLK none; a tick with no edge is missing, and a start that gets none does not happen. (Agreement
of four slips, log 31.) -/
def Obligations.TicksyncEdges : Prop :=
  ∀ (s : State) (e : Int),
    (s.hw.decodes = true → s.hw.ex.start = .waitEdge →
      exec (.ticksyncInEdge e) s = .next { s with hw := { s.hw with ex := { s.hw.ex with start := .scheduled } } }
      ∧ ∃ t, exec .ticksyncStartTimeout s = .next t ∧ t.hw.ex = { s.hw.ex with start := .none } ∧ t.hw.log ≠ s.hw.log ∧ t.hw.ts = s.hw.ts)
    ∧ (s.hw.follows = true → s.hw.ex.start = .none → s.hw.pwr.syncTimeout = false →
      let edge := e - (s.hw.ts.ctlNow.extractLsb' 16 11).toInt
      let missing : State := { s with hw := { s.hw with
        ts := { s.hw.ts with sync := 2, missing := true, e := 0x8000, slips := [] }
        cnt := { s.hw.cnt with syncMissing := s.hw.cnt.syncMissing + 1 } } }
      exec .ticksyncMissing s = .next missing
      ∧ (e < -8192 ∨ 8192 < e → exec (.ticksyncInEdge edge) s = .next missing)
      ∧ (-2 ≤ e → e ≤ 2 → exec (.ticksyncInEdge edge) s = .next { s with hw := { s.hw with
          ts := { s.hw.ts with sync := 1, e := BitVec.ofInt 16 e, slips := [] } } })
      ∧ (-8192 ≤ e → e ≤ 8192 → (e < -2 ∨ 2 < e) → s.hw.ts.slips.length < 3 → exec (.ticksyncInEdge edge) s = .next { s with hw := { s.hw with
          ts := { s.hw.ts with sync := 3, slip := true, e := BitVec.ofInt 16 e, slips := e :: s.hw.ts.slips } } })
      ∧ (-8192 ≤ e → e ≤ 8192 → (e < -2 ∨ 2 < e) → s.hw.ts.slips = [e, e, e] → ∃ t, exec (.ticksyncInEdge edge) s = .next t
          ∧ t.hw.ts.rephase = e ∧ t.hw.ts.slips = [] ∧ t.hw.cnt.rephases = s.hw.cnt.rephases + 1 ∧ t.hw.ts.sync = 3))

/-! ### The Warden -/

/-- A scan samples every channel that is enabled: its raw code is the scan's code; its filter takes that code on the first
scan, and afterwards moves by the difference to the median over 2^s; the scan is counted. Streams are unchanged, and a scan
neither starts nor stops the executive. (The code of channel 0x72, log 26; while the executive is stopped a scan first brings
written policy into force, and this speaks of scans with none waiting.) -/
def Obligations.WardenScanFilters : Prop :=
  ∀ (s : State) (codes : List W16) (n : Nat), s.hw.wardenOn = true → s.hw.ex.running = true ∨ s.hw.latches = [] → n < 160 →
    s.hw.samples n = true →
    let c := s.hw.chan n
    let x := s.hw.code codes n
    let f := (tget 0 s.hw.war.policyNow n).toNat
    ∃ t, exec (.wardenScan codes) s = .next t ∧ (t.hw.chan n).raw = x ∧ (t.hw.chan n).sampled = true
      ∧ (c.sampled = true → (t.hw.chan n).y = c.y + (median (((x :: c.win).take 7).take (2 * (f % 4) + 1)) * 256 - c.y) / 2 ^ (f / 16 % 16))
      ∧ (c.sampled = false → -32768 ≤ x → x ≤ 65535 → (t.hw.chan n).y = x * 256)
      ∧ (t.hw.chan n).filtered = (t.hw.chan n).y / 256 ∧ t.hw.war.scans = s.hw.war.scans + 1 ∧ t.hw.war.refEvents = 0
      ∧ t.hw.streams = s.hw.streams ∧ t.hw.ex.running = s.hw.ex.running ∧ t.hw.war.policy = s.hw.war.policy

/-- The throttle: a dwell steps a held cluster down by 2, not below the lowest m its rules allow; 50 ms with nothing that
holds it step it up by 2, to 16 at most; a step of the power-cap loop moves every cluster down by 2, not below the image
floor. (When a cluster steps up, log 29.) The hardware trip, which asks for nothing but the main rails, drops every cluster to m =
1 and leads to SAFE: planned for the next boundary while the executive runs, a change of DEV_STATE while it is stopped; a device
that is asleep, or before the end of phase M, comes up in it. The control watchdog stops the executive
in SAFE with class 0A, every stream ended. -/
def Obligations.ThrottleAndTrip : Prop :=
  (∀ (s : State) (c : Fin 8), s.hw.wardenOn = true → s.hw.enginesOn = true →
      (s.hw.holders c ≠ [] → s.hw.lowest (s.hw.holders c) + 2 ≤ s.hw.mOf c → exec (.throttleDwell c) s =
        .next { s with hw := s.hw.setM c (s.hw.mOf c - 2) })
      ∧ (s.hw.holders c = [] ∨ s.hw.mOf c < s.hw.lowest (s.hw.holders c) + 2 → exec (.throttleDwell c) s = .next s)
      ∧ (s.hw.holders c = [] → s.hw.war.capActive = false → s.hw.diodeHot = false →
          exec (.throttleStepUp c) s = .next { s with hw := s.hw.setM c (min 16 (s.hw.mOf c + 2)) })
      ∧ (s.hw.holders c ≠ [] ∨ s.hw.war.capActive = true ∨ s.hw.diodeHot = true → exec (.throttleStepUp c) s = .next s)
      ∧ (s.hw.aboveCap = true → ∃ t, exec .capLoopStep s = .next t
          ∧ (∀ k, k < 8 → t.hw.mOf k = if s.hw.floor + 2 ≤ s.hw.mOf k then s.hw.mOf k - 2 else s.hw.mOf k)
          ∧ t.hw.war.capActive = true ∧ t.hw.war.overCap = true ∧ t.hw.ex = s.hw.ex ∧ t.hw.streams = s.hw.streams)
      ∧ (s.hw.aboveCap = false → exec .capLoopStep s = .next s))
  ∧ (∀ (s : State) (d : Fin 64),
      (s.hw.pwr.railsOn = true → ∃ t, exec (.hardwareTrip d) s = .next t ∧ (∀ c, c < 8 → t.hw.mOf c = 1) ∧ t.hw.war.hwTrip = true
          ∧ (s.hw.ex.running = true → t.hw.ex = { s.hw.ex with safePlan := some (s.hw.ex.safePlan.getD 0) })
          ∧ (s.hw.ex.running = false → t.hw.war.safe = true ∧ t.hw.ex.running = false ∧ t.hw.ex.start = .none
              ∧ (s.hw.ex.mode ≠ .asleep → s.hw.pwr.booted = true → t.hw.ex.mode = .safe))
          ∧ t.hw.streams = s.hw.streams)
      ∧ (s.hw.pwr.railsOn = false → exec (.hardwareTrip d) s = .next s)
      ∧ (s.hw.wardenOn = true → s.hw.ex.running = true → ∃ t, exec .controlWatchdog s = .next t ∧ t.hw.ex.running = false
          ∧ t.hw.ex.mode = .safe ∧ t.hw.ex.fault = 0x0A ∧ t.hw.war.stuckSafe = true ∧ t.hw.pwr.forcedSafe = true
          ∧ t.hw.pwr.masterBclk = false ∧ t.hw.streams = []))

/-- A decided SAFE is entered at the boundary: the tick that begins there serves only what SAFE still serves, and its commit
stops the executive in SAFE with every stream ended. While the executive is stopped, DEV_STATE alone becomes SAFE. -/
def Obligations.SafeIsEntered : Prop :=
  ∀ (s : State) (f : BitVec 8), s.hw.ex.safePlan = some f →
    (s.hw.decodes = true → s.hw.ex.running = true → s.hw.ex.rerun = false →
      (s.hw.ex.window = .commit → s.hw.ex.stopping = none → s.hw.pwr.syncTimeout = false →
        ∃ t, exec .safeEntry s = .next t ∧ t.hw.ex.safeTick = true ∧ t.hw.ex.window = .work ∧ t.hw.ex.tick = s.hw.ex.tick + 1)
      ∧ (s.hw.ex.window = .work ∨ s.hw.ex.window = .reserve → s.hw.ex.safeTick = true → ∃ t, exec (.intakeClose []) s = .next t
          ∧ t.hw.ex.running = false ∧ t.hw.ex.mode = .safe ∧ t.hw.ex.fault = f ∧ t.hw.streams = [] ∧ t.hw.snap.epoch = s.hw.ex.tick
          ∧ t.hw.ex.last = some s.hw.ex.tick))
    ∧ (s.hw.ex.running = false → ∃ t, exec .safeEntry s = .next t ∧ t.hw.ex.running = false ∧ t.hw.ex.mode = .safe ∧ t.hw.ex.fault = f
        ∧ t.hw.ex.safePlan = none ∧ t.hw.ex.image = s.hw.ex.image ∧ t.hw.streams = s.hw.streams ∧ t.hw.rings = s.hw.rings)

/-! ### Audio ports -/

/-- The port registers hold what is written at once and bring it into force at a boundary; retry adds a request that acts at the
next boundary in every window; a write that changes how a port in use is enabled, directed, clocked or framed is dropped. -/
def Obligations.PortRegisters : Prop :=
  ∀ (s : State) (p : Fin 16) (w : W32), s.hw.alive = true →
    let x := s.hw.port p
    let n := if s.hw.ex.running && decide (s.hw.ex.window = .commit) then 2 else 1
    let set (y : Port) (l : List (Nat × LatchItem)) : Host.Outcome State Fault Refusal :=
      .next { s with hw := { s.hw.setPort p y with latches := s.hw.latches ++ l } }
    (w &&& 0xFFFFFFC0#32 = 0 → w.toNat / 8 % 8 ≤ 4 → badMaster w x.fmt = false → s.hw.portUsed p = false →
      exec (.aportCtlWrite p w) s = set { x with ctl := w } [(n, .aportCtl p w)]
      ∧ exec (.aportRetry p (w ||| 0x100#32)) s = set { x with ctl := w } [(n, .aportCtl p w), (1, .retry p)])
    ∧ (w.toNat < 8 → w.toNat % 4 ≠ 3 → badMaster x.ctl w = false → s.hw.portUsed p = false →
      exec (.aportFmtWrite p w) s = set { x with fmt := w } [(n, .aportFmt p w)])
    ∧ (w.toNat < 4 → s.hw.portUsed p = false → exec (.aportSlotmaskWrite p w) s = set { x with mask := w } [(n, .aportMask p w)])
    ∧ (s.hw.portUsed p = true → (w ^^^ x.ctl) &&& 0x3E#32 ≠ 0 → w &&& 0xFFFFFFC0#32 = 0 →
      ∃ t, exec (.aportCtlWrite p w) s = .next t ∧ t.hw.ports = s.hw.ports ∧ t.hw.latches = s.hw.latches ∧ t.hw.link.dropCount ≠ 0)

/-- Frames at a running master input port: the preamble pair, within a frame or across two, sets nonaudio with a hold of 8,192
frames, and each frame without it counts a standing hold down; while the executive runs the frame joins the capture window. A
hold that has run out ends. A running master output port takes the next frame past its queue and sends both words, whose bits its
lines carry after the last bit of the frame before; a word that would complete the preamble pair is lowered by one step of its
upper 16 bits and counted. A muted output port drives its data line low; at a slave port a frame takes one of the 64 of the ramp
after its lock, which begins at level 0, and a dead slot is 0. (The ramp's rounding, log 30.) -/
def Obligations.PortFrames : Prop :=
  (∀ (s : State) (p : Fin 16) (f : PortFrame),
      let x := s.hw.port p
      let a := upper16 x.width f.slot0
      let b := upper16 x.width f.slot1
      let hit := (match x.audioWord with | some z => preamble z a | none => false) || preamble a b
      let fs := if s.hw.ex.running then x.frames ++ [(f.slot0, f.slot1)] else x.frames
      (s.hw.portOn p = true → x.isOutput = false → x.slave = false → x.state = .running → x.openLine = false → x.openClock = false →
        (hit = true → ∃ t, exec (.portFrameIn p f) s = .next t ∧ (t.hw.port p).nonaudio = true ∧ (t.hw.port p).holdLeft = 8192
            ∧ (t.hw.port p).windowBad = true ∧ (t.hw.port p).audioWord = some b ∧ (t.hw.port p).frames = fs
            ∧ (t.hw.port p).cause = (if x.nonaudio then x.cause else x.cause ||| 128#9)
            ∧ (∀ k, k ≠ p.val → t.hw.port k = s.hw.port k) ∧ t.hw.streams = s.hw.streams)
        ∧ (hit = false → exec (.portFrameIn p f) s = .next { s with hw := s.hw.setPort p { x with
              audioWord := some b, frames := fs, holdLeft := if x.nonaudio then x.holdLeft - 1 else x.holdLeft } }))
      ∧ (x.nonaudio = true → x.holdLeft = 0 → exec (.nonaudioHoldEnd p) s = .next { s with hw := s.hw.setPort p { x with nonaudio := false } }))
  ∧ (∀ (s : State) (p : Fin 16) (za zb zc zd : Int), s.hw.portOn p = true → s.hw.ex.running = true →
      let x := s.hw.port p
      x.isOutput = true → x.slave = false → x.state = .running → x.outQueue = [(0, za), (1, zb), (0, zc), (1, zd)] →
      preamble x.lastOut (upper16 x.width za) = false →
      (preamble (upper16 x.width za) (upper16 x.width zb) = false → ∃ t, exec (.portFrameOut p) s = .next t ∧ (t.hw.port p).word = zb
          ∧ (t.hw.port p).word0 = za ∧ (∀ k, (t.hw.port p).lineAt k = frameBit x.width x.word za zb k)
          ∧ (t.hw.port p).guarded = x.guarded ∧ (t.hw.port p).lastOut = upper16 x.width zb
          ∧ (x.n ≤ x.frameNo → (t.hw.port p).outQueue = [(0, zc), (1, zd)]) ∧ (∀ k, k ≠ p.val → t.hw.port k = s.hw.port k))
      ∧ (preamble (upper16 x.width za) (upper16 x.width zb) = true → ∃ t, exec (.portFrameOut p) s = .next t
          ∧ (t.hw.port p).word = zb - 2 ^ (x.width - 16) ∧ (t.hw.port p).word0 = za ∧ (t.hw.port p).guarded = satAdd x.guarded 1
          ∧ (∀ k, k ≠ p.val → t.hw.port k = s.hw.port k)))
  ∧ (∀ (s : State) (p : Fin 16), s.hw.portOn p = true →
      let x := s.hw.port p
      x.isOutput = true →
      (x.state = .muted → ∃ t, exec (.portFrameOut p) s = .next t ∧ (t.hw.port p).word = 0 ∧ (t.hw.port p).word0 = 0 ∧ (t.hw.port p).lastOut = 0
          ∧ (∀ k, k ≠ p.val → t.hw.port k = s.hw.port k))
      ∧ (x.state = .running → x.slave = true → ∃ t, exec (.portFrameOut p) s = .next t ∧ (t.hw.port p).ramp = x.ramp - 1
          ∧ (x.live 0 = false ∨ x.ramp = 64 → (t.hw.port p).word0 = 0) ∧ (x.live 1 = false ∨ x.ramp = 64 → (t.hw.port p).word = 0)
          ∧ (∀ k, k ≠ p.val → t.hw.port k = s.hw.port k)))

/-- A slave port whose clock stops is muted and unlocked, once for a clock that stays stopped; after 64 stable frames it runs,
locked, with the drift that its follower reports. A short of a line that the port drives disables it until a retry; an open
data line invalidates an input port's window, and an open clock line stops a slave port's clock. (Causes, log 57; a condition
that goes on, log 106.) -/
def Obligations.PortFaults : Prop :=
  ∀ (s : State) (p : Fin 16),
    let x := s.hw.port p
    (s.hw.portOn p = true → x.slave = true → x.clockless = false → ∃ t, exec (.clockStop p) s = .next t ∧ (t.hw.port p).state = .muted
        ∧ (t.hw.port p).locked = false ∧ (t.hw.port p).clockless = true
        ∧ (t.hw.port p).cause = x.cause ||| 1#9 ∧ (∀ k, k ≠ p.val → t.hw.port k = s.hw.port k) ∧ t.hw.streams = s.hw.streams)
    ∧ (x.clockless = true → exec (.clockStop p) s = .next s)
    ∧ (∀ d : W16, s.hw.portOn p = true → x.slave = true → x.state = .muted → 64 ≤ x.stable → ∃ t, exec (.driftFollowerLock p d) s = .next t
        ∧ (t.hw.port p).state = .running ∧ (t.hw.port p).locked = true ∧ (t.hw.port p).drift = d ∧ t.hw = s.hw.setPort p (t.hw.port p))
    ∧ (s.hw.decodes = true → x.state = .running ∨ x.state = .muted →
      (x.isOutput = true ∨ x.slave = false → ∃ t, exec (.short p) s = .next t ∧ (t.hw.port p).state = .faultDisabled
        ∧ (t.hw.port p).cause = x.cause ||| 8#9 ∧ (∀ k, k ≠ p.val → t.hw.port k = s.hw.port k))
      ∧ (x.isOutput = false → x.openLine = false → ∃ t, exec (.openInput p true) s = .next t
        ∧ (t.hw.port p).openLine = true ∧ (t.hw.port p).windowBad = true ∧ (t.hw.port p).state = x.state
        ∧ (t.hw.port p).cause = x.cause ||| 16#9 ∧ (∀ k, k ≠ p.val → t.hw.port k = s.hw.port k))
      ∧ (x.isOutput = false → x.openLine = true → exec (.openInput p true) s = .next { s with hw := s.hw.setPort p { x with
          openLine := true, openClear := 0, windowBad := true } }))
    ∧ (s.hw.portOn p = true → x.slave = true →
      (x.openClock = false → x.clockless = false → ∃ t, exec (.openInput p false) s = .next t
        ∧ (t.hw.port p).openClock = true ∧ (t.hw.port p).openLine = x.openLine ∧ (t.hw.port p).state = .muted ∧ (t.hw.port p).locked = false
        ∧ (t.hw.port p).cause = x.cause ||| 17#9 ∧ (∀ k, k ≠ p.val → t.hw.port k = s.hw.port k))
      ∧ (x.openClock = true → exec (.openInput p false) s = .next { s with hw := s.hw.setPort p { x with openClock := true, clockClear := 0 } }))

/-- The frequency-measuring counter: start arms a measurement; its first gate edge opens the gate; the gate closes with the edges
counted, saturating with overflow at 2^40; an abort leaves a count of 0; a continuous measurement is armed again after either.
(What a start clears beside done, and an abort before the gate opens, log 127.) -/
def Obligations.FrequencyCounter : Prop :=
  ∀ (s : State) (w : W32) (n : Nat),
    let fm (m : Fmeas) : Host.Outcome State Fault Refusal := .next { s with hw := { s.hw with fm := m } }
    let m := s.hw.fm
    (s.hw.alive = true → w &&& 0xFCE0C0C0#32 = 0 → fmeasSource (w.toNat % 64) = true → fmeasSource (w.toNat / 256 % 64) = true →
      4 ≤ w.toNat / 65536 % 32 → w.toNat / 65536 % 32 ≤ 30 → w.toNat.testBit 24 = true →
      exec (.fmeasStart w) s = fm { m with ctl := w &&& 0xFEFFFFFF#32, done := false, aborted := false, overflow := false, armed := true, gate := false })
    ∧ (s.hw.decodes = true →
      (m.armed = true → exec .fmeasGateOpen s = fm { m with armed := false, gate := true })
      ∧ (m.gate = true → n < 2 ^ 40 → exec (.fmeasGateClose n) s = fm { m with
          count := BitVec.ofNat 40 n, overflow := false, done := true, aborted := false, gate := false, armed := m.ctl.toNat.testBit 25 })
      ∧ (m.gate = true → 2 ^ 40 ≤ n → exec (.fmeasGateClose n) s = fm { m with
          count := 0xFFFFFFFFFF#40, overflow := true, done := true, aborted := false, gate := false, armed := m.ctl.toNat.testBit 25 })
      ∧ (m.armed = true ∨ m.gate = true → exec .fmeasAbort s = fm { m with
          done := true, aborted := true, count := 0, overflow := false, armed := m.ctl.toNat.testBit 25, gate := false }))
end

