-- ==== Sys2Proof/Laws/Table.lean ====
section
/-!
SUPPORT. Laws of the tables and of the byte memories: a read after a write, what a write leaves alone, and the canonical
form that every operation keeps.
-/
namespace Sys2Proof.Machine

variable {α : Type}

/-- Every key of the table is above `k`. -/
def keysAbove (k : Nat) (t : Table α) : Prop := ∀ e ∈ t, k < e.1

theorem tget_tdel (d : α) (t : Table α) (k j : Nat) : tget d (tdel t k) j = if k = j then d else tget d t j := by
  induction t with
  | nil => simp [tdel, tget]
  | cons e r ih =>
    obtain ⟨i, v⟩ := e
    by_cases hk : i = k
    · subst hk
      by_cases hj : i = j
      · subst hj; simpa [tdel] using ih
      · simp [tdel, tget, ih, hj]
    · by_cases hj : i = j
      · subst hj; simp [tdel, tget, hk, Ne.symm hk]
      · simp [tdel, tget, hk, hj, ih]

theorem tget_tins (d : α) (t : Table α) (k : Nat) (v : α) (j : Nat) (h : tget d t k = d) (hn : ∀ e ∈ t, e.1 ≠ k) :
    tget d (tins t k v) j = if k = j then v else tget d t j := by
  induction t with
  | nil => by_cases hj : k = j <;> simp [tins, tget, hj]
  | cons e r ih =>
    obtain ⟨i, w⟩ := e
    have hi : i ≠ k := hn (i, w) (by simp)
    have h' : tget d r k = d := by simpa [tget, hi] using h
    have ih := ih h' (fun e he => hn e (by simp [he]))
    by_cases hlt : k < i
    · simp [tins, tget, hlt]
    · by_cases hj : i = j
      · subst hj; simp [tins, tget, hlt, Ne.symm hi]
      · simp [tins, tget, hlt, hj, ih]

theorem tdel_ne (t : Table α) (k : Nat) : ∀ e ∈ tdel t k, e.1 ≠ k := by
  induction t with
  | nil => simp [tdel]
  | cons e r ih =>
    obtain ⟨i, v⟩ := e
    by_cases hk : i = k <;> simp [tdel, hk] <;> exact fun a b hb => ih (a, b) hb

theorem tput_eq [DecidableEq α] (d : α) (t : Table α) (k : Nat) (v : α) :
    tput d t k v = if v = d then tdel t k else tins (tdel t k) k v := by
  unfold tput
  cases tdel t k <;> rfl

theorem tget_tput [DecidableEq α] (d : α) (t : Table α) (k j : Nat) (v : α) :
    tget d (tput d t k v) j = if k = j then v else tget d t j := by
  rw [tput_eq]
  split
  · next hv => rw [tget_tdel, hv]
  · rw [tget_tins _ _ _ _ _ (by rw [tget_tdel]; simp) (tdel_ne t k), tget_tdel]
    split <;> rfl

@[simp] theorem tget_tput_same [DecidableEq α] (d : α) (t : Table α) (k : Nat) (v : α) : tget d (tput d t k v) k = v := by
  simp [tget_tput]

theorem tget_tput_ne [DecidableEq α] (d : α) (t : Table α) {k j : Nat} (v : α) (h : k ≠ j) :
    tget d (tput d t k v) j = tget d t j := by simp [tget_tput, h]

@[simp] theorem tget_nil (d : α) (k : Nat) : tget d [] k = d := rfl

/-! ### The canonical form -/

theorem twf_cons [DecidableEq α] (d : α) (j : Nat) (v : α) (r : Table α) :
    twf d ((j, v) :: r) = true ↔ v ≠ d ∧ keysAbove j r ∧ twf d r = true := by
  induction r generalizing j v with
  | nil => simp [twf, keysAbove]
  | cons e r ih =>
    obtain ⟨k, w⟩ := e
    constructor
    · intro h
      simp only [twf, Bool.and_eq_true, decide_eq_true_eq] at h
      obtain ⟨⟨h1, h2⟩, h3⟩ := h
      refine ⟨h1, ?_, h3⟩
      intro e he
      rcases List.mem_cons.1 he with rfl | he
      · exact h2
      · exact lt_trans h2 ((ih k w).1 h3 |>.2.1 e he)
    · rintro ⟨h1, h2, h3⟩
      simp only [twf, Bool.and_eq_true, decide_eq_true_eq]
      exact ⟨⟨h1, h2 (k, w) (by simp)⟩, h3⟩

theorem keysAbove_tdel (t : Table α) (k j : Nat) (h : keysAbove j t) : keysAbove j (tdel t k) := by
  induction t with
  | nil => simpa [tdel] using h
  | cons e r ih =>
    obtain ⟨i, v⟩ := e
    have hr : keysAbove j r := fun e he => h e (by simp [he])
    by_cases hk : i = k
    · simpa [tdel, hk] using ih hr
    · intro e he
      simp only [tdel, hk, if_false] at he
      rcases List.mem_cons.1 he with rfl | he
      · exact h _ (by simp)
      · exact ih hr e he

theorem keysAbove_tins (t : Table α) (k j : Nat) (v : α) (h : keysAbove j t) (hk : j < k) : keysAbove j (tins t k v) := by
  induction t with
  | nil => simpa [tins, keysAbove] using hk
  | cons e r ih =>
    obtain ⟨i, w⟩ := e
    have hr : keysAbove j r := fun e he => h e (by simp [he])
    intro e he
    simp only [tins] at he
    split at he
    · rcases List.mem_cons.1 he with rfl | he
      · exact hk
      · exact h e he
    · rcases List.mem_cons.1 he with rfl | he
      · exact h _ (by simp)
      · exact ih hr e he

theorem twf_tdel [DecidableEq α] (d : α) (t : Table α) (k : Nat) (h : twf d t = true) : twf d (tdel t k) = true := by
  induction t with
  | nil => rfl
  | cons e r ih =>
    obtain ⟨i, v⟩ := e
    obtain ⟨h1, h2, h3⟩ := (twf_cons d i v r).1 h
    by_cases hk : i = k
    · simpa [tdel, hk] using ih h3
    · simpa [tdel, hk] using (twf_cons d i v _).2 ⟨h1, keysAbove_tdel r k i h2, ih h3⟩

theorem twf_tins [DecidableEq α] (d : α) (t : Table α) (k : Nat) (v : α) (hv : v ≠ d) (hn : ∀ e ∈ t, e.1 ≠ k) (h : twf d t = true) :
    twf d (tins t k v) = true := by
  induction t with
  | nil => simpa [tins, twf] using hv
  | cons e r ih =>
    obtain ⟨i, w⟩ := e
    obtain ⟨h1, h2, h3⟩ := (twf_cons d i w r).1 h
    have hi : i ≠ k := hn (i, w) (by simp)
    by_cases hlt : k < i
    · simp only [tins, hlt, if_true]
      refine (twf_cons d k v _).2 ⟨hv, ?_, h⟩
      intro e he
      rcases List.mem_cons.1 he with rfl | he
      · exact hlt
      · exact lt_trans hlt (h2 e he)
    · simp only [tins, hlt, if_false]
      exact (twf_cons d i w _).2 ⟨h1, keysAbove_tins r k i v h2 (by omega), ih (fun e he => hn e (by simp [he])) h3⟩

/-- Setting a key keeps the canonical form. -/
theorem twf_tput [DecidableEq α] (d : α) (t : Table α) (k : Nat) (v : α) (h : twf d t = true) : twf d (tput d t k v) = true := by
  rw [tput_eq]
  split
  · exact twf_tdel d t k h
  · next hv => exact twf_tins d _ k v hv (tdel_ne t k) (twf_tdel d t k h)

/-! ### Memories -/

@[simp] theorem Memory.wf_nil : Memory.wf [] = true := rfl

theorem read8_write8 (m : Memory) (a c : Nat) (b : Byte) : read8 (write8 m a b) c = if a = c then b else read8 m c :=
  tget_tput 0 m a c b

theorem Memory.wf_write8 (m : Memory) (a : Nat) (b : Byte) (h : Memory.wf m = true) : Memory.wf (write8 m a b) = true :=
  twf_tput 0 m a b h

theorem Memory.wf_writeN (bs : List Byte) (m : Memory) (a : Nat) (h : Memory.wf m = true) : Memory.wf (writeN m a bs) = true := by
  induction bs generalizing m a with
  | nil => exact h
  | cons b bs ih => exact ih _ _ (Memory.wf_write8 m a b h)

/-- A byte of a written range is the byte written; any other is as before. -/
theorem read8_writeN (bs : List Byte) (m : Memory) (a c : Nat) :
    read8 (writeN m a bs) c = if a ≤ c ∧ c < a + bs.length then bs.getD (c - a) 0 else read8 m c := by
  induction bs generalizing m a with
  | nil =>
    have h : ¬ (a ≤ c ∧ c < a + 0) := by omega
    simp only [writeN, List.length_nil, if_neg h]
  | cons b bs ih =>
    simp only [writeN, ih, read8_write8, List.length_cons]
    by_cases h1 : a = c
    · subst h1; simp
    · by_cases h2 : a + 1 ≤ c ∧ c < a + 1 + bs.length
      · have h3 : a ≤ c ∧ c < a + (bs.length + 1) := by omega
        obtain ⟨n, hn⟩ : ∃ n, c - a = n + 1 := ⟨c - a - 1, by omega⟩
        have h4 : c - (a + 1) = n := by omega
        simp [h2, h3, hn, h4]
      · have h3 : ¬ (a ≤ c ∧ c < a + (bs.length + 1)) := by omega
        rw [if_neg h2, if_neg h3]; simp [h1]

end Sys2Proof.Machine
end

