-- ==== Sys2Proof/Laws/Memories.lean ====
section
/-!
SUPPORT. The writes to the device memories keep their canonical form, and say which bytes they change.
-/
namespace Sys2Proof.Machine

/-- A change of one memory alone keeps the memories canonical when the new one is. -/
theorem Hw.memsCanonical_tile (h : Hw) (m : Memory) (hc : h.memsCanonical) (hm : Memory.wf m = true) :
    Hw.memsCanonical { h with mem := { h.mem with tile := m } } :=
  ⟨hc.1, hc.2.1, hm, hc.2.2.2⟩

/-- One byte written to a device space keeps every memory canonical. -/
theorem Hw.spacePut_canonical (h : Hw) (sp a : Nat) (b : Byte) (hc : h.memsCanonical) : (h.spacePut sp a b).memsCanonical := by
  obtain ⟨h1, h2, h3, h4, h5, h6⟩ := hc
  unfold Hw.spacePut
  split <;> (try split) <;> refine ⟨?_, ?_, ?_, ?_, ?_, ?_⟩ <;> first | assumption | exact Memory.wf_write8 _ _ _ (by assumption)

/-- A transfer's write keeps every memory canonical. -/
theorem Hw.spaceWrite_canonical (bs : List Byte) (h : Hw) (sp a : Nat) (hc : h.memsCanonical) : (h.spaceWrite sp a bs).memsCanonical := by
  induction bs generalizing h a with
  | nil => exact hc
  | cons b r ih =>
    refine ih _ _ ?_
    split
    · exact Hw.spacePut_canonical _ _ _ _ hc
    · exact hc

/-- A byte of another space, or at another address, reads as before. -/
theorem Hw.spacePut_ne (h : Hw) (sp a k c : Nat) (b : Byte) (hn : k ≠ sp ∨ c ≠ a) : (h.spacePut sp a b).spaceByte k c = h.spaceByte k c := by
  unfold Hw.spacePut
  split <;> (try split) <;> (try rfl) <;> unfold Hw.spaceByte <;> split <;> (try rfl) <;>
    simp_all [read8_write8, Hw.dirBase, Hw.dirBytes, Hw.dirByte, Hw.voice, Ne.symm, eq_comm]

/-- A transfer's write changes no byte outside the written ones. -/
theorem Hw.spaceWrite_ne (bs : List Byte) (h : Hw) (sp a k c : Nat) (hn : k ≠ sp ∨ c < a ∨ a + bs.length ≤ c) :
    (h.spaceWrite sp a bs).spaceByte k c = h.spaceByte k c := by
  induction bs generalizing h a with
  | nil => rfl
  | cons b r ih =>
    simp only [List.length_cons] at hn
    refine (ih _ _ (by omega)).trans ?_
    split
    · exact Hw.spacePut_ne _ _ _ _ _ _ (by omega)
    · rfl

/-- A write to a part of a tile's SRAM keeps every memory canonical. -/
theorem Hw.partWrite_canonical (h : Hw) (t base size off : Nat) (bs : List Byte) (hc : h.memsCanonical) :
    (h.partWrite t base size off bs).memsCanonical :=
  h.memsCanonical_tile _ hc (Memory.wf_writeN _ _ _ hc.2.2.1)

/-- A write of a row of an operand keeps every memory canonical. -/
theorem Hw.rowWrite_canonical (h : Hw) (t : Nat) (l : Loc) (r at0 : Nat) (bs : List Byte) (hc : h.memsCanonical) :
    (h.rowWrite t l r at0 bs).memsCanonical := h.partWrite_canonical _ _ _ _ _ hc

end Sys2Proof.Machine
end

