-- ==== Sys2Proof/Laws/State.lean ====
section
/-!
SUPPORT. What each named update of the block changes, field by field. Every lemma is tagged simp, so that no proof unfolds
a record update.
-/
namespace Sys2Proof.Machine

/-! #### Hw.setQueue -/

@[simp] theorem Hw.setQueue_pwr (h : Hw) (q : Nat) (p : QueuePair) : (h.setQueue q p).pwr = h.pwr := rfl
@[simp] theorem Hw.setQueue_ex (h : Hw) (q : Nat) (p : QueuePair) : (h.setQueue q p).ex = h.ex := rfl
@[simp] theorem Hw.setQueue_latches (h : Hw) (q : Nat) (p : QueuePair) : (h.setQueue q p).latches = h.latches := rfl
@[simp] theorem Hw.setQueue_pwrCap (h : Hw) (q : Nat) (p : QueuePair) : (h.setQueue q p).pwrCap = h.pwrCap := rfl
@[simp] theorem Hw.setQueue_pwrCapNow (h : Hw) (q : Nat) (p : QueuePair) : (h.setQueue q p).pwrCapNow = h.pwrCapNow := rfl
@[simp] theorem Hw.setQueue_msix (h : Hw) (q : Nat) (p : QueuePair) : (h.setQueue q p).msix = h.msix := rfl
@[simp] theorem Hw.setQueue_link (h : Hw) (q : Nat) (p : QueuePair) : (h.setQueue q p).link = h.link := rfl
@[simp] theorem Hw.setQueue_rings (h : Hw) (q : Nat) (p : QueuePair) : (h.setQueue q p).rings = h.rings := rfl
@[simp] theorem Hw.setQueue_streams (h : Hw) (q : Nat) (p : QueuePair) : (h.setQueue q p).streams = h.streams := rfl
@[simp] theorem Hw.setQueue_incs (h : Hw) (q : Nat) (p : QueuePair) : (h.setQueue q p).incs = h.incs := rfl
@[simp] theorem Hw.setQueue_groups (h : Hw) (q : Nat) (p : QueuePair) : (h.setQueue q p).groups = h.groups := rfl
@[simp] theorem Hw.setQueue_cat (h : Hw) (q : Nat) (p : QueuePair) : (h.setQueue q p).cat = h.cat := rfl
@[simp] theorem Hw.setQueue_mem (h : Hw) (q : Nat) (p : QueuePair) : (h.setQueue q p).mem = h.mem := rfl
@[simp] theorem Hw.setQueue_eng (h : Hw) (q : Nat) (p : QueuePair) : (h.setQueue q p).eng = h.eng := rfl
@[simp] theorem Hw.setQueue_ports (h : Hw) (q : Nat) (p : QueuePair) : (h.setQueue q p).ports = h.ports := rfl
@[simp] theorem Hw.setQueue_war (h : Hw) (q : Nat) (p : QueuePair) : (h.setQueue q p).war = h.war := rfl
@[simp] theorem Hw.setQueue_log (h : Hw) (q : Nat) (p : QueuePair) : (h.setQueue q p).log = h.log := rfl
@[simp] theorem Hw.setQueue_snap (h : Hw) (q : Nat) (p : QueuePair) : (h.setQueue q p).snap = h.snap := rfl
@[simp] theorem Hw.setQueue_cnt (h : Hw) (q : Nat) (p : QueuePair) : (h.setQueue q p).cnt = h.cnt := rfl
@[simp] theorem Hw.setQueue_fm (h : Hw) (q : Nat) (p : QueuePair) : (h.setQueue q p).fm = h.fm := rfl
@[simp] theorem Hw.setQueue_ts (h : Hw) (q : Nat) (p : QueuePair) : (h.setQueue q p).ts = h.ts := rfl
@[simp] theorem Hw.setQueue_sec (h : Hw) (q : Nat) (p : QueuePair) : (h.setQueue q p).sec = h.sec := rfl
@[simp] theorem Hw.setQueue_free (h : Hw) (q : Nat) (p : QueuePair) : (h.setQueue q p).free = h.free := rfl
@[simp] theorem Hw.setQueue_picks (h : Hw) (q : Nat) (p : QueuePair) : (h.setQueue q p).picks = h.picks := rfl
theorem Hw.setQueue_qs (h : Hw) (q : Nat) (p : QueuePair) : (h.setQueue q p).qs = tput QueuePair.reset h.qs q p := rfl

/-! #### Hw.modQueue -/

@[simp] theorem Hw.modQueue_pwr (h : Hw) (q : Nat) (f : QueuePair → QueuePair) : (h.modQueue q f).pwr = h.pwr := rfl
@[simp] theorem Hw.modQueue_ex (h : Hw) (q : Nat) (f : QueuePair → QueuePair) : (h.modQueue q f).ex = h.ex := rfl
@[simp] theorem Hw.modQueue_latches (h : Hw) (q : Nat) (f : QueuePair → QueuePair) : (h.modQueue q f).latches = h.latches := rfl
@[simp] theorem Hw.modQueue_pwrCap (h : Hw) (q : Nat) (f : QueuePair → QueuePair) : (h.modQueue q f).pwrCap = h.pwrCap := rfl
@[simp] theorem Hw.modQueue_pwrCapNow (h : Hw) (q : Nat) (f : QueuePair → QueuePair) : (h.modQueue q f).pwrCapNow = h.pwrCapNow := rfl
@[simp] theorem Hw.modQueue_msix (h : Hw) (q : Nat) (f : QueuePair → QueuePair) : (h.modQueue q f).msix = h.msix := rfl
@[simp] theorem Hw.modQueue_link (h : Hw) (q : Nat) (f : QueuePair → QueuePair) : (h.modQueue q f).link = h.link := rfl
@[simp] theorem Hw.modQueue_rings (h : Hw) (q : Nat) (f : QueuePair → QueuePair) : (h.modQueue q f).rings = h.rings := rfl
@[simp] theorem Hw.modQueue_streams (h : Hw) (q : Nat) (f : QueuePair → QueuePair) : (h.modQueue q f).streams = h.streams := rfl
@[simp] theorem Hw.modQueue_incs (h : Hw) (q : Nat) (f : QueuePair → QueuePair) : (h.modQueue q f).incs = h.incs := rfl
@[simp] theorem Hw.modQueue_groups (h : Hw) (q : Nat) (f : QueuePair → QueuePair) : (h.modQueue q f).groups = h.groups := rfl
@[simp] theorem Hw.modQueue_cat (h : Hw) (q : Nat) (f : QueuePair → QueuePair) : (h.modQueue q f).cat = h.cat := rfl
@[simp] theorem Hw.modQueue_mem (h : Hw) (q : Nat) (f : QueuePair → QueuePair) : (h.modQueue q f).mem = h.mem := rfl
@[simp] theorem Hw.modQueue_eng (h : Hw) (q : Nat) (f : QueuePair → QueuePair) : (h.modQueue q f).eng = h.eng := rfl
@[simp] theorem Hw.modQueue_ports (h : Hw) (q : Nat) (f : QueuePair → QueuePair) : (h.modQueue q f).ports = h.ports := rfl
@[simp] theorem Hw.modQueue_war (h : Hw) (q : Nat) (f : QueuePair → QueuePair) : (h.modQueue q f).war = h.war := rfl
@[simp] theorem Hw.modQueue_log (h : Hw) (q : Nat) (f : QueuePair → QueuePair) : (h.modQueue q f).log = h.log := rfl
@[simp] theorem Hw.modQueue_snap (h : Hw) (q : Nat) (f : QueuePair → QueuePair) : (h.modQueue q f).snap = h.snap := rfl
@[simp] theorem Hw.modQueue_cnt (h : Hw) (q : Nat) (f : QueuePair → QueuePair) : (h.modQueue q f).cnt = h.cnt := rfl
@[simp] theorem Hw.modQueue_fm (h : Hw) (q : Nat) (f : QueuePair → QueuePair) : (h.modQueue q f).fm = h.fm := rfl
@[simp] theorem Hw.modQueue_ts (h : Hw) (q : Nat) (f : QueuePair → QueuePair) : (h.modQueue q f).ts = h.ts := rfl
@[simp] theorem Hw.modQueue_sec (h : Hw) (q : Nat) (f : QueuePair → QueuePair) : (h.modQueue q f).sec = h.sec := rfl
@[simp] theorem Hw.modQueue_free (h : Hw) (q : Nat) (f : QueuePair → QueuePair) : (h.modQueue q f).free = h.free := rfl
@[simp] theorem Hw.modQueue_picks (h : Hw) (q : Nat) (f : QueuePair → QueuePair) : (h.modQueue q f).picks = h.picks := rfl

/-! #### Hw.setPort -/

@[simp] theorem Hw.setPort_pwr (h : Hw) (p : Nat) (x : Port) : (h.setPort p x).pwr = h.pwr := rfl
@[simp] theorem Hw.setPort_ex (h : Hw) (p : Nat) (x : Port) : (h.setPort p x).ex = h.ex := rfl
@[simp] theorem Hw.setPort_latches (h : Hw) (p : Nat) (x : Port) : (h.setPort p x).latches = h.latches := rfl
@[simp] theorem Hw.setPort_pwrCap (h : Hw) (p : Nat) (x : Port) : (h.setPort p x).pwrCap = h.pwrCap := rfl
@[simp] theorem Hw.setPort_pwrCapNow (h : Hw) (p : Nat) (x : Port) : (h.setPort p x).pwrCapNow = h.pwrCapNow := rfl
@[simp] theorem Hw.setPort_qs (h : Hw) (p : Nat) (x : Port) : (h.setPort p x).qs = h.qs := rfl
@[simp] theorem Hw.setPort_msix (h : Hw) (p : Nat) (x : Port) : (h.setPort p x).msix = h.msix := rfl
@[simp] theorem Hw.setPort_link (h : Hw) (p : Nat) (x : Port) : (h.setPort p x).link = h.link := rfl
@[simp] theorem Hw.setPort_rings (h : Hw) (p : Nat) (x : Port) : (h.setPort p x).rings = h.rings := rfl
@[simp] theorem Hw.setPort_streams (h : Hw) (p : Nat) (x : Port) : (h.setPort p x).streams = h.streams := rfl
@[simp] theorem Hw.setPort_incs (h : Hw) (p : Nat) (x : Port) : (h.setPort p x).incs = h.incs := rfl
@[simp] theorem Hw.setPort_groups (h : Hw) (p : Nat) (x : Port) : (h.setPort p x).groups = h.groups := rfl
@[simp] theorem Hw.setPort_cat (h : Hw) (p : Nat) (x : Port) : (h.setPort p x).cat = h.cat := rfl
@[simp] theorem Hw.setPort_mem (h : Hw) (p : Nat) (x : Port) : (h.setPort p x).mem = h.mem := rfl
@[simp] theorem Hw.setPort_eng (h : Hw) (p : Nat) (x : Port) : (h.setPort p x).eng = h.eng := rfl
@[simp] theorem Hw.setPort_war (h : Hw) (p : Nat) (x : Port) : (h.setPort p x).war = h.war := rfl
@[simp] theorem Hw.setPort_log (h : Hw) (p : Nat) (x : Port) : (h.setPort p x).log = h.log := rfl
@[simp] theorem Hw.setPort_snap (h : Hw) (p : Nat) (x : Port) : (h.setPort p x).snap = h.snap := rfl
@[simp] theorem Hw.setPort_cnt (h : Hw) (p : Nat) (x : Port) : (h.setPort p x).cnt = h.cnt := rfl
@[simp] theorem Hw.setPort_fm (h : Hw) (p : Nat) (x : Port) : (h.setPort p x).fm = h.fm := rfl
@[simp] theorem Hw.setPort_ts (h : Hw) (p : Nat) (x : Port) : (h.setPort p x).ts = h.ts := rfl
@[simp] theorem Hw.setPort_sec (h : Hw) (p : Nat) (x : Port) : (h.setPort p x).sec = h.sec := rfl
@[simp] theorem Hw.setPort_free (h : Hw) (p : Nat) (x : Port) : (h.setPort p x).free = h.free := rfl
@[simp] theorem Hw.setPort_picks (h : Hw) (p : Nat) (x : Port) : (h.setPort p x).picks = h.picks := rfl
theorem Hw.setPort_ports (h : Hw) (p : Nat) (x : Port) : (h.setPort p x).ports = tput Port.reset h.ports p x := rfl

/-! #### Hw.modPort -/

@[simp] theorem Hw.modPort_pwr (h : Hw) (p : Nat) (f : Port → Port) : (h.modPort p f).pwr = h.pwr := rfl
@[simp] theorem Hw.modPort_ex (h : Hw) (p : Nat) (f : Port → Port) : (h.modPort p f).ex = h.ex := rfl
@[simp] theorem Hw.modPort_latches (h : Hw) (p : Nat) (f : Port → Port) : (h.modPort p f).latches = h.latches := rfl
@[simp] theorem Hw.modPort_pwrCap (h : Hw) (p : Nat) (f : Port → Port) : (h.modPort p f).pwrCap = h.pwrCap := rfl
@[simp] theorem Hw.modPort_pwrCapNow (h : Hw) (p : Nat) (f : Port → Port) : (h.modPort p f).pwrCapNow = h.pwrCapNow := rfl
@[simp] theorem Hw.modPort_qs (h : Hw) (p : Nat) (f : Port → Port) : (h.modPort p f).qs = h.qs := rfl
@[simp] theorem Hw.modPort_msix (h : Hw) (p : Nat) (f : Port → Port) : (h.modPort p f).msix = h.msix := rfl
@[simp] theorem Hw.modPort_link (h : Hw) (p : Nat) (f : Port → Port) : (h.modPort p f).link = h.link := rfl
@[simp] theorem Hw.modPort_rings (h : Hw) (p : Nat) (f : Port → Port) : (h.modPort p f).rings = h.rings := rfl
@[simp] theorem Hw.modPort_streams (h : Hw) (p : Nat) (f : Port → Port) : (h.modPort p f).streams = h.streams := rfl
@[simp] theorem Hw.modPort_incs (h : Hw) (p : Nat) (f : Port → Port) : (h.modPort p f).incs = h.incs := rfl
@[simp] theorem Hw.modPort_groups (h : Hw) (p : Nat) (f : Port → Port) : (h.modPort p f).groups = h.groups := rfl
@[simp] theorem Hw.modPort_cat (h : Hw) (p : Nat) (f : Port → Port) : (h.modPort p f).cat = h.cat := rfl
@[simp] theorem Hw.modPort_mem (h : Hw) (p : Nat) (f : Port → Port) : (h.modPort p f).mem = h.mem := rfl
@[simp] theorem Hw.modPort_eng (h : Hw) (p : Nat) (f : Port → Port) : (h.modPort p f).eng = h.eng := rfl
@[simp] theorem Hw.modPort_war (h : Hw) (p : Nat) (f : Port → Port) : (h.modPort p f).war = h.war := rfl
@[simp] theorem Hw.modPort_log (h : Hw) (p : Nat) (f : Port → Port) : (h.modPort p f).log = h.log := rfl
@[simp] theorem Hw.modPort_snap (h : Hw) (p : Nat) (f : Port → Port) : (h.modPort p f).snap = h.snap := rfl
@[simp] theorem Hw.modPort_cnt (h : Hw) (p : Nat) (f : Port → Port) : (h.modPort p f).cnt = h.cnt := rfl
@[simp] theorem Hw.modPort_fm (h : Hw) (p : Nat) (f : Port → Port) : (h.modPort p f).fm = h.fm := rfl
@[simp] theorem Hw.modPort_ts (h : Hw) (p : Nat) (f : Port → Port) : (h.modPort p f).ts = h.ts := rfl
@[simp] theorem Hw.modPort_sec (h : Hw) (p : Nat) (f : Port → Port) : (h.modPort p f).sec = h.sec := rfl
@[simp] theorem Hw.modPort_free (h : Hw) (p : Nat) (f : Port → Port) : (h.modPort p f).free = h.free := rfl
@[simp] theorem Hw.modPort_picks (h : Hw) (p : Nat) (f : Port → Port) : (h.modPort p f).picks = h.picks := rfl

/-! #### Hw.setStream -/

@[simp] theorem Hw.setStream_pwr (h : Hw) (c : Nat) (s : Stream) : (h.setStream c s).pwr = h.pwr := rfl
@[simp] theorem Hw.setStream_ex (h : Hw) (c : Nat) (s : Stream) : (h.setStream c s).ex = h.ex := rfl
@[simp] theorem Hw.setStream_latches (h : Hw) (c : Nat) (s : Stream) : (h.setStream c s).latches = h.latches := rfl
@[simp] theorem Hw.setStream_pwrCap (h : Hw) (c : Nat) (s : Stream) : (h.setStream c s).pwrCap = h.pwrCap := rfl
@[simp] theorem Hw.setStream_pwrCapNow (h : Hw) (c : Nat) (s : Stream) : (h.setStream c s).pwrCapNow = h.pwrCapNow := rfl
@[simp] theorem Hw.setStream_qs (h : Hw) (c : Nat) (s : Stream) : (h.setStream c s).qs = h.qs := rfl
@[simp] theorem Hw.setStream_msix (h : Hw) (c : Nat) (s : Stream) : (h.setStream c s).msix = h.msix := rfl
@[simp] theorem Hw.setStream_link (h : Hw) (c : Nat) (s : Stream) : (h.setStream c s).link = h.link := rfl
@[simp] theorem Hw.setStream_rings (h : Hw) (c : Nat) (s : Stream) : (h.setStream c s).rings = h.rings := rfl
@[simp] theorem Hw.setStream_incs (h : Hw) (c : Nat) (s : Stream) : (h.setStream c s).incs = h.incs := rfl
@[simp] theorem Hw.setStream_groups (h : Hw) (c : Nat) (s : Stream) : (h.setStream c s).groups = h.groups := rfl
@[simp] theorem Hw.setStream_cat (h : Hw) (c : Nat) (s : Stream) : (h.setStream c s).cat = h.cat := rfl
@[simp] theorem Hw.setStream_mem (h : Hw) (c : Nat) (s : Stream) : (h.setStream c s).mem = h.mem := rfl
@[simp] theorem Hw.setStream_eng (h : Hw) (c : Nat) (s : Stream) : (h.setStream c s).eng = h.eng := rfl
@[simp] theorem Hw.setStream_ports (h : Hw) (c : Nat) (s : Stream) : (h.setStream c s).ports = h.ports := rfl
@[simp] theorem Hw.setStream_war (h : Hw) (c : Nat) (s : Stream) : (h.setStream c s).war = h.war := rfl
@[simp] theorem Hw.setStream_log (h : Hw) (c : Nat) (s : Stream) : (h.setStream c s).log = h.log := rfl
@[simp] theorem Hw.setStream_snap (h : Hw) (c : Nat) (s : Stream) : (h.setStream c s).snap = h.snap := rfl
@[simp] theorem Hw.setStream_cnt (h : Hw) (c : Nat) (s : Stream) : (h.setStream c s).cnt = h.cnt := rfl
@[simp] theorem Hw.setStream_fm (h : Hw) (c : Nat) (s : Stream) : (h.setStream c s).fm = h.fm := rfl
@[simp] theorem Hw.setStream_ts (h : Hw) (c : Nat) (s : Stream) : (h.setStream c s).ts = h.ts := rfl
@[simp] theorem Hw.setStream_sec (h : Hw) (c : Nat) (s : Stream) : (h.setStream c s).sec = h.sec := rfl
@[simp] theorem Hw.setStream_free (h : Hw) (c : Nat) (s : Stream) : (h.setStream c s).free = h.free := rfl
@[simp] theorem Hw.setStream_picks (h : Hw) (c : Nat) (s : Stream) : (h.setStream c s).picks = h.picks := rfl
theorem Hw.setStream_streams (h : Hw) (c : Nat) (s : Stream) : (h.setStream c s).streams = tput none h.streams c (some s) := rfl

/-! #### Hw.dropStream -/

@[simp] theorem Hw.dropStream_pwr (h : Hw) (c : Nat) : (h.dropStream c).pwr = h.pwr := rfl
@[simp] theorem Hw.dropStream_ex (h : Hw) (c : Nat) : (h.dropStream c).ex = h.ex := rfl
@[simp] theorem Hw.dropStream_latches (h : Hw) (c : Nat) : (h.dropStream c).latches = h.latches := rfl
@[simp] theorem Hw.dropStream_pwrCap (h : Hw) (c : Nat) : (h.dropStream c).pwrCap = h.pwrCap := rfl
@[simp] theorem Hw.dropStream_pwrCapNow (h : Hw) (c : Nat) : (h.dropStream c).pwrCapNow = h.pwrCapNow := rfl
@[simp] theorem Hw.dropStream_qs (h : Hw) (c : Nat) : (h.dropStream c).qs = h.qs := rfl
@[simp] theorem Hw.dropStream_msix (h : Hw) (c : Nat) : (h.dropStream c).msix = h.msix := rfl
@[simp] theorem Hw.dropStream_link (h : Hw) (c : Nat) : (h.dropStream c).link = h.link := rfl
@[simp] theorem Hw.dropStream_rings (h : Hw) (c : Nat) : (h.dropStream c).rings = h.rings := rfl
@[simp] theorem Hw.dropStream_incs (h : Hw) (c : Nat) : (h.dropStream c).incs = h.incs := rfl
@[simp] theorem Hw.dropStream_groups (h : Hw) (c : Nat) : (h.dropStream c).groups = h.groups := rfl
@[simp] theorem Hw.dropStream_cat (h : Hw) (c : Nat) : (h.dropStream c).cat = h.cat := rfl
@[simp] theorem Hw.dropStream_mem (h : Hw) (c : Nat) : (h.dropStream c).mem = h.mem := rfl
@[simp] theorem Hw.dropStream_eng (h : Hw) (c : Nat) : (h.dropStream c).eng = h.eng := rfl
@[simp] theorem Hw.dropStream_ports (h : Hw) (c : Nat) : (h.dropStream c).ports = h.ports := rfl
@[simp] theorem Hw.dropStream_war (h : Hw) (c : Nat) : (h.dropStream c).war = h.war := rfl
@[simp] theorem Hw.dropStream_log (h : Hw) (c : Nat) : (h.dropStream c).log = h.log := rfl
@[simp] theorem Hw.dropStream_snap (h : Hw) (c : Nat) : (h.dropStream c).snap = h.snap := rfl
@[simp] theorem Hw.dropStream_cnt (h : Hw) (c : Nat) : (h.dropStream c).cnt = h.cnt := rfl
@[simp] theorem Hw.dropStream_fm (h : Hw) (c : Nat) : (h.dropStream c).fm = h.fm := rfl
@[simp] theorem Hw.dropStream_ts (h : Hw) (c : Nat) : (h.dropStream c).ts = h.ts := rfl
@[simp] theorem Hw.dropStream_sec (h : Hw) (c : Nat) : (h.dropStream c).sec = h.sec := rfl
@[simp] theorem Hw.dropStream_free (h : Hw) (c : Nat) : (h.dropStream c).free = h.free := rfl
@[simp] theorem Hw.dropStream_picks (h : Hw) (c : Nat) : (h.dropStream c).picks = h.picks := rfl
theorem Hw.dropStream_streams (h : Hw) (c : Nat) : (h.dropStream c).streams = tput none h.streams c none := rfl

/-! #### Hw.setGroup -/

@[simp] theorem Hw.setGroup_pwr (h : Hw) (g : Nat) (x : Option Group) : (h.setGroup g x).pwr = h.pwr := rfl
@[simp] theorem Hw.setGroup_ex (h : Hw) (g : Nat) (x : Option Group) : (h.setGroup g x).ex = h.ex := rfl
@[simp] theorem Hw.setGroup_latches (h : Hw) (g : Nat) (x : Option Group) : (h.setGroup g x).latches = h.latches := rfl
@[simp] theorem Hw.setGroup_pwrCap (h : Hw) (g : Nat) (x : Option Group) : (h.setGroup g x).pwrCap = h.pwrCap := rfl
@[simp] theorem Hw.setGroup_pwrCapNow (h : Hw) (g : Nat) (x : Option Group) : (h.setGroup g x).pwrCapNow = h.pwrCapNow := rfl
@[simp] theorem Hw.setGroup_qs (h : Hw) (g : Nat) (x : Option Group) : (h.setGroup g x).qs = h.qs := rfl
@[simp] theorem Hw.setGroup_msix (h : Hw) (g : Nat) (x : Option Group) : (h.setGroup g x).msix = h.msix := rfl
@[simp] theorem Hw.setGroup_link (h : Hw) (g : Nat) (x : Option Group) : (h.setGroup g x).link = h.link := rfl
@[simp] theorem Hw.setGroup_rings (h : Hw) (g : Nat) (x : Option Group) : (h.setGroup g x).rings = h.rings := rfl
@[simp] theorem Hw.setGroup_streams (h : Hw) (g : Nat) (x : Option Group) : (h.setGroup g x).streams = h.streams := rfl
@[simp] theorem Hw.setGroup_incs (h : Hw) (g : Nat) (x : Option Group) : (h.setGroup g x).incs = h.incs := rfl
@[simp] theorem Hw.setGroup_cat (h : Hw) (g : Nat) (x : Option Group) : (h.setGroup g x).cat = h.cat := rfl
@[simp] theorem Hw.setGroup_mem (h : Hw) (g : Nat) (x : Option Group) : (h.setGroup g x).mem = h.mem := rfl
@[simp] theorem Hw.setGroup_eng (h : Hw) (g : Nat) (x : Option Group) : (h.setGroup g x).eng = h.eng := rfl
@[simp] theorem Hw.setGroup_ports (h : Hw) (g : Nat) (x : Option Group) : (h.setGroup g x).ports = h.ports := rfl
@[simp] theorem Hw.setGroup_war (h : Hw) (g : Nat) (x : Option Group) : (h.setGroup g x).war = h.war := rfl
@[simp] theorem Hw.setGroup_log (h : Hw) (g : Nat) (x : Option Group) : (h.setGroup g x).log = h.log := rfl
@[simp] theorem Hw.setGroup_snap (h : Hw) (g : Nat) (x : Option Group) : (h.setGroup g x).snap = h.snap := rfl
@[simp] theorem Hw.setGroup_cnt (h : Hw) (g : Nat) (x : Option Group) : (h.setGroup g x).cnt = h.cnt := rfl
@[simp] theorem Hw.setGroup_fm (h : Hw) (g : Nat) (x : Option Group) : (h.setGroup g x).fm = h.fm := rfl
@[simp] theorem Hw.setGroup_ts (h : Hw) (g : Nat) (x : Option Group) : (h.setGroup g x).ts = h.ts := rfl
@[simp] theorem Hw.setGroup_sec (h : Hw) (g : Nat) (x : Option Group) : (h.setGroup g x).sec = h.sec := rfl
@[simp] theorem Hw.setGroup_free (h : Hw) (g : Nat) (x : Option Group) : (h.setGroup g x).free = h.free := rfl
@[simp] theorem Hw.setGroup_picks (h : Hw) (g : Nat) (x : Option Group) : (h.setGroup g x).picks = h.picks := rfl
theorem Hw.setGroup_groups (h : Hw) (g : Nat) (x : Option Group) : (h.setGroup g x).groups = tput none h.groups g x := rfl

/-! #### Hw.setVoice -/

@[simp] theorem Hw.setVoice_pwr (h : Hw) (i : Nat) (v : Variant) : (h.setVoice i v).pwr = h.pwr := rfl
@[simp] theorem Hw.setVoice_ex (h : Hw) (i : Nat) (v : Variant) : (h.setVoice i v).ex = h.ex := rfl
@[simp] theorem Hw.setVoice_latches (h : Hw) (i : Nat) (v : Variant) : (h.setVoice i v).latches = h.latches := rfl
@[simp] theorem Hw.setVoice_pwrCap (h : Hw) (i : Nat) (v : Variant) : (h.setVoice i v).pwrCap = h.pwrCap := rfl
@[simp] theorem Hw.setVoice_pwrCapNow (h : Hw) (i : Nat) (v : Variant) : (h.setVoice i v).pwrCapNow = h.pwrCapNow := rfl
@[simp] theorem Hw.setVoice_qs (h : Hw) (i : Nat) (v : Variant) : (h.setVoice i v).qs = h.qs := rfl
@[simp] theorem Hw.setVoice_msix (h : Hw) (i : Nat) (v : Variant) : (h.setVoice i v).msix = h.msix := rfl
@[simp] theorem Hw.setVoice_link (h : Hw) (i : Nat) (v : Variant) : (h.setVoice i v).link = h.link := rfl
@[simp] theorem Hw.setVoice_rings (h : Hw) (i : Nat) (v : Variant) : (h.setVoice i v).rings = h.rings := rfl
@[simp] theorem Hw.setVoice_streams (h : Hw) (i : Nat) (v : Variant) : (h.setVoice i v).streams = h.streams := rfl
@[simp] theorem Hw.setVoice_incs (h : Hw) (i : Nat) (v : Variant) : (h.setVoice i v).incs = h.incs := rfl
@[simp] theorem Hw.setVoice_groups (h : Hw) (i : Nat) (v : Variant) : (h.setVoice i v).groups = h.groups := rfl
@[simp] theorem Hw.setVoice_mem (h : Hw) (i : Nat) (v : Variant) : (h.setVoice i v).mem = h.mem := rfl
@[simp] theorem Hw.setVoice_eng (h : Hw) (i : Nat) (v : Variant) : (h.setVoice i v).eng = h.eng := rfl
@[simp] theorem Hw.setVoice_ports (h : Hw) (i : Nat) (v : Variant) : (h.setVoice i v).ports = h.ports := rfl
@[simp] theorem Hw.setVoice_war (h : Hw) (i : Nat) (v : Variant) : (h.setVoice i v).war = h.war := rfl
@[simp] theorem Hw.setVoice_log (h : Hw) (i : Nat) (v : Variant) : (h.setVoice i v).log = h.log := rfl
@[simp] theorem Hw.setVoice_snap (h : Hw) (i : Nat) (v : Variant) : (h.setVoice i v).snap = h.snap := rfl
@[simp] theorem Hw.setVoice_cnt (h : Hw) (i : Nat) (v : Variant) : (h.setVoice i v).cnt = h.cnt := rfl
@[simp] theorem Hw.setVoice_fm (h : Hw) (i : Nat) (v : Variant) : (h.setVoice i v).fm = h.fm := rfl
@[simp] theorem Hw.setVoice_ts (h : Hw) (i : Nat) (v : Variant) : (h.setVoice i v).ts = h.ts := rfl
@[simp] theorem Hw.setVoice_sec (h : Hw) (i : Nat) (v : Variant) : (h.setVoice i v).sec = h.sec := rfl
@[simp] theorem Hw.setVoice_free (h : Hw) (i : Nat) (v : Variant) : (h.setVoice i v).free = h.free := rfl
@[simp] theorem Hw.setVoice_picks (h : Hw) (i : Nat) (v : Variant) : (h.setVoice i v).picks = h.picks := rfl

/-! #### Hw.setTrunk -/

@[simp] theorem Hw.setTrunk_pwr (h : Hw) (i : Nat) (x : VSlot) : (h.setTrunk i x).pwr = h.pwr := rfl
@[simp] theorem Hw.setTrunk_ex (h : Hw) (i : Nat) (x : VSlot) : (h.setTrunk i x).ex = h.ex := rfl
@[simp] theorem Hw.setTrunk_latches (h : Hw) (i : Nat) (x : VSlot) : (h.setTrunk i x).latches = h.latches := rfl
@[simp] theorem Hw.setTrunk_pwrCap (h : Hw) (i : Nat) (x : VSlot) : (h.setTrunk i x).pwrCap = h.pwrCap := rfl
@[simp] theorem Hw.setTrunk_pwrCapNow (h : Hw) (i : Nat) (x : VSlot) : (h.setTrunk i x).pwrCapNow = h.pwrCapNow := rfl
@[simp] theorem Hw.setTrunk_qs (h : Hw) (i : Nat) (x : VSlot) : (h.setTrunk i x).qs = h.qs := rfl
@[simp] theorem Hw.setTrunk_msix (h : Hw) (i : Nat) (x : VSlot) : (h.setTrunk i x).msix = h.msix := rfl
@[simp] theorem Hw.setTrunk_link (h : Hw) (i : Nat) (x : VSlot) : (h.setTrunk i x).link = h.link := rfl
@[simp] theorem Hw.setTrunk_rings (h : Hw) (i : Nat) (x : VSlot) : (h.setTrunk i x).rings = h.rings := rfl
@[simp] theorem Hw.setTrunk_streams (h : Hw) (i : Nat) (x : VSlot) : (h.setTrunk i x).streams = h.streams := rfl
@[simp] theorem Hw.setTrunk_incs (h : Hw) (i : Nat) (x : VSlot) : (h.setTrunk i x).incs = h.incs := rfl
@[simp] theorem Hw.setTrunk_groups (h : Hw) (i : Nat) (x : VSlot) : (h.setTrunk i x).groups = h.groups := rfl
@[simp] theorem Hw.setTrunk_mem (h : Hw) (i : Nat) (x : VSlot) : (h.setTrunk i x).mem = h.mem := rfl
@[simp] theorem Hw.setTrunk_eng (h : Hw) (i : Nat) (x : VSlot) : (h.setTrunk i x).eng = h.eng := rfl
@[simp] theorem Hw.setTrunk_ports (h : Hw) (i : Nat) (x : VSlot) : (h.setTrunk i x).ports = h.ports := rfl
@[simp] theorem Hw.setTrunk_war (h : Hw) (i : Nat) (x : VSlot) : (h.setTrunk i x).war = h.war := rfl
@[simp] theorem Hw.setTrunk_log (h : Hw) (i : Nat) (x : VSlot) : (h.setTrunk i x).log = h.log := rfl
@[simp] theorem Hw.setTrunk_snap (h : Hw) (i : Nat) (x : VSlot) : (h.setTrunk i x).snap = h.snap := rfl
@[simp] theorem Hw.setTrunk_cnt (h : Hw) (i : Nat) (x : VSlot) : (h.setTrunk i x).cnt = h.cnt := rfl
@[simp] theorem Hw.setTrunk_fm (h : Hw) (i : Nat) (x : VSlot) : (h.setTrunk i x).fm = h.fm := rfl
@[simp] theorem Hw.setTrunk_ts (h : Hw) (i : Nat) (x : VSlot) : (h.setTrunk i x).ts = h.ts := rfl
@[simp] theorem Hw.setTrunk_sec (h : Hw) (i : Nat) (x : VSlot) : (h.setTrunk i x).sec = h.sec := rfl
@[simp] theorem Hw.setTrunk_free (h : Hw) (i : Nat) (x : VSlot) : (h.setTrunk i x).free = h.free := rfl
@[simp] theorem Hw.setTrunk_picks (h : Hw) (i : Nat) (x : VSlot) : (h.setTrunk i x).picks = h.picks := rfl

/-! #### Hw.setTile -/

@[simp] theorem Hw.setTile_pwr (h : Hw) (t : Nat) (x : Tile) : (h.setTile t x).pwr = h.pwr := rfl
@[simp] theorem Hw.setTile_ex (h : Hw) (t : Nat) (x : Tile) : (h.setTile t x).ex = h.ex := rfl
@[simp] theorem Hw.setTile_latches (h : Hw) (t : Nat) (x : Tile) : (h.setTile t x).latches = h.latches := rfl
@[simp] theorem Hw.setTile_pwrCap (h : Hw) (t : Nat) (x : Tile) : (h.setTile t x).pwrCap = h.pwrCap := rfl
@[simp] theorem Hw.setTile_pwrCapNow (h : Hw) (t : Nat) (x : Tile) : (h.setTile t x).pwrCapNow = h.pwrCapNow := rfl
@[simp] theorem Hw.setTile_qs (h : Hw) (t : Nat) (x : Tile) : (h.setTile t x).qs = h.qs := rfl
@[simp] theorem Hw.setTile_msix (h : Hw) (t : Nat) (x : Tile) : (h.setTile t x).msix = h.msix := rfl
@[simp] theorem Hw.setTile_link (h : Hw) (t : Nat) (x : Tile) : (h.setTile t x).link = h.link := rfl
@[simp] theorem Hw.setTile_rings (h : Hw) (t : Nat) (x : Tile) : (h.setTile t x).rings = h.rings := rfl
@[simp] theorem Hw.setTile_streams (h : Hw) (t : Nat) (x : Tile) : (h.setTile t x).streams = h.streams := rfl
@[simp] theorem Hw.setTile_incs (h : Hw) (t : Nat) (x : Tile) : (h.setTile t x).incs = h.incs := rfl
@[simp] theorem Hw.setTile_groups (h : Hw) (t : Nat) (x : Tile) : (h.setTile t x).groups = h.groups := rfl
@[simp] theorem Hw.setTile_cat (h : Hw) (t : Nat) (x : Tile) : (h.setTile t x).cat = h.cat := rfl
@[simp] theorem Hw.setTile_mem (h : Hw) (t : Nat) (x : Tile) : (h.setTile t x).mem = h.mem := rfl
@[simp] theorem Hw.setTile_ports (h : Hw) (t : Nat) (x : Tile) : (h.setTile t x).ports = h.ports := rfl
@[simp] theorem Hw.setTile_war (h : Hw) (t : Nat) (x : Tile) : (h.setTile t x).war = h.war := rfl
@[simp] theorem Hw.setTile_log (h : Hw) (t : Nat) (x : Tile) : (h.setTile t x).log = h.log := rfl
@[simp] theorem Hw.setTile_snap (h : Hw) (t : Nat) (x : Tile) : (h.setTile t x).snap = h.snap := rfl
@[simp] theorem Hw.setTile_cnt (h : Hw) (t : Nat) (x : Tile) : (h.setTile t x).cnt = h.cnt := rfl
@[simp] theorem Hw.setTile_fm (h : Hw) (t : Nat) (x : Tile) : (h.setTile t x).fm = h.fm := rfl
@[simp] theorem Hw.setTile_ts (h : Hw) (t : Nat) (x : Tile) : (h.setTile t x).ts = h.ts := rfl
@[simp] theorem Hw.setTile_sec (h : Hw) (t : Nat) (x : Tile) : (h.setTile t x).sec = h.sec := rfl
@[simp] theorem Hw.setTile_free (h : Hw) (t : Nat) (x : Tile) : (h.setTile t x).free = h.free := rfl
@[simp] theorem Hw.setTile_picks (h : Hw) (t : Nat) (x : Tile) : (h.setTile t x).picks = h.picks := rfl

/-! #### Hw.setCsu -/

@[simp] theorem Hw.setCsu_pwr (h : Hw) (c : Nat) (x : CsuUnit) : (h.setCsu c x).pwr = h.pwr := rfl
@[simp] theorem Hw.setCsu_ex (h : Hw) (c : Nat) (x : CsuUnit) : (h.setCsu c x).ex = h.ex := rfl
@[simp] theorem Hw.setCsu_latches (h : Hw) (c : Nat) (x : CsuUnit) : (h.setCsu c x).latches = h.latches := rfl
@[simp] theorem Hw.setCsu_pwrCap (h : Hw) (c : Nat) (x : CsuUnit) : (h.setCsu c x).pwrCap = h.pwrCap := rfl
@[simp] theorem Hw.setCsu_pwrCapNow (h : Hw) (c : Nat) (x : CsuUnit) : (h.setCsu c x).pwrCapNow = h.pwrCapNow := rfl
@[simp] theorem Hw.setCsu_qs (h : Hw) (c : Nat) (x : CsuUnit) : (h.setCsu c x).qs = h.qs := rfl
@[simp] theorem Hw.setCsu_msix (h : Hw) (c : Nat) (x : CsuUnit) : (h.setCsu c x).msix = h.msix := rfl
@[simp] theorem Hw.setCsu_link (h : Hw) (c : Nat) (x : CsuUnit) : (h.setCsu c x).link = h.link := rfl
@[simp] theorem Hw.setCsu_rings (h : Hw) (c : Nat) (x : CsuUnit) : (h.setCsu c x).rings = h.rings := rfl
@[simp] theorem Hw.setCsu_streams (h : Hw) (c : Nat) (x : CsuUnit) : (h.setCsu c x).streams = h.streams := rfl
@[simp] theorem Hw.setCsu_incs (h : Hw) (c : Nat) (x : CsuUnit) : (h.setCsu c x).incs = h.incs := rfl
@[simp] theorem Hw.setCsu_groups (h : Hw) (c : Nat) (x : CsuUnit) : (h.setCsu c x).groups = h.groups := rfl
@[simp] theorem Hw.setCsu_cat (h : Hw) (c : Nat) (x : CsuUnit) : (h.setCsu c x).cat = h.cat := rfl
@[simp] theorem Hw.setCsu_mem (h : Hw) (c : Nat) (x : CsuUnit) : (h.setCsu c x).mem = h.mem := rfl
@[simp] theorem Hw.setCsu_ports (h : Hw) (c : Nat) (x : CsuUnit) : (h.setCsu c x).ports = h.ports := rfl
@[simp] theorem Hw.setCsu_war (h : Hw) (c : Nat) (x : CsuUnit) : (h.setCsu c x).war = h.war := rfl
@[simp] theorem Hw.setCsu_log (h : Hw) (c : Nat) (x : CsuUnit) : (h.setCsu c x).log = h.log := rfl
@[simp] theorem Hw.setCsu_snap (h : Hw) (c : Nat) (x : CsuUnit) : (h.setCsu c x).snap = h.snap := rfl
@[simp] theorem Hw.setCsu_cnt (h : Hw) (c : Nat) (x : CsuUnit) : (h.setCsu c x).cnt = h.cnt := rfl
@[simp] theorem Hw.setCsu_fm (h : Hw) (c : Nat) (x : CsuUnit) : (h.setCsu c x).fm = h.fm := rfl
@[simp] theorem Hw.setCsu_ts (h : Hw) (c : Nat) (x : CsuUnit) : (h.setCsu c x).ts = h.ts := rfl
@[simp] theorem Hw.setCsu_sec (h : Hw) (c : Nat) (x : CsuUnit) : (h.setCsu c x).sec = h.sec := rfl
@[simp] theorem Hw.setCsu_free (h : Hw) (c : Nat) (x : CsuUnit) : (h.setCsu c x).free = h.free := rfl
@[simp] theorem Hw.setCsu_picks (h : Hw) (c : Nat) (x : CsuUnit) : (h.setCsu c x).picks = h.picks := rfl

/-! #### Hw.setLane -/

@[simp] theorem Hw.setLane_pwr (h : Hw) (l : Nat) (x : LaneUnit) : (h.setLane l x).pwr = h.pwr := rfl
@[simp] theorem Hw.setLane_ex (h : Hw) (l : Nat) (x : LaneUnit) : (h.setLane l x).ex = h.ex := rfl
@[simp] theorem Hw.setLane_latches (h : Hw) (l : Nat) (x : LaneUnit) : (h.setLane l x).latches = h.latches := rfl
@[simp] theorem Hw.setLane_pwrCap (h : Hw) (l : Nat) (x : LaneUnit) : (h.setLane l x).pwrCap = h.pwrCap := rfl
@[simp] theorem Hw.setLane_pwrCapNow (h : Hw) (l : Nat) (x : LaneUnit) : (h.setLane l x).pwrCapNow = h.pwrCapNow := rfl
@[simp] theorem Hw.setLane_qs (h : Hw) (l : Nat) (x : LaneUnit) : (h.setLane l x).qs = h.qs := rfl
@[simp] theorem Hw.setLane_msix (h : Hw) (l : Nat) (x : LaneUnit) : (h.setLane l x).msix = h.msix := rfl
@[simp] theorem Hw.setLane_link (h : Hw) (l : Nat) (x : LaneUnit) : (h.setLane l x).link = h.link := rfl
@[simp] theorem Hw.setLane_rings (h : Hw) (l : Nat) (x : LaneUnit) : (h.setLane l x).rings = h.rings := rfl
@[simp] theorem Hw.setLane_streams (h : Hw) (l : Nat) (x : LaneUnit) : (h.setLane l x).streams = h.streams := rfl
@[simp] theorem Hw.setLane_incs (h : Hw) (l : Nat) (x : LaneUnit) : (h.setLane l x).incs = h.incs := rfl
@[simp] theorem Hw.setLane_groups (h : Hw) (l : Nat) (x : LaneUnit) : (h.setLane l x).groups = h.groups := rfl
@[simp] theorem Hw.setLane_cat (h : Hw) (l : Nat) (x : LaneUnit) : (h.setLane l x).cat = h.cat := rfl
@[simp] theorem Hw.setLane_mem (h : Hw) (l : Nat) (x : LaneUnit) : (h.setLane l x).mem = h.mem := rfl
@[simp] theorem Hw.setLane_ports (h : Hw) (l : Nat) (x : LaneUnit) : (h.setLane l x).ports = h.ports := rfl
@[simp] theorem Hw.setLane_war (h : Hw) (l : Nat) (x : LaneUnit) : (h.setLane l x).war = h.war := rfl
@[simp] theorem Hw.setLane_log (h : Hw) (l : Nat) (x : LaneUnit) : (h.setLane l x).log = h.log := rfl
@[simp] theorem Hw.setLane_snap (h : Hw) (l : Nat) (x : LaneUnit) : (h.setLane l x).snap = h.snap := rfl
@[simp] theorem Hw.setLane_cnt (h : Hw) (l : Nat) (x : LaneUnit) : (h.setLane l x).cnt = h.cnt := rfl
@[simp] theorem Hw.setLane_fm (h : Hw) (l : Nat) (x : LaneUnit) : (h.setLane l x).fm = h.fm := rfl
@[simp] theorem Hw.setLane_ts (h : Hw) (l : Nat) (x : LaneUnit) : (h.setLane l x).ts = h.ts := rfl
@[simp] theorem Hw.setLane_sec (h : Hw) (l : Nat) (x : LaneUnit) : (h.setLane l x).sec = h.sec := rfl
@[simp] theorem Hw.setLane_free (h : Hw) (l : Nat) (x : LaneUnit) : (h.setLane l x).free = h.free := rfl
@[simp] theorem Hw.setLane_picks (h : Hw) (l : Nat) (x : LaneUnit) : (h.setLane l x).picks = h.picks := rfl

/-! #### Hw.setM -/

@[simp] theorem Hw.setM_pwr (h : Hw) (c m : Nat) : (h.setM c m).pwr = h.pwr := rfl
@[simp] theorem Hw.setM_ex (h : Hw) (c m : Nat) : (h.setM c m).ex = h.ex := rfl
@[simp] theorem Hw.setM_latches (h : Hw) (c m : Nat) : (h.setM c m).latches = h.latches := rfl
@[simp] theorem Hw.setM_pwrCap (h : Hw) (c m : Nat) : (h.setM c m).pwrCap = h.pwrCap := rfl
@[simp] theorem Hw.setM_pwrCapNow (h : Hw) (c m : Nat) : (h.setM c m).pwrCapNow = h.pwrCapNow := rfl
@[simp] theorem Hw.setM_qs (h : Hw) (c m : Nat) : (h.setM c m).qs = h.qs := rfl
@[simp] theorem Hw.setM_msix (h : Hw) (c m : Nat) : (h.setM c m).msix = h.msix := rfl
@[simp] theorem Hw.setM_link (h : Hw) (c m : Nat) : (h.setM c m).link = h.link := rfl
@[simp] theorem Hw.setM_rings (h : Hw) (c m : Nat) : (h.setM c m).rings = h.rings := rfl
@[simp] theorem Hw.setM_streams (h : Hw) (c m : Nat) : (h.setM c m).streams = h.streams := rfl
@[simp] theorem Hw.setM_incs (h : Hw) (c m : Nat) : (h.setM c m).incs = h.incs := rfl
@[simp] theorem Hw.setM_groups (h : Hw) (c m : Nat) : (h.setM c m).groups = h.groups := rfl
@[simp] theorem Hw.setM_cat (h : Hw) (c m : Nat) : (h.setM c m).cat = h.cat := rfl
@[simp] theorem Hw.setM_mem (h : Hw) (c m : Nat) : (h.setM c m).mem = h.mem := rfl
@[simp] theorem Hw.setM_eng (h : Hw) (c m : Nat) : (h.setM c m).eng = h.eng := rfl
@[simp] theorem Hw.setM_ports (h : Hw) (c m : Nat) : (h.setM c m).ports = h.ports := rfl
@[simp] theorem Hw.setM_log (h : Hw) (c m : Nat) : (h.setM c m).log = h.log := rfl
@[simp] theorem Hw.setM_snap (h : Hw) (c m : Nat) : (h.setM c m).snap = h.snap := rfl
@[simp] theorem Hw.setM_cnt (h : Hw) (c m : Nat) : (h.setM c m).cnt = h.cnt := rfl
@[simp] theorem Hw.setM_fm (h : Hw) (c m : Nat) : (h.setM c m).fm = h.fm := rfl
@[simp] theorem Hw.setM_ts (h : Hw) (c m : Nat) : (h.setM c m).ts = h.ts := rfl
@[simp] theorem Hw.setM_sec (h : Hw) (c m : Nat) : (h.setM c m).sec = h.sec := rfl
@[simp] theorem Hw.setM_free (h : Hw) (c m : Nat) : (h.setM c m).free = h.free := rfl
@[simp] theorem Hw.setM_picks (h : Hw) (c m : Nat) : (h.setM c m).picks = h.picks := rfl

/-! #### Hw.setHist -/

@[simp] theorem Hw.setHist_pwr (h : Hw) (x : FaultHist) : (h.setHist x).pwr = h.pwr := rfl
@[simp] theorem Hw.setHist_ex (h : Hw) (x : FaultHist) : (h.setHist x).ex = h.ex := rfl
@[simp] theorem Hw.setHist_latches (h : Hw) (x : FaultHist) : (h.setHist x).latches = h.latches := rfl
@[simp] theorem Hw.setHist_pwrCap (h : Hw) (x : FaultHist) : (h.setHist x).pwrCap = h.pwrCap := rfl
@[simp] theorem Hw.setHist_pwrCapNow (h : Hw) (x : FaultHist) : (h.setHist x).pwrCapNow = h.pwrCapNow := rfl
@[simp] theorem Hw.setHist_qs (h : Hw) (x : FaultHist) : (h.setHist x).qs = h.qs := rfl
@[simp] theorem Hw.setHist_msix (h : Hw) (x : FaultHist) : (h.setHist x).msix = h.msix := rfl
@[simp] theorem Hw.setHist_link (h : Hw) (x : FaultHist) : (h.setHist x).link = h.link := rfl
@[simp] theorem Hw.setHist_rings (h : Hw) (x : FaultHist) : (h.setHist x).rings = h.rings := rfl
@[simp] theorem Hw.setHist_streams (h : Hw) (x : FaultHist) : (h.setHist x).streams = h.streams := rfl
@[simp] theorem Hw.setHist_incs (h : Hw) (x : FaultHist) : (h.setHist x).incs = h.incs := rfl
@[simp] theorem Hw.setHist_groups (h : Hw) (x : FaultHist) : (h.setHist x).groups = h.groups := rfl
@[simp] theorem Hw.setHist_cat (h : Hw) (x : FaultHist) : (h.setHist x).cat = h.cat := rfl
@[simp] theorem Hw.setHist_mem (h : Hw) (x : FaultHist) : (h.setHist x).mem = h.mem := rfl
@[simp] theorem Hw.setHist_ports (h : Hw) (x : FaultHist) : (h.setHist x).ports = h.ports := rfl
@[simp] theorem Hw.setHist_war (h : Hw) (x : FaultHist) : (h.setHist x).war = h.war := rfl
@[simp] theorem Hw.setHist_log (h : Hw) (x : FaultHist) : (h.setHist x).log = h.log := rfl
@[simp] theorem Hw.setHist_snap (h : Hw) (x : FaultHist) : (h.setHist x).snap = h.snap := rfl
@[simp] theorem Hw.setHist_cnt (h : Hw) (x : FaultHist) : (h.setHist x).cnt = h.cnt := rfl
@[simp] theorem Hw.setHist_fm (h : Hw) (x : FaultHist) : (h.setHist x).fm = h.fm := rfl
@[simp] theorem Hw.setHist_ts (h : Hw) (x : FaultHist) : (h.setHist x).ts = h.ts := rfl
@[simp] theorem Hw.setHist_sec (h : Hw) (x : FaultHist) : (h.setHist x).sec = h.sec := rfl
@[simp] theorem Hw.setHist_free (h : Hw) (x : FaultHist) : (h.setHist x).free = h.free := rfl
@[simp] theorem Hw.setHist_picks (h : Hw) (x : FaultHist) : (h.setHist x).picks = h.picks := rfl

/-! #### Hw.dropWrite -/

@[simp] theorem Hw.dropWrite_pwr (h : Hw) (off : Nat) : (h.dropWrite off).pwr = h.pwr := rfl
@[simp] theorem Hw.dropWrite_ex (h : Hw) (off : Nat) : (h.dropWrite off).ex = h.ex := rfl
@[simp] theorem Hw.dropWrite_latches (h : Hw) (off : Nat) : (h.dropWrite off).latches = h.latches := rfl
@[simp] theorem Hw.dropWrite_pwrCap (h : Hw) (off : Nat) : (h.dropWrite off).pwrCap = h.pwrCap := rfl
@[simp] theorem Hw.dropWrite_pwrCapNow (h : Hw) (off : Nat) : (h.dropWrite off).pwrCapNow = h.pwrCapNow := rfl
@[simp] theorem Hw.dropWrite_qs (h : Hw) (off : Nat) : (h.dropWrite off).qs = h.qs := rfl
@[simp] theorem Hw.dropWrite_msix (h : Hw) (off : Nat) : (h.dropWrite off).msix = h.msix := rfl
@[simp] theorem Hw.dropWrite_rings (h : Hw) (off : Nat) : (h.dropWrite off).rings = h.rings := rfl
@[simp] theorem Hw.dropWrite_streams (h : Hw) (off : Nat) : (h.dropWrite off).streams = h.streams := rfl
@[simp] theorem Hw.dropWrite_incs (h : Hw) (off : Nat) : (h.dropWrite off).incs = h.incs := rfl
@[simp] theorem Hw.dropWrite_groups (h : Hw) (off : Nat) : (h.dropWrite off).groups = h.groups := rfl
@[simp] theorem Hw.dropWrite_cat (h : Hw) (off : Nat) : (h.dropWrite off).cat = h.cat := rfl
@[simp] theorem Hw.dropWrite_mem (h : Hw) (off : Nat) : (h.dropWrite off).mem = h.mem := rfl
@[simp] theorem Hw.dropWrite_eng (h : Hw) (off : Nat) : (h.dropWrite off).eng = h.eng := rfl
@[simp] theorem Hw.dropWrite_ports (h : Hw) (off : Nat) : (h.dropWrite off).ports = h.ports := rfl
@[simp] theorem Hw.dropWrite_war (h : Hw) (off : Nat) : (h.dropWrite off).war = h.war := rfl
@[simp] theorem Hw.dropWrite_log (h : Hw) (off : Nat) : (h.dropWrite off).log = h.log := rfl
@[simp] theorem Hw.dropWrite_snap (h : Hw) (off : Nat) : (h.dropWrite off).snap = h.snap := rfl
@[simp] theorem Hw.dropWrite_cnt (h : Hw) (off : Nat) : (h.dropWrite off).cnt = h.cnt := rfl
@[simp] theorem Hw.dropWrite_fm (h : Hw) (off : Nat) : (h.dropWrite off).fm = h.fm := rfl
@[simp] theorem Hw.dropWrite_ts (h : Hw) (off : Nat) : (h.dropWrite off).ts = h.ts := rfl
@[simp] theorem Hw.dropWrite_sec (h : Hw) (off : Nat) : (h.dropWrite off).sec = h.sec := rfl
@[simp] theorem Hw.dropWrite_free (h : Hw) (off : Nat) : (h.dropWrite off).free = h.free := rfl
@[simp] theorem Hw.dropWrite_picks (h : Hw) (off : Nat) : (h.dropWrite off).picks = h.picks := rfl

/-! #### Hw.complete -/

@[simp] theorem Hw.complete_pwr (h : Hw) (q seq kind : Nat) (tag handle : W32) (status d0 : Nat) (d1 : W64) : (h.complete q seq kind tag handle status d0 d1).pwr = h.pwr := rfl
@[simp] theorem Hw.complete_ex (h : Hw) (q seq kind : Nat) (tag handle : W32) (status d0 : Nat) (d1 : W64) : (h.complete q seq kind tag handle status d0 d1).ex = h.ex := rfl
@[simp] theorem Hw.complete_latches (h : Hw) (q seq kind : Nat) (tag handle : W32) (status d0 : Nat) (d1 : W64) : (h.complete q seq kind tag handle status d0 d1).latches = h.latches := rfl
@[simp] theorem Hw.complete_pwrCap (h : Hw) (q seq kind : Nat) (tag handle : W32) (status d0 : Nat) (d1 : W64) : (h.complete q seq kind tag handle status d0 d1).pwrCap = h.pwrCap := rfl
@[simp] theorem Hw.complete_pwrCapNow (h : Hw) (q seq kind : Nat) (tag handle : W32) (status d0 : Nat) (d1 : W64) : (h.complete q seq kind tag handle status d0 d1).pwrCapNow = h.pwrCapNow := rfl
@[simp] theorem Hw.complete_qs (h : Hw) (q seq kind : Nat) (tag handle : W32) (status d0 : Nat) (d1 : W64) : (h.complete q seq kind tag handle status d0 d1).qs = h.qs := rfl
@[simp] theorem Hw.complete_msix (h : Hw) (q seq kind : Nat) (tag handle : W32) (status d0 : Nat) (d1 : W64) : (h.complete q seq kind tag handle status d0 d1).msix = h.msix := rfl
@[simp] theorem Hw.complete_link (h : Hw) (q seq kind : Nat) (tag handle : W32) (status d0 : Nat) (d1 : W64) : (h.complete q seq kind tag handle status d0 d1).link = h.link := rfl
@[simp] theorem Hw.complete_streams (h : Hw) (q seq kind : Nat) (tag handle : W32) (status d0 : Nat) (d1 : W64) : (h.complete q seq kind tag handle status d0 d1).streams = h.streams := rfl
@[simp] theorem Hw.complete_incs (h : Hw) (q seq kind : Nat) (tag handle : W32) (status d0 : Nat) (d1 : W64) : (h.complete q seq kind tag handle status d0 d1).incs = h.incs := rfl
@[simp] theorem Hw.complete_groups (h : Hw) (q seq kind : Nat) (tag handle : W32) (status d0 : Nat) (d1 : W64) : (h.complete q seq kind tag handle status d0 d1).groups = h.groups := rfl
@[simp] theorem Hw.complete_cat (h : Hw) (q seq kind : Nat) (tag handle : W32) (status d0 : Nat) (d1 : W64) : (h.complete q seq kind tag handle status d0 d1).cat = h.cat := rfl
@[simp] theorem Hw.complete_mem (h : Hw) (q seq kind : Nat) (tag handle : W32) (status d0 : Nat) (d1 : W64) : (h.complete q seq kind tag handle status d0 d1).mem = h.mem := rfl
@[simp] theorem Hw.complete_eng (h : Hw) (q seq kind : Nat) (tag handle : W32) (status d0 : Nat) (d1 : W64) : (h.complete q seq kind tag handle status d0 d1).eng = h.eng := rfl
@[simp] theorem Hw.complete_ports (h : Hw) (q seq kind : Nat) (tag handle : W32) (status d0 : Nat) (d1 : W64) : (h.complete q seq kind tag handle status d0 d1).ports = h.ports := rfl
@[simp] theorem Hw.complete_war (h : Hw) (q seq kind : Nat) (tag handle : W32) (status d0 : Nat) (d1 : W64) : (h.complete q seq kind tag handle status d0 d1).war = h.war := rfl
@[simp] theorem Hw.complete_log (h : Hw) (q seq kind : Nat) (tag handle : W32) (status d0 : Nat) (d1 : W64) : (h.complete q seq kind tag handle status d0 d1).log = h.log := rfl
@[simp] theorem Hw.complete_snap (h : Hw) (q seq kind : Nat) (tag handle : W32) (status d0 : Nat) (d1 : W64) : (h.complete q seq kind tag handle status d0 d1).snap = h.snap := rfl
@[simp] theorem Hw.complete_cnt (h : Hw) (q seq kind : Nat) (tag handle : W32) (status d0 : Nat) (d1 : W64) : (h.complete q seq kind tag handle status d0 d1).cnt = h.cnt := rfl
@[simp] theorem Hw.complete_fm (h : Hw) (q seq kind : Nat) (tag handle : W32) (status d0 : Nat) (d1 : W64) : (h.complete q seq kind tag handle status d0 d1).fm = h.fm := rfl
@[simp] theorem Hw.complete_ts (h : Hw) (q seq kind : Nat) (tag handle : W32) (status d0 : Nat) (d1 : W64) : (h.complete q seq kind tag handle status d0 d1).ts = h.ts := rfl
@[simp] theorem Hw.complete_sec (h : Hw) (q seq kind : Nat) (tag handle : W32) (status d0 : Nat) (d1 : W64) : (h.complete q seq kind tag handle status d0 d1).sec = h.sec := rfl
@[simp] theorem Hw.complete_free (h : Hw) (q seq kind : Nat) (tag handle : W32) (status d0 : Nat) (d1 : W64) : (h.complete q seq kind tag handle status d0 d1).free = h.free := rfl
@[simp] theorem Hw.complete_picks (h : Hw) (q seq kind : Nat) (tag handle : W32) (status d0 : Nat) (d1 : W64) : (h.complete q seq kind tag handle status d0 d1).picks = h.picks := rfl

/-! #### Hw.event -/

@[simp] theorem Hw.event_pwr (h : Hw) (c : Nat) (s : Stream) (code status d0 : Nat) (d1 : W64) : (h.event c s code status d0 d1).pwr = h.pwr := rfl
@[simp] theorem Hw.event_ex (h : Hw) (c : Nat) (s : Stream) (code status d0 : Nat) (d1 : W64) : (h.event c s code status d0 d1).ex = h.ex := rfl
@[simp] theorem Hw.event_latches (h : Hw) (c : Nat) (s : Stream) (code status d0 : Nat) (d1 : W64) : (h.event c s code status d0 d1).latches = h.latches := rfl
@[simp] theorem Hw.event_pwrCap (h : Hw) (c : Nat) (s : Stream) (code status d0 : Nat) (d1 : W64) : (h.event c s code status d0 d1).pwrCap = h.pwrCap := rfl
@[simp] theorem Hw.event_pwrCapNow (h : Hw) (c : Nat) (s : Stream) (code status d0 : Nat) (d1 : W64) : (h.event c s code status d0 d1).pwrCapNow = h.pwrCapNow := rfl
@[simp] theorem Hw.event_qs (h : Hw) (c : Nat) (s : Stream) (code status d0 : Nat) (d1 : W64) : (h.event c s code status d0 d1).qs = h.qs := rfl
@[simp] theorem Hw.event_msix (h : Hw) (c : Nat) (s : Stream) (code status d0 : Nat) (d1 : W64) : (h.event c s code status d0 d1).msix = h.msix := rfl
@[simp] theorem Hw.event_link (h : Hw) (c : Nat) (s : Stream) (code status d0 : Nat) (d1 : W64) : (h.event c s code status d0 d1).link = h.link := rfl
@[simp] theorem Hw.event_streams (h : Hw) (c : Nat) (s : Stream) (code status d0 : Nat) (d1 : W64) : (h.event c s code status d0 d1).streams = h.streams := rfl
@[simp] theorem Hw.event_incs (h : Hw) (c : Nat) (s : Stream) (code status d0 : Nat) (d1 : W64) : (h.event c s code status d0 d1).incs = h.incs := rfl
@[simp] theorem Hw.event_groups (h : Hw) (c : Nat) (s : Stream) (code status d0 : Nat) (d1 : W64) : (h.event c s code status d0 d1).groups = h.groups := rfl
@[simp] theorem Hw.event_cat (h : Hw) (c : Nat) (s : Stream) (code status d0 : Nat) (d1 : W64) : (h.event c s code status d0 d1).cat = h.cat := rfl
@[simp] theorem Hw.event_mem (h : Hw) (c : Nat) (s : Stream) (code status d0 : Nat) (d1 : W64) : (h.event c s code status d0 d1).mem = h.mem := rfl
@[simp] theorem Hw.event_eng (h : Hw) (c : Nat) (s : Stream) (code status d0 : Nat) (d1 : W64) : (h.event c s code status d0 d1).eng = h.eng := rfl
@[simp] theorem Hw.event_ports (h : Hw) (c : Nat) (s : Stream) (code status d0 : Nat) (d1 : W64) : (h.event c s code status d0 d1).ports = h.ports := rfl
@[simp] theorem Hw.event_war (h : Hw) (c : Nat) (s : Stream) (code status d0 : Nat) (d1 : W64) : (h.event c s code status d0 d1).war = h.war := rfl
@[simp] theorem Hw.event_log (h : Hw) (c : Nat) (s : Stream) (code status d0 : Nat) (d1 : W64) : (h.event c s code status d0 d1).log = h.log := rfl
@[simp] theorem Hw.event_snap (h : Hw) (c : Nat) (s : Stream) (code status d0 : Nat) (d1 : W64) : (h.event c s code status d0 d1).snap = h.snap := rfl
@[simp] theorem Hw.event_cnt (h : Hw) (c : Nat) (s : Stream) (code status d0 : Nat) (d1 : W64) : (h.event c s code status d0 d1).cnt = h.cnt := rfl
@[simp] theorem Hw.event_fm (h : Hw) (c : Nat) (s : Stream) (code status d0 : Nat) (d1 : W64) : (h.event c s code status d0 d1).fm = h.fm := rfl
@[simp] theorem Hw.event_ts (h : Hw) (c : Nat) (s : Stream) (code status d0 : Nat) (d1 : W64) : (h.event c s code status d0 d1).ts = h.ts := rfl
@[simp] theorem Hw.event_sec (h : Hw) (c : Nat) (s : Stream) (code status d0 : Nat) (d1 : W64) : (h.event c s code status d0 d1).sec = h.sec := rfl
@[simp] theorem Hw.event_free (h : Hw) (c : Nat) (s : Stream) (code status d0 : Nat) (d1 : W64) : (h.event c s code status d0 d1).free = h.free := rfl
@[simp] theorem Hw.event_picks (h : Hw) (c : Nat) (s : Stream) (code status d0 : Nat) (d1 : W64) : (h.event c s code status d0 d1).picks = h.picks := rfl

/-! #### Hw.moduleEvent -/

@[simp] theorem Hw.moduleEvent_pwr (h : Hw) (code status : Nat) (d1 : W64) : (h.moduleEvent code status d1).pwr = h.pwr := rfl
@[simp] theorem Hw.moduleEvent_ex (h : Hw) (code status : Nat) (d1 : W64) : (h.moduleEvent code status d1).ex = h.ex := rfl
@[simp] theorem Hw.moduleEvent_latches (h : Hw) (code status : Nat) (d1 : W64) : (h.moduleEvent code status d1).latches = h.latches := rfl
@[simp] theorem Hw.moduleEvent_pwrCap (h : Hw) (code status : Nat) (d1 : W64) : (h.moduleEvent code status d1).pwrCap = h.pwrCap := rfl
@[simp] theorem Hw.moduleEvent_pwrCapNow (h : Hw) (code status : Nat) (d1 : W64) : (h.moduleEvent code status d1).pwrCapNow = h.pwrCapNow := rfl
@[simp] theorem Hw.moduleEvent_qs (h : Hw) (code status : Nat) (d1 : W64) : (h.moduleEvent code status d1).qs = h.qs := rfl
@[simp] theorem Hw.moduleEvent_msix (h : Hw) (code status : Nat) (d1 : W64) : (h.moduleEvent code status d1).msix = h.msix := rfl
@[simp] theorem Hw.moduleEvent_link (h : Hw) (code status : Nat) (d1 : W64) : (h.moduleEvent code status d1).link = h.link := rfl
@[simp] theorem Hw.moduleEvent_streams (h : Hw) (code status : Nat) (d1 : W64) : (h.moduleEvent code status d1).streams = h.streams := rfl
@[simp] theorem Hw.moduleEvent_incs (h : Hw) (code status : Nat) (d1 : W64) : (h.moduleEvent code status d1).incs = h.incs := rfl
@[simp] theorem Hw.moduleEvent_groups (h : Hw) (code status : Nat) (d1 : W64) : (h.moduleEvent code status d1).groups = h.groups := rfl
@[simp] theorem Hw.moduleEvent_cat (h : Hw) (code status : Nat) (d1 : W64) : (h.moduleEvent code status d1).cat = h.cat := rfl
@[simp] theorem Hw.moduleEvent_mem (h : Hw) (code status : Nat) (d1 : W64) : (h.moduleEvent code status d1).mem = h.mem := rfl
@[simp] theorem Hw.moduleEvent_eng (h : Hw) (code status : Nat) (d1 : W64) : (h.moduleEvent code status d1).eng = h.eng := rfl
@[simp] theorem Hw.moduleEvent_ports (h : Hw) (code status : Nat) (d1 : W64) : (h.moduleEvent code status d1).ports = h.ports := rfl
@[simp] theorem Hw.moduleEvent_war (h : Hw) (code status : Nat) (d1 : W64) : (h.moduleEvent code status d1).war = h.war := rfl
@[simp] theorem Hw.moduleEvent_log (h : Hw) (code status : Nat) (d1 : W64) : (h.moduleEvent code status d1).log = h.log := rfl
@[simp] theorem Hw.moduleEvent_snap (h : Hw) (code status : Nat) (d1 : W64) : (h.moduleEvent code status d1).snap = h.snap := rfl
@[simp] theorem Hw.moduleEvent_cnt (h : Hw) (code status : Nat) (d1 : W64) : (h.moduleEvent code status d1).cnt = h.cnt := rfl
@[simp] theorem Hw.moduleEvent_fm (h : Hw) (code status : Nat) (d1 : W64) : (h.moduleEvent code status d1).fm = h.fm := rfl
@[simp] theorem Hw.moduleEvent_ts (h : Hw) (code status : Nat) (d1 : W64) : (h.moduleEvent code status d1).ts = h.ts := rfl
@[simp] theorem Hw.moduleEvent_sec (h : Hw) (code status : Nat) (d1 : W64) : (h.moduleEvent code status d1).sec = h.sec := rfl
@[simp] theorem Hw.moduleEvent_free (h : Hw) (code status : Nat) (d1 : W64) : (h.moduleEvent code status d1).free = h.free := rfl
@[simp] theorem Hw.moduleEvent_picks (h : Hw) (code status : Nat) (d1 : W64) : (h.moduleEvent code status d1).picks = h.picks := rfl

/-! #### Hw.extend -/

@[simp] theorem Hw.extend_pwr (h : Hw) (i kind : Nat) (version : W32) (v : Hash) : (h.extend i kind version v).pwr = h.pwr := rfl
@[simp] theorem Hw.extend_ex (h : Hw) (i kind : Nat) (version : W32) (v : Hash) : (h.extend i kind version v).ex = h.ex := rfl
@[simp] theorem Hw.extend_latches (h : Hw) (i kind : Nat) (version : W32) (v : Hash) : (h.extend i kind version v).latches = h.latches := rfl
@[simp] theorem Hw.extend_pwrCap (h : Hw) (i kind : Nat) (version : W32) (v : Hash) : (h.extend i kind version v).pwrCap = h.pwrCap := rfl
@[simp] theorem Hw.extend_pwrCapNow (h : Hw) (i kind : Nat) (version : W32) (v : Hash) : (h.extend i kind version v).pwrCapNow = h.pwrCapNow := rfl
@[simp] theorem Hw.extend_qs (h : Hw) (i kind : Nat) (version : W32) (v : Hash) : (h.extend i kind version v).qs = h.qs := rfl
@[simp] theorem Hw.extend_msix (h : Hw) (i kind : Nat) (version : W32) (v : Hash) : (h.extend i kind version v).msix = h.msix := rfl
@[simp] theorem Hw.extend_link (h : Hw) (i kind : Nat) (version : W32) (v : Hash) : (h.extend i kind version v).link = h.link := rfl
@[simp] theorem Hw.extend_rings (h : Hw) (i kind : Nat) (version : W32) (v : Hash) : (h.extend i kind version v).rings = h.rings := rfl
@[simp] theorem Hw.extend_streams (h : Hw) (i kind : Nat) (version : W32) (v : Hash) : (h.extend i kind version v).streams = h.streams := rfl
@[simp] theorem Hw.extend_incs (h : Hw) (i kind : Nat) (version : W32) (v : Hash) : (h.extend i kind version v).incs = h.incs := rfl
@[simp] theorem Hw.extend_groups (h : Hw) (i kind : Nat) (version : W32) (v : Hash) : (h.extend i kind version v).groups = h.groups := rfl
@[simp] theorem Hw.extend_cat (h : Hw) (i kind : Nat) (version : W32) (v : Hash) : (h.extend i kind version v).cat = h.cat := rfl
@[simp] theorem Hw.extend_mem (h : Hw) (i kind : Nat) (version : W32) (v : Hash) : (h.extend i kind version v).mem = h.mem := rfl
@[simp] theorem Hw.extend_eng (h : Hw) (i kind : Nat) (version : W32) (v : Hash) : (h.extend i kind version v).eng = h.eng := rfl
@[simp] theorem Hw.extend_ports (h : Hw) (i kind : Nat) (version : W32) (v : Hash) : (h.extend i kind version v).ports = h.ports := rfl
@[simp] theorem Hw.extend_war (h : Hw) (i kind : Nat) (version : W32) (v : Hash) : (h.extend i kind version v).war = h.war := rfl
@[simp] theorem Hw.extend_log (h : Hw) (i kind : Nat) (version : W32) (v : Hash) : (h.extend i kind version v).log = h.log := rfl
@[simp] theorem Hw.extend_snap (h : Hw) (i kind : Nat) (version : W32) (v : Hash) : (h.extend i kind version v).snap = h.snap := rfl
@[simp] theorem Hw.extend_cnt (h : Hw) (i kind : Nat) (version : W32) (v : Hash) : (h.extend i kind version v).cnt = h.cnt := rfl
@[simp] theorem Hw.extend_fm (h : Hw) (i kind : Nat) (version : W32) (v : Hash) : (h.extend i kind version v).fm = h.fm := rfl
@[simp] theorem Hw.extend_ts (h : Hw) (i kind : Nat) (version : W32) (v : Hash) : (h.extend i kind version v).ts = h.ts := rfl
@[simp] theorem Hw.extend_free (h : Hw) (i kind : Nat) (version : W32) (v : Hash) : (h.extend i kind version v).free = h.free := rfl
@[simp] theorem Hw.extend_picks (h : Hw) (i kind : Nat) (version : W32) (v : Hash) : (h.extend i kind version v).picks = h.picks := rfl

/-! #### Hw.modStream -/

@[simp] theorem Hw.modStream_pwr (h : Hw) (c : Nat) (f : Stream → Stream) : (h.modStream c f).pwr = h.pwr := by unfold Hw.modStream; split <;> rfl
@[simp] theorem Hw.modStream_ex (h : Hw) (c : Nat) (f : Stream → Stream) : (h.modStream c f).ex = h.ex := by unfold Hw.modStream; split <;> rfl
@[simp] theorem Hw.modStream_latches (h : Hw) (c : Nat) (f : Stream → Stream) : (h.modStream c f).latches = h.latches := by unfold Hw.modStream; split <;> rfl
@[simp] theorem Hw.modStream_pwrCap (h : Hw) (c : Nat) (f : Stream → Stream) : (h.modStream c f).pwrCap = h.pwrCap := by unfold Hw.modStream; split <;> rfl
@[simp] theorem Hw.modStream_pwrCapNow (h : Hw) (c : Nat) (f : Stream → Stream) : (h.modStream c f).pwrCapNow = h.pwrCapNow := by unfold Hw.modStream; split <;> rfl
@[simp] theorem Hw.modStream_qs (h : Hw) (c : Nat) (f : Stream → Stream) : (h.modStream c f).qs = h.qs := by unfold Hw.modStream; split <;> rfl
@[simp] theorem Hw.modStream_msix (h : Hw) (c : Nat) (f : Stream → Stream) : (h.modStream c f).msix = h.msix := by unfold Hw.modStream; split <;> rfl
@[simp] theorem Hw.modStream_link (h : Hw) (c : Nat) (f : Stream → Stream) : (h.modStream c f).link = h.link := by unfold Hw.modStream; split <;> rfl
@[simp] theorem Hw.modStream_rings (h : Hw) (c : Nat) (f : Stream → Stream) : (h.modStream c f).rings = h.rings := by unfold Hw.modStream; split <;> rfl
@[simp] theorem Hw.modStream_incs (h : Hw) (c : Nat) (f : Stream → Stream) : (h.modStream c f).incs = h.incs := by unfold Hw.modStream; split <;> rfl
@[simp] theorem Hw.modStream_groups (h : Hw) (c : Nat) (f : Stream → Stream) : (h.modStream c f).groups = h.groups := by unfold Hw.modStream; split <;> rfl
@[simp] theorem Hw.modStream_cat (h : Hw) (c : Nat) (f : Stream → Stream) : (h.modStream c f).cat = h.cat := by unfold Hw.modStream; split <;> rfl
@[simp] theorem Hw.modStream_mem (h : Hw) (c : Nat) (f : Stream → Stream) : (h.modStream c f).mem = h.mem := by unfold Hw.modStream; split <;> rfl
@[simp] theorem Hw.modStream_eng (h : Hw) (c : Nat) (f : Stream → Stream) : (h.modStream c f).eng = h.eng := by unfold Hw.modStream; split <;> rfl
@[simp] theorem Hw.modStream_ports (h : Hw) (c : Nat) (f : Stream → Stream) : (h.modStream c f).ports = h.ports := by unfold Hw.modStream; split <;> rfl
@[simp] theorem Hw.modStream_war (h : Hw) (c : Nat) (f : Stream → Stream) : (h.modStream c f).war = h.war := by unfold Hw.modStream; split <;> rfl
@[simp] theorem Hw.modStream_log (h : Hw) (c : Nat) (f : Stream → Stream) : (h.modStream c f).log = h.log := by unfold Hw.modStream; split <;> rfl
@[simp] theorem Hw.modStream_snap (h : Hw) (c : Nat) (f : Stream → Stream) : (h.modStream c f).snap = h.snap := by unfold Hw.modStream; split <;> rfl
@[simp] theorem Hw.modStream_cnt (h : Hw) (c : Nat) (f : Stream → Stream) : (h.modStream c f).cnt = h.cnt := by unfold Hw.modStream; split <;> rfl
@[simp] theorem Hw.modStream_fm (h : Hw) (c : Nat) (f : Stream → Stream) : (h.modStream c f).fm = h.fm := by unfold Hw.modStream; split <;> rfl
@[simp] theorem Hw.modStream_ts (h : Hw) (c : Nat) (f : Stream → Stream) : (h.modStream c f).ts = h.ts := by unfold Hw.modStream; split <;> rfl
@[simp] theorem Hw.modStream_sec (h : Hw) (c : Nat) (f : Stream → Stream) : (h.modStream c f).sec = h.sec := by unfold Hw.modStream; split <;> rfl
@[simp] theorem Hw.modStream_free (h : Hw) (c : Nat) (f : Stream → Stream) : (h.modStream c f).free = h.free := by unfold Hw.modStream; split <;> rfl
@[simp] theorem Hw.modStream_picks (h : Hw) (c : Nat) (f : Stream → Stream) : (h.modStream c f).picks = h.picks := by unfold Hw.modStream; split <;> rfl

/-! #### Hw.setVslot -/

@[simp] theorem Hw.setVslot_pwr (h : Hw) (trunk : Bool) (idx slot : Nat) (x : VSlot) : (h.setVslot trunk idx slot x).pwr = h.pwr := by unfold Hw.setVslot; split <;> rfl
@[simp] theorem Hw.setVslot_ex (h : Hw) (trunk : Bool) (idx slot : Nat) (x : VSlot) : (h.setVslot trunk idx slot x).ex = h.ex := by unfold Hw.setVslot; split <;> rfl
@[simp] theorem Hw.setVslot_latches (h : Hw) (trunk : Bool) (idx slot : Nat) (x : VSlot) : (h.setVslot trunk idx slot x).latches = h.latches := by unfold Hw.setVslot; split <;> rfl
@[simp] theorem Hw.setVslot_pwrCap (h : Hw) (trunk : Bool) (idx slot : Nat) (x : VSlot) : (h.setVslot trunk idx slot x).pwrCap = h.pwrCap := by unfold Hw.setVslot; split <;> rfl
@[simp] theorem Hw.setVslot_pwrCapNow (h : Hw) (trunk : Bool) (idx slot : Nat) (x : VSlot) : (h.setVslot trunk idx slot x).pwrCapNow = h.pwrCapNow := by unfold Hw.setVslot; split <;> rfl
@[simp] theorem Hw.setVslot_qs (h : Hw) (trunk : Bool) (idx slot : Nat) (x : VSlot) : (h.setVslot trunk idx slot x).qs = h.qs := by unfold Hw.setVslot; split <;> rfl
@[simp] theorem Hw.setVslot_msix (h : Hw) (trunk : Bool) (idx slot : Nat) (x : VSlot) : (h.setVslot trunk idx slot x).msix = h.msix := by unfold Hw.setVslot; split <;> rfl
@[simp] theorem Hw.setVslot_link (h : Hw) (trunk : Bool) (idx slot : Nat) (x : VSlot) : (h.setVslot trunk idx slot x).link = h.link := by unfold Hw.setVslot; split <;> rfl
@[simp] theorem Hw.setVslot_rings (h : Hw) (trunk : Bool) (idx slot : Nat) (x : VSlot) : (h.setVslot trunk idx slot x).rings = h.rings := by unfold Hw.setVslot; split <;> rfl
@[simp] theorem Hw.setVslot_streams (h : Hw) (trunk : Bool) (idx slot : Nat) (x : VSlot) : (h.setVslot trunk idx slot x).streams = h.streams := by unfold Hw.setVslot; split <;> rfl
@[simp] theorem Hw.setVslot_incs (h : Hw) (trunk : Bool) (idx slot : Nat) (x : VSlot) : (h.setVslot trunk idx slot x).incs = h.incs := by unfold Hw.setVslot; split <;> rfl
@[simp] theorem Hw.setVslot_groups (h : Hw) (trunk : Bool) (idx slot : Nat) (x : VSlot) : (h.setVslot trunk idx slot x).groups = h.groups := by unfold Hw.setVslot; split <;> rfl
@[simp] theorem Hw.setVslot_mem (h : Hw) (trunk : Bool) (idx slot : Nat) (x : VSlot) : (h.setVslot trunk idx slot x).mem = h.mem := by unfold Hw.setVslot; split <;> rfl
@[simp] theorem Hw.setVslot_eng (h : Hw) (trunk : Bool) (idx slot : Nat) (x : VSlot) : (h.setVslot trunk idx slot x).eng = h.eng := by unfold Hw.setVslot; split <;> rfl
@[simp] theorem Hw.setVslot_ports (h : Hw) (trunk : Bool) (idx slot : Nat) (x : VSlot) : (h.setVslot trunk idx slot x).ports = h.ports := by unfold Hw.setVslot; split <;> rfl
@[simp] theorem Hw.setVslot_war (h : Hw) (trunk : Bool) (idx slot : Nat) (x : VSlot) : (h.setVslot trunk idx slot x).war = h.war := by unfold Hw.setVslot; split <;> rfl
@[simp] theorem Hw.setVslot_log (h : Hw) (trunk : Bool) (idx slot : Nat) (x : VSlot) : (h.setVslot trunk idx slot x).log = h.log := by unfold Hw.setVslot; split <;> rfl
@[simp] theorem Hw.setVslot_snap (h : Hw) (trunk : Bool) (idx slot : Nat) (x : VSlot) : (h.setVslot trunk idx slot x).snap = h.snap := by unfold Hw.setVslot; split <;> rfl
@[simp] theorem Hw.setVslot_cnt (h : Hw) (trunk : Bool) (idx slot : Nat) (x : VSlot) : (h.setVslot trunk idx slot x).cnt = h.cnt := by unfold Hw.setVslot; split <;> rfl
@[simp] theorem Hw.setVslot_fm (h : Hw) (trunk : Bool) (idx slot : Nat) (x : VSlot) : (h.setVslot trunk idx slot x).fm = h.fm := by unfold Hw.setVslot; split <;> rfl
@[simp] theorem Hw.setVslot_ts (h : Hw) (trunk : Bool) (idx slot : Nat) (x : VSlot) : (h.setVslot trunk idx slot x).ts = h.ts := by unfold Hw.setVslot; split <;> rfl
@[simp] theorem Hw.setVslot_sec (h : Hw) (trunk : Bool) (idx slot : Nat) (x : VSlot) : (h.setVslot trunk idx slot x).sec = h.sec := by unfold Hw.setVslot; split <;> rfl
@[simp] theorem Hw.setVslot_free (h : Hw) (trunk : Bool) (idx slot : Nat) (x : VSlot) : (h.setVslot trunk idx slot x).free = h.free := by unfold Hw.setVslot; split <;> rfl
@[simp] theorem Hw.setVslot_picks (h : Hw) (trunk : Bool) (idx slot : Nat) (x : VSlot) : (h.setVslot trunk idx slot x).picks = h.picks := by unfold Hw.setVslot; split <;> rfl

/-! #### Hw.addRef -/

@[simp] theorem Hw.addRef_pwr (h : Hw) (trunk : Bool) (idx slot : Nat) : (h.addRef trunk idx slot).pwr = h.pwr := by simp [Hw.addRef]
@[simp] theorem Hw.addRef_ex (h : Hw) (trunk : Bool) (idx slot : Nat) : (h.addRef trunk idx slot).ex = h.ex := by simp [Hw.addRef]
@[simp] theorem Hw.addRef_latches (h : Hw) (trunk : Bool) (idx slot : Nat) : (h.addRef trunk idx slot).latches = h.latches := by simp [Hw.addRef]
@[simp] theorem Hw.addRef_pwrCap (h : Hw) (trunk : Bool) (idx slot : Nat) : (h.addRef trunk idx slot).pwrCap = h.pwrCap := by simp [Hw.addRef]
@[simp] theorem Hw.addRef_pwrCapNow (h : Hw) (trunk : Bool) (idx slot : Nat) : (h.addRef trunk idx slot).pwrCapNow = h.pwrCapNow := by simp [Hw.addRef]
@[simp] theorem Hw.addRef_qs (h : Hw) (trunk : Bool) (idx slot : Nat) : (h.addRef trunk idx slot).qs = h.qs := by simp [Hw.addRef]
@[simp] theorem Hw.addRef_msix (h : Hw) (trunk : Bool) (idx slot : Nat) : (h.addRef trunk idx slot).msix = h.msix := by simp [Hw.addRef]
@[simp] theorem Hw.addRef_link (h : Hw) (trunk : Bool) (idx slot : Nat) : (h.addRef trunk idx slot).link = h.link := by simp [Hw.addRef]
@[simp] theorem Hw.addRef_rings (h : Hw) (trunk : Bool) (idx slot : Nat) : (h.addRef trunk idx slot).rings = h.rings := by simp [Hw.addRef]
@[simp] theorem Hw.addRef_streams (h : Hw) (trunk : Bool) (idx slot : Nat) : (h.addRef trunk idx slot).streams = h.streams := by simp [Hw.addRef]
@[simp] theorem Hw.addRef_incs (h : Hw) (trunk : Bool) (idx slot : Nat) : (h.addRef trunk idx slot).incs = h.incs := by simp [Hw.addRef]
@[simp] theorem Hw.addRef_groups (h : Hw) (trunk : Bool) (idx slot : Nat) : (h.addRef trunk idx slot).groups = h.groups := by simp [Hw.addRef]
@[simp] theorem Hw.addRef_mem (h : Hw) (trunk : Bool) (idx slot : Nat) : (h.addRef trunk idx slot).mem = h.mem := by simp [Hw.addRef]
@[simp] theorem Hw.addRef_eng (h : Hw) (trunk : Bool) (idx slot : Nat) : (h.addRef trunk idx slot).eng = h.eng := by simp [Hw.addRef]
@[simp] theorem Hw.addRef_ports (h : Hw) (trunk : Bool) (idx slot : Nat) : (h.addRef trunk idx slot).ports = h.ports := by simp [Hw.addRef]
@[simp] theorem Hw.addRef_war (h : Hw) (trunk : Bool) (idx slot : Nat) : (h.addRef trunk idx slot).war = h.war := by simp [Hw.addRef]
@[simp] theorem Hw.addRef_log (h : Hw) (trunk : Bool) (idx slot : Nat) : (h.addRef trunk idx slot).log = h.log := by simp [Hw.addRef]
@[simp] theorem Hw.addRef_snap (h : Hw) (trunk : Bool) (idx slot : Nat) : (h.addRef trunk idx slot).snap = h.snap := by simp [Hw.addRef]
@[simp] theorem Hw.addRef_cnt (h : Hw) (trunk : Bool) (idx slot : Nat) : (h.addRef trunk idx slot).cnt = h.cnt := by simp [Hw.addRef]
@[simp] theorem Hw.addRef_fm (h : Hw) (trunk : Bool) (idx slot : Nat) : (h.addRef trunk idx slot).fm = h.fm := by simp [Hw.addRef]
@[simp] theorem Hw.addRef_ts (h : Hw) (trunk : Bool) (idx slot : Nat) : (h.addRef trunk idx slot).ts = h.ts := by simp [Hw.addRef]
@[simp] theorem Hw.addRef_sec (h : Hw) (trunk : Bool) (idx slot : Nat) : (h.addRef trunk idx slot).sec = h.sec := by simp [Hw.addRef]
@[simp] theorem Hw.addRef_free (h : Hw) (trunk : Bool) (idx slot : Nat) : (h.addRef trunk idx slot).free = h.free := by simp [Hw.addRef]
@[simp] theorem Hw.addRef_picks (h : Hw) (trunk : Bool) (idx slot : Nat) : (h.addRef trunk idx slot).picks = h.picks := by simp [Hw.addRef]

/-! #### Hw.dropRef -/

@[simp] theorem Hw.dropRef_pwr (h : Hw) (trunk : Bool) (idx slot : Nat) : (h.dropRef trunk idx slot).pwr = h.pwr := by simp [Hw.dropRef]
@[simp] theorem Hw.dropRef_ex (h : Hw) (trunk : Bool) (idx slot : Nat) : (h.dropRef trunk idx slot).ex = h.ex := by simp [Hw.dropRef]
@[simp] theorem Hw.dropRef_latches (h : Hw) (trunk : Bool) (idx slot : Nat) : (h.dropRef trunk idx slot).latches = h.latches := by simp [Hw.dropRef]
@[simp] theorem Hw.dropRef_pwrCap (h : Hw) (trunk : Bool) (idx slot : Nat) : (h.dropRef trunk idx slot).pwrCap = h.pwrCap := by simp [Hw.dropRef]
@[simp] theorem Hw.dropRef_pwrCapNow (h : Hw) (trunk : Bool) (idx slot : Nat) : (h.dropRef trunk idx slot).pwrCapNow = h.pwrCapNow := by simp [Hw.dropRef]
@[simp] theorem Hw.dropRef_qs (h : Hw) (trunk : Bool) (idx slot : Nat) : (h.dropRef trunk idx slot).qs = h.qs := by simp [Hw.dropRef]
@[simp] theorem Hw.dropRef_msix (h : Hw) (trunk : Bool) (idx slot : Nat) : (h.dropRef trunk idx slot).msix = h.msix := by simp [Hw.dropRef]
@[simp] theorem Hw.dropRef_link (h : Hw) (trunk : Bool) (idx slot : Nat) : (h.dropRef trunk idx slot).link = h.link := by simp [Hw.dropRef]
@[simp] theorem Hw.dropRef_rings (h : Hw) (trunk : Bool) (idx slot : Nat) : (h.dropRef trunk idx slot).rings = h.rings := by simp [Hw.dropRef]
@[simp] theorem Hw.dropRef_streams (h : Hw) (trunk : Bool) (idx slot : Nat) : (h.dropRef trunk idx slot).streams = h.streams := by simp [Hw.dropRef]
@[simp] theorem Hw.dropRef_incs (h : Hw) (trunk : Bool) (idx slot : Nat) : (h.dropRef trunk idx slot).incs = h.incs := by simp [Hw.dropRef]
@[simp] theorem Hw.dropRef_groups (h : Hw) (trunk : Bool) (idx slot : Nat) : (h.dropRef trunk idx slot).groups = h.groups := by simp [Hw.dropRef]
@[simp] theorem Hw.dropRef_mem (h : Hw) (trunk : Bool) (idx slot : Nat) : (h.dropRef trunk idx slot).mem = h.mem := by simp [Hw.dropRef]
@[simp] theorem Hw.dropRef_eng (h : Hw) (trunk : Bool) (idx slot : Nat) : (h.dropRef trunk idx slot).eng = h.eng := by simp [Hw.dropRef]
@[simp] theorem Hw.dropRef_ports (h : Hw) (trunk : Bool) (idx slot : Nat) : (h.dropRef trunk idx slot).ports = h.ports := by simp [Hw.dropRef]
@[simp] theorem Hw.dropRef_war (h : Hw) (trunk : Bool) (idx slot : Nat) : (h.dropRef trunk idx slot).war = h.war := by simp [Hw.dropRef]
@[simp] theorem Hw.dropRef_log (h : Hw) (trunk : Bool) (idx slot : Nat) : (h.dropRef trunk idx slot).log = h.log := by simp [Hw.dropRef]
@[simp] theorem Hw.dropRef_snap (h : Hw) (trunk : Bool) (idx slot : Nat) : (h.dropRef trunk idx slot).snap = h.snap := by simp [Hw.dropRef]
@[simp] theorem Hw.dropRef_cnt (h : Hw) (trunk : Bool) (idx slot : Nat) : (h.dropRef trunk idx slot).cnt = h.cnt := by simp [Hw.dropRef]
@[simp] theorem Hw.dropRef_fm (h : Hw) (trunk : Bool) (idx slot : Nat) : (h.dropRef trunk idx slot).fm = h.fm := by simp [Hw.dropRef]
@[simp] theorem Hw.dropRef_ts (h : Hw) (trunk : Bool) (idx slot : Nat) : (h.dropRef trunk idx slot).ts = h.ts := by simp [Hw.dropRef]
@[simp] theorem Hw.dropRef_sec (h : Hw) (trunk : Bool) (idx slot : Nat) : (h.dropRef trunk idx slot).sec = h.sec := by simp [Hw.dropRef]
@[simp] theorem Hw.dropRef_free (h : Hw) (trunk : Bool) (idx slot : Nat) : (h.dropRef trunk idx slot).free = h.free := by simp [Hw.dropRef]
@[simp] theorem Hw.dropRef_picks (h : Hw) (trunk : Bool) (idx slot : Nat) : (h.dropRef trunk idx slot).picks = h.picks := by simp [Hw.dropRef]

/-! #### Hw.raise -/

@[simp] theorem Hw.raise_pwr (h : Hw) (v : Nat) : (h.raise v).pwr = h.pwr := by unfold Hw.raise; split <;> rfl
@[simp] theorem Hw.raise_ex (h : Hw) (v : Nat) : (h.raise v).ex = h.ex := by unfold Hw.raise; split <;> rfl
@[simp] theorem Hw.raise_latches (h : Hw) (v : Nat) : (h.raise v).latches = h.latches := by unfold Hw.raise; split <;> rfl
@[simp] theorem Hw.raise_pwrCap (h : Hw) (v : Nat) : (h.raise v).pwrCap = h.pwrCap := by unfold Hw.raise; split <;> rfl
@[simp] theorem Hw.raise_pwrCapNow (h : Hw) (v : Nat) : (h.raise v).pwrCapNow = h.pwrCapNow := by unfold Hw.raise; split <;> rfl
@[simp] theorem Hw.raise_qs (h : Hw) (v : Nat) : (h.raise v).qs = h.qs := by unfold Hw.raise; split <;> rfl
@[simp] theorem Hw.raise_msix (h : Hw) (v : Nat) : (h.raise v).msix = h.msix := by unfold Hw.raise; split <;> rfl
@[simp] theorem Hw.raise_rings (h : Hw) (v : Nat) : (h.raise v).rings = h.rings := by unfold Hw.raise; split <;> rfl
@[simp] theorem Hw.raise_streams (h : Hw) (v : Nat) : (h.raise v).streams = h.streams := by unfold Hw.raise; split <;> rfl
@[simp] theorem Hw.raise_incs (h : Hw) (v : Nat) : (h.raise v).incs = h.incs := by unfold Hw.raise; split <;> rfl
@[simp] theorem Hw.raise_groups (h : Hw) (v : Nat) : (h.raise v).groups = h.groups := by unfold Hw.raise; split <;> rfl
@[simp] theorem Hw.raise_cat (h : Hw) (v : Nat) : (h.raise v).cat = h.cat := by unfold Hw.raise; split <;> rfl
@[simp] theorem Hw.raise_mem (h : Hw) (v : Nat) : (h.raise v).mem = h.mem := by unfold Hw.raise; split <;> rfl
@[simp] theorem Hw.raise_eng (h : Hw) (v : Nat) : (h.raise v).eng = h.eng := by unfold Hw.raise; split <;> rfl
@[simp] theorem Hw.raise_ports (h : Hw) (v : Nat) : (h.raise v).ports = h.ports := by unfold Hw.raise; split <;> rfl
@[simp] theorem Hw.raise_war (h : Hw) (v : Nat) : (h.raise v).war = h.war := by unfold Hw.raise; split <;> rfl
@[simp] theorem Hw.raise_log (h : Hw) (v : Nat) : (h.raise v).log = h.log := by unfold Hw.raise; split <;> rfl
@[simp] theorem Hw.raise_snap (h : Hw) (v : Nat) : (h.raise v).snap = h.snap := by unfold Hw.raise; split <;> rfl
@[simp] theorem Hw.raise_cnt (h : Hw) (v : Nat) : (h.raise v).cnt = h.cnt := by unfold Hw.raise; split <;> rfl
@[simp] theorem Hw.raise_fm (h : Hw) (v : Nat) : (h.raise v).fm = h.fm := by unfold Hw.raise; split <;> rfl
@[simp] theorem Hw.raise_ts (h : Hw) (v : Nat) : (h.raise v).ts = h.ts := by unfold Hw.raise; split <;> rfl
@[simp] theorem Hw.raise_sec (h : Hw) (v : Nat) : (h.raise v).sec = h.sec := by unfold Hw.raise; split <;> rfl
@[simp] theorem Hw.raise_free (h : Hw) (v : Nat) : (h.raise v).free = h.free := by unfold Hw.raise; split <;> rfl
@[simp] theorem Hw.raise_picks (h : Hw) (v : Nat) : (h.raise v).picks = h.picks := by unfold Hw.raise; split <;> rfl

/-! #### Hw.post -/

@[simp] theorem Hw.post_pwr (h : Hw) (w : HostWrite) : (h.post w).pwr = h.pwr := by unfold Hw.post; split <;> rfl
@[simp] theorem Hw.post_ex (h : Hw) (w : HostWrite) : (h.post w).ex = h.ex := by unfold Hw.post; split <;> rfl
@[simp] theorem Hw.post_latches (h : Hw) (w : HostWrite) : (h.post w).latches = h.latches := by unfold Hw.post; split <;> rfl
@[simp] theorem Hw.post_pwrCap (h : Hw) (w : HostWrite) : (h.post w).pwrCap = h.pwrCap := by unfold Hw.post; split <;> rfl
@[simp] theorem Hw.post_pwrCapNow (h : Hw) (w : HostWrite) : (h.post w).pwrCapNow = h.pwrCapNow := by unfold Hw.post; split <;> rfl
@[simp] theorem Hw.post_qs (h : Hw) (w : HostWrite) : (h.post w).qs = h.qs := by unfold Hw.post; split <;> rfl
@[simp] theorem Hw.post_msix (h : Hw) (w : HostWrite) : (h.post w).msix = h.msix := by unfold Hw.post; split <;> rfl
@[simp] theorem Hw.post_rings (h : Hw) (w : HostWrite) : (h.post w).rings = h.rings := by unfold Hw.post; split <;> rfl
@[simp] theorem Hw.post_streams (h : Hw) (w : HostWrite) : (h.post w).streams = h.streams := by unfold Hw.post; split <;> rfl
@[simp] theorem Hw.post_incs (h : Hw) (w : HostWrite) : (h.post w).incs = h.incs := by unfold Hw.post; split <;> rfl
@[simp] theorem Hw.post_groups (h : Hw) (w : HostWrite) : (h.post w).groups = h.groups := by unfold Hw.post; split <;> rfl
@[simp] theorem Hw.post_cat (h : Hw) (w : HostWrite) : (h.post w).cat = h.cat := by unfold Hw.post; split <;> rfl
@[simp] theorem Hw.post_mem (h : Hw) (w : HostWrite) : (h.post w).mem = h.mem := by unfold Hw.post; split <;> rfl
@[simp] theorem Hw.post_eng (h : Hw) (w : HostWrite) : (h.post w).eng = h.eng := by unfold Hw.post; split <;> rfl
@[simp] theorem Hw.post_ports (h : Hw) (w : HostWrite) : (h.post w).ports = h.ports := by unfold Hw.post; split <;> rfl
@[simp] theorem Hw.post_war (h : Hw) (w : HostWrite) : (h.post w).war = h.war := by unfold Hw.post; split <;> rfl
@[simp] theorem Hw.post_log (h : Hw) (w : HostWrite) : (h.post w).log = h.log := by unfold Hw.post; split <;> rfl
@[simp] theorem Hw.post_snap (h : Hw) (w : HostWrite) : (h.post w).snap = h.snap := by unfold Hw.post; split <;> rfl
@[simp] theorem Hw.post_cnt (h : Hw) (w : HostWrite) : (h.post w).cnt = h.cnt := by unfold Hw.post; split <;> rfl
@[simp] theorem Hw.post_fm (h : Hw) (w : HostWrite) : (h.post w).fm = h.fm := by unfold Hw.post; split <;> rfl
@[simp] theorem Hw.post_ts (h : Hw) (w : HostWrite) : (h.post w).ts = h.ts := by unfold Hw.post; split <;> rfl
@[simp] theorem Hw.post_sec (h : Hw) (w : HostWrite) : (h.post w).sec = h.sec := by unfold Hw.post; split <;> rfl
@[simp] theorem Hw.post_free (h : Hw) (w : HostWrite) : (h.post w).free = h.free := by unfold Hw.post; split <;> rfl
@[simp] theorem Hw.post_picks (h : Hw) (w : HostWrite) : (h.post w).picks = h.picks := by unfold Hw.post; split <;> rfl

/-! #### Hw.note -/

@[simp] theorem Hw.note_pwr (h : Hw) (e : LogEntry) : (h.note e).pwr = h.pwr := by unfold Hw.note; split <;> simp
@[simp] theorem Hw.note_ex (h : Hw) (e : LogEntry) : (h.note e).ex = h.ex := by unfold Hw.note; split <;> simp
@[simp] theorem Hw.note_latches (h : Hw) (e : LogEntry) : (h.note e).latches = h.latches := by unfold Hw.note; split <;> simp
@[simp] theorem Hw.note_pwrCap (h : Hw) (e : LogEntry) : (h.note e).pwrCap = h.pwrCap := by unfold Hw.note; split <;> simp
@[simp] theorem Hw.note_pwrCapNow (h : Hw) (e : LogEntry) : (h.note e).pwrCapNow = h.pwrCapNow := by unfold Hw.note; split <;> simp
@[simp] theorem Hw.note_qs (h : Hw) (e : LogEntry) : (h.note e).qs = h.qs := by unfold Hw.note; split <;> simp
@[simp] theorem Hw.note_msix (h : Hw) (e : LogEntry) : (h.note e).msix = h.msix := by unfold Hw.note; split <;> simp
@[simp] theorem Hw.note_rings (h : Hw) (e : LogEntry) : (h.note e).rings = h.rings := by unfold Hw.note; split <;> simp
@[simp] theorem Hw.note_streams (h : Hw) (e : LogEntry) : (h.note e).streams = h.streams := by unfold Hw.note; split <;> simp
@[simp] theorem Hw.note_incs (h : Hw) (e : LogEntry) : (h.note e).incs = h.incs := by unfold Hw.note; split <;> simp
@[simp] theorem Hw.note_groups (h : Hw) (e : LogEntry) : (h.note e).groups = h.groups := by unfold Hw.note; split <;> simp
@[simp] theorem Hw.note_cat (h : Hw) (e : LogEntry) : (h.note e).cat = h.cat := by unfold Hw.note; split <;> simp
@[simp] theorem Hw.note_mem (h : Hw) (e : LogEntry) : (h.note e).mem = h.mem := by unfold Hw.note; split <;> simp
@[simp] theorem Hw.note_eng (h : Hw) (e : LogEntry) : (h.note e).eng = h.eng := by unfold Hw.note; split <;> simp
@[simp] theorem Hw.note_ports (h : Hw) (e : LogEntry) : (h.note e).ports = h.ports := by unfold Hw.note; split <;> simp
@[simp] theorem Hw.note_war (h : Hw) (e : LogEntry) : (h.note e).war = h.war := by unfold Hw.note; split <;> simp
@[simp] theorem Hw.note_snap (h : Hw) (e : LogEntry) : (h.note e).snap = h.snap := by unfold Hw.note; split <;> simp
@[simp] theorem Hw.note_cnt (h : Hw) (e : LogEntry) : (h.note e).cnt = h.cnt := by unfold Hw.note; split <;> simp
@[simp] theorem Hw.note_fm (h : Hw) (e : LogEntry) : (h.note e).fm = h.fm := by unfold Hw.note; split <;> simp
@[simp] theorem Hw.note_ts (h : Hw) (e : LogEntry) : (h.note e).ts = h.ts := by unfold Hw.note; split <;> simp
@[simp] theorem Hw.note_sec (h : Hw) (e : LogEntry) : (h.note e).sec = h.sec := by unfold Hw.note; split <;> simp
@[simp] theorem Hw.note_free (h : Hw) (e : LogEntry) : (h.note e).free = h.free := by unfold Hw.note; split <;> simp
@[simp] theorem Hw.note_picks (h : Hw) (e : LogEntry) : (h.note e).picks = h.picks := by unfold Hw.note; split <;> simp

/-! #### Hw.refused -/

@[simp] theorem Hw.refused_pwr (h : Hw) (what : Nat) : (h.refused what).pwr = h.pwr := by simp [Hw.refused]
@[simp] theorem Hw.refused_ex (h : Hw) (what : Nat) : (h.refused what).ex = h.ex := by simp [Hw.refused]
@[simp] theorem Hw.refused_latches (h : Hw) (what : Nat) : (h.refused what).latches = h.latches := by simp [Hw.refused]
@[simp] theorem Hw.refused_pwrCap (h : Hw) (what : Nat) : (h.refused what).pwrCap = h.pwrCap := by simp [Hw.refused]
@[simp] theorem Hw.refused_pwrCapNow (h : Hw) (what : Nat) : (h.refused what).pwrCapNow = h.pwrCapNow := by simp [Hw.refused]
@[simp] theorem Hw.refused_qs (h : Hw) (what : Nat) : (h.refused what).qs = h.qs := by simp [Hw.refused]
@[simp] theorem Hw.refused_msix (h : Hw) (what : Nat) : (h.refused what).msix = h.msix := by simp [Hw.refused]
@[simp] theorem Hw.refused_rings (h : Hw) (what : Nat) : (h.refused what).rings = h.rings := by simp [Hw.refused]
@[simp] theorem Hw.refused_streams (h : Hw) (what : Nat) : (h.refused what).streams = h.streams := by simp [Hw.refused]
@[simp] theorem Hw.refused_incs (h : Hw) (what : Nat) : (h.refused what).incs = h.incs := by simp [Hw.refused]
@[simp] theorem Hw.refused_groups (h : Hw) (what : Nat) : (h.refused what).groups = h.groups := by simp [Hw.refused]
@[simp] theorem Hw.refused_cat (h : Hw) (what : Nat) : (h.refused what).cat = h.cat := by simp [Hw.refused]
@[simp] theorem Hw.refused_mem (h : Hw) (what : Nat) : (h.refused what).mem = h.mem := by simp [Hw.refused]
@[simp] theorem Hw.refused_eng (h : Hw) (what : Nat) : (h.refused what).eng = h.eng := by simp [Hw.refused]
@[simp] theorem Hw.refused_ports (h : Hw) (what : Nat) : (h.refused what).ports = h.ports := by simp [Hw.refused]
@[simp] theorem Hw.refused_war (h : Hw) (what : Nat) : (h.refused what).war = h.war := by simp [Hw.refused]
@[simp] theorem Hw.refused_snap (h : Hw) (what : Nat) : (h.refused what).snap = h.snap := by simp [Hw.refused]
@[simp] theorem Hw.refused_cnt (h : Hw) (what : Nat) : (h.refused what).cnt = h.cnt := by simp [Hw.refused]
@[simp] theorem Hw.refused_fm (h : Hw) (what : Nat) : (h.refused what).fm = h.fm := by simp [Hw.refused]
@[simp] theorem Hw.refused_ts (h : Hw) (what : Nat) : (h.refused what).ts = h.ts := by simp [Hw.refused]
@[simp] theorem Hw.refused_sec (h : Hw) (what : Nat) : (h.refused what).sec = h.sec := by simp [Hw.refused]
@[simp] theorem Hw.refused_free (h : Hw) (what : Nat) : (h.refused what).free = h.free := by simp [Hw.refused]
@[simp] theorem Hw.refused_picks (h : Hw) (what : Nat) : (h.refused what).picks = h.picks := by simp [Hw.refused]

/-! #### Hw.flushDrops -/

@[simp] theorem Hw.flushDrops_pwr (h : Hw) : (h.flushDrops).pwr = h.pwr := by unfold Hw.flushDrops; split <;> simp
@[simp] theorem Hw.flushDrops_ex (h : Hw) : (h.flushDrops).ex = h.ex := by unfold Hw.flushDrops; split <;> simp
@[simp] theorem Hw.flushDrops_latches (h : Hw) : (h.flushDrops).latches = h.latches := by unfold Hw.flushDrops; split <;> simp
@[simp] theorem Hw.flushDrops_pwrCap (h : Hw) : (h.flushDrops).pwrCap = h.pwrCap := by unfold Hw.flushDrops; split <;> simp
@[simp] theorem Hw.flushDrops_pwrCapNow (h : Hw) : (h.flushDrops).pwrCapNow = h.pwrCapNow := by unfold Hw.flushDrops; split <;> simp
@[simp] theorem Hw.flushDrops_qs (h : Hw) : (h.flushDrops).qs = h.qs := by unfold Hw.flushDrops; split <;> simp
@[simp] theorem Hw.flushDrops_msix (h : Hw) : (h.flushDrops).msix = h.msix := by unfold Hw.flushDrops; split <;> simp
@[simp] theorem Hw.flushDrops_rings (h : Hw) : (h.flushDrops).rings = h.rings := by unfold Hw.flushDrops; split <;> simp
@[simp] theorem Hw.flushDrops_streams (h : Hw) : (h.flushDrops).streams = h.streams := by unfold Hw.flushDrops; split <;> simp
@[simp] theorem Hw.flushDrops_incs (h : Hw) : (h.flushDrops).incs = h.incs := by unfold Hw.flushDrops; split <;> simp
@[simp] theorem Hw.flushDrops_groups (h : Hw) : (h.flushDrops).groups = h.groups := by unfold Hw.flushDrops; split <;> simp
@[simp] theorem Hw.flushDrops_cat (h : Hw) : (h.flushDrops).cat = h.cat := by unfold Hw.flushDrops; split <;> simp
@[simp] theorem Hw.flushDrops_mem (h : Hw) : (h.flushDrops).mem = h.mem := by unfold Hw.flushDrops; split <;> simp
@[simp] theorem Hw.flushDrops_eng (h : Hw) : (h.flushDrops).eng = h.eng := by unfold Hw.flushDrops; split <;> simp
@[simp] theorem Hw.flushDrops_ports (h : Hw) : (h.flushDrops).ports = h.ports := by unfold Hw.flushDrops; split <;> simp
@[simp] theorem Hw.flushDrops_war (h : Hw) : (h.flushDrops).war = h.war := by unfold Hw.flushDrops; split <;> simp
@[simp] theorem Hw.flushDrops_snap (h : Hw) : (h.flushDrops).snap = h.snap := by unfold Hw.flushDrops; split <;> simp
@[simp] theorem Hw.flushDrops_cnt (h : Hw) : (h.flushDrops).cnt = h.cnt := by unfold Hw.flushDrops; split <;> simp
@[simp] theorem Hw.flushDrops_fm (h : Hw) : (h.flushDrops).fm = h.fm := by unfold Hw.flushDrops; split <;> simp
@[simp] theorem Hw.flushDrops_ts (h : Hw) : (h.flushDrops).ts = h.ts := by unfold Hw.flushDrops; split <;> simp
@[simp] theorem Hw.flushDrops_sec (h : Hw) : (h.flushDrops).sec = h.sec := by unfold Hw.flushDrops; split <;> simp
@[simp] theorem Hw.flushDrops_free (h : Hw) : (h.flushDrops).free = h.free := by unfold Hw.flushDrops; split <;> simp
@[simp] theorem Hw.flushDrops_picks (h : Hw) : (h.flushDrops).picks = h.picks := by unfold Hw.flushDrops; split <;> simp

/-! #### Hw.setMode -/

@[simp] theorem Hw.setMode_pwr (h : Hw) (m : DevMode) (cause : Nat) : (h.setMode m cause).pwr = h.pwr := by unfold Hw.setMode; split <;> simp
@[simp] theorem Hw.setMode_latches (h : Hw) (m : DevMode) (cause : Nat) : (h.setMode m cause).latches = h.latches := by unfold Hw.setMode; split <;> simp
@[simp] theorem Hw.setMode_pwrCap (h : Hw) (m : DevMode) (cause : Nat) : (h.setMode m cause).pwrCap = h.pwrCap := by unfold Hw.setMode; split <;> simp
@[simp] theorem Hw.setMode_pwrCapNow (h : Hw) (m : DevMode) (cause : Nat) : (h.setMode m cause).pwrCapNow = h.pwrCapNow := by unfold Hw.setMode; split <;> simp
@[simp] theorem Hw.setMode_qs (h : Hw) (m : DevMode) (cause : Nat) : (h.setMode m cause).qs = h.qs := by unfold Hw.setMode; split <;> simp
@[simp] theorem Hw.setMode_msix (h : Hw) (m : DevMode) (cause : Nat) : (h.setMode m cause).msix = h.msix := by unfold Hw.setMode; split <;> simp
@[simp] theorem Hw.setMode_rings (h : Hw) (m : DevMode) (cause : Nat) : (h.setMode m cause).rings = h.rings := by unfold Hw.setMode; split <;> simp
@[simp] theorem Hw.setMode_streams (h : Hw) (m : DevMode) (cause : Nat) : (h.setMode m cause).streams = h.streams := by unfold Hw.setMode; split <;> simp
@[simp] theorem Hw.setMode_incs (h : Hw) (m : DevMode) (cause : Nat) : (h.setMode m cause).incs = h.incs := by unfold Hw.setMode; split <;> simp
@[simp] theorem Hw.setMode_groups (h : Hw) (m : DevMode) (cause : Nat) : (h.setMode m cause).groups = h.groups := by unfold Hw.setMode; split <;> simp
@[simp] theorem Hw.setMode_cat (h : Hw) (m : DevMode) (cause : Nat) : (h.setMode m cause).cat = h.cat := by unfold Hw.setMode; split <;> simp
@[simp] theorem Hw.setMode_mem (h : Hw) (m : DevMode) (cause : Nat) : (h.setMode m cause).mem = h.mem := by unfold Hw.setMode; split <;> simp
@[simp] theorem Hw.setMode_eng (h : Hw) (m : DevMode) (cause : Nat) : (h.setMode m cause).eng = h.eng := by unfold Hw.setMode; split <;> simp
@[simp] theorem Hw.setMode_ports (h : Hw) (m : DevMode) (cause : Nat) : (h.setMode m cause).ports = h.ports := by unfold Hw.setMode; split <;> simp
@[simp] theorem Hw.setMode_war (h : Hw) (m : DevMode) (cause : Nat) : (h.setMode m cause).war = h.war := by unfold Hw.setMode; split <;> simp
@[simp] theorem Hw.setMode_snap (h : Hw) (m : DevMode) (cause : Nat) : (h.setMode m cause).snap = h.snap := by unfold Hw.setMode; split <;> simp
@[simp] theorem Hw.setMode_cnt (h : Hw) (m : DevMode) (cause : Nat) : (h.setMode m cause).cnt = h.cnt := by unfold Hw.setMode; split <;> simp
@[simp] theorem Hw.setMode_fm (h : Hw) (m : DevMode) (cause : Nat) : (h.setMode m cause).fm = h.fm := by unfold Hw.setMode; split <;> simp
@[simp] theorem Hw.setMode_ts (h : Hw) (m : DevMode) (cause : Nat) : (h.setMode m cause).ts = h.ts := by unfold Hw.setMode; split <;> simp
@[simp] theorem Hw.setMode_sec (h : Hw) (m : DevMode) (cause : Nat) : (h.setMode m cause).sec = h.sec := by unfold Hw.setMode; split <;> simp
@[simp] theorem Hw.setMode_free (h : Hw) (m : DevMode) (cause : Nat) : (h.setMode m cause).free = h.free := by unfold Hw.setMode; split <;> simp
@[simp] theorem Hw.setMode_picks (h : Hw) (m : DevMode) (cause : Nat) : (h.setMode m cause).picks = h.picks := by unfold Hw.setMode; split <;> simp

/-! #### Hw.miss -/

@[simp] theorem Hw.miss_pwr (h : Hw) (c : Nat) (s : Stream) (reason count : Nat) (offset : Int) (index : W64) : (h.miss c s reason count offset index).pwr = h.pwr := by unfold Hw.miss; simp only []; split <;> rfl
@[simp] theorem Hw.miss_ex (h : Hw) (c : Nat) (s : Stream) (reason count : Nat) (offset : Int) (index : W64) : (h.miss c s reason count offset index).ex = h.ex := by unfold Hw.miss; simp only []; split <;> rfl
@[simp] theorem Hw.miss_latches (h : Hw) (c : Nat) (s : Stream) (reason count : Nat) (offset : Int) (index : W64) : (h.miss c s reason count offset index).latches = h.latches := by unfold Hw.miss; simp only []; split <;> rfl
@[simp] theorem Hw.miss_pwrCap (h : Hw) (c : Nat) (s : Stream) (reason count : Nat) (offset : Int) (index : W64) : (h.miss c s reason count offset index).pwrCap = h.pwrCap := by unfold Hw.miss; simp only []; split <;> rfl
@[simp] theorem Hw.miss_pwrCapNow (h : Hw) (c : Nat) (s : Stream) (reason count : Nat) (offset : Int) (index : W64) : (h.miss c s reason count offset index).pwrCapNow = h.pwrCapNow := by unfold Hw.miss; simp only []; split <;> rfl
@[simp] theorem Hw.miss_qs (h : Hw) (c : Nat) (s : Stream) (reason count : Nat) (offset : Int) (index : W64) : (h.miss c s reason count offset index).qs = h.qs := by unfold Hw.miss; simp only []; split <;> rfl
@[simp] theorem Hw.miss_msix (h : Hw) (c : Nat) (s : Stream) (reason count : Nat) (offset : Int) (index : W64) : (h.miss c s reason count offset index).msix = h.msix := by unfold Hw.miss; simp only []; split <;> rfl
@[simp] theorem Hw.miss_link (h : Hw) (c : Nat) (s : Stream) (reason count : Nat) (offset : Int) (index : W64) : (h.miss c s reason count offset index).link = h.link := by unfold Hw.miss; simp only []; split <;> rfl
@[simp] theorem Hw.miss_streams (h : Hw) (c : Nat) (s : Stream) (reason count : Nat) (offset : Int) (index : W64) : (h.miss c s reason count offset index).streams = h.streams := by unfold Hw.miss; simp only []; split <;> rfl
@[simp] theorem Hw.miss_incs (h : Hw) (c : Nat) (s : Stream) (reason count : Nat) (offset : Int) (index : W64) : (h.miss c s reason count offset index).incs = h.incs := by unfold Hw.miss; simp only []; split <;> rfl
@[simp] theorem Hw.miss_groups (h : Hw) (c : Nat) (s : Stream) (reason count : Nat) (offset : Int) (index : W64) : (h.miss c s reason count offset index).groups = h.groups := by unfold Hw.miss; simp only []; split <;> rfl
@[simp] theorem Hw.miss_cat (h : Hw) (c : Nat) (s : Stream) (reason count : Nat) (offset : Int) (index : W64) : (h.miss c s reason count offset index).cat = h.cat := by unfold Hw.miss; simp only []; split <;> rfl
@[simp] theorem Hw.miss_mem (h : Hw) (c : Nat) (s : Stream) (reason count : Nat) (offset : Int) (index : W64) : (h.miss c s reason count offset index).mem = h.mem := by unfold Hw.miss; simp only []; split <;> rfl
@[simp] theorem Hw.miss_eng (h : Hw) (c : Nat) (s : Stream) (reason count : Nat) (offset : Int) (index : W64) : (h.miss c s reason count offset index).eng = h.eng := by unfold Hw.miss; simp only []; split <;> rfl
@[simp] theorem Hw.miss_ports (h : Hw) (c : Nat) (s : Stream) (reason count : Nat) (offset : Int) (index : W64) : (h.miss c s reason count offset index).ports = h.ports := by unfold Hw.miss; simp only []; split <;> rfl
@[simp] theorem Hw.miss_war (h : Hw) (c : Nat) (s : Stream) (reason count : Nat) (offset : Int) (index : W64) : (h.miss c s reason count offset index).war = h.war := by unfold Hw.miss; simp only []; split <;> rfl
@[simp] theorem Hw.miss_log (h : Hw) (c : Nat) (s : Stream) (reason count : Nat) (offset : Int) (index : W64) : (h.miss c s reason count offset index).log = h.log := by unfold Hw.miss; simp only []; split <;> rfl
@[simp] theorem Hw.miss_snap (h : Hw) (c : Nat) (s : Stream) (reason count : Nat) (offset : Int) (index : W64) : (h.miss c s reason count offset index).snap = h.snap := by unfold Hw.miss; simp only []; split <;> rfl
@[simp] theorem Hw.miss_fm (h : Hw) (c : Nat) (s : Stream) (reason count : Nat) (offset : Int) (index : W64) : (h.miss c s reason count offset index).fm = h.fm := by unfold Hw.miss; simp only []; split <;> rfl
@[simp] theorem Hw.miss_ts (h : Hw) (c : Nat) (s : Stream) (reason count : Nat) (offset : Int) (index : W64) : (h.miss c s reason count offset index).ts = h.ts := by unfold Hw.miss; simp only []; split <;> rfl
@[simp] theorem Hw.miss_sec (h : Hw) (c : Nat) (s : Stream) (reason count : Nat) (offset : Int) (index : W64) : (h.miss c s reason count offset index).sec = h.sec := by unfold Hw.miss; simp only []; split <;> rfl
@[simp] theorem Hw.miss_free (h : Hw) (c : Nat) (s : Stream) (reason count : Nat) (offset : Int) (index : W64) : (h.miss c s reason count offset index).free = h.free := by unfold Hw.miss; simp only []; split <;> rfl
@[simp] theorem Hw.miss_picks (h : Hw) (c : Nat) (s : Stream) (reason count : Nat) (offset : Int) (index : W64) : (h.miss c s reason count offset index).picks = h.picks := by unfold Hw.miss; simp only []; split <;> rfl

/-! #### Reading back -/

@[simp] theorem Hw.queue_setQueue (h : Hw) (q k : Nat) (p : QueuePair) :
    (h.setQueue q p).queue k = if q = k then p else h.queue k := tget_tput _ _ _ _ _
@[simp] theorem Hw.port_setPort (h : Hw) (p k : Nat) (x : Port) : (h.setPort p x).port k = if p = k then x else h.port k :=
  tget_tput _ _ _ _ _
@[simp] theorem Hw.stream_setStream (h : Hw) (c k : Nat) (s : Stream) :
    (h.setStream c s).stream k = if c = k then some s else h.stream k := by simp only [Hw.stream, Hw.setStream, tget_tput]
@[simp] theorem Hw.stream_dropStream (h : Hw) (c k : Nat) : (h.dropStream c).stream k = if c = k then none else h.stream k := by
  simp only [Hw.stream, Hw.dropStream, tget_tput]
@[simp] theorem Hw.group_setGroup (h : Hw) (g k : Nat) (x : Option Group) : (h.setGroup g x).group k = if g = k then x else h.group k :=
  tget_tput _ _ _ _ _
@[simp] theorem Hw.tileU_setTile (h : Hw) (t k : Nat) (x : Tile) : (h.setTile t x).tileU k = if t = k then x else h.tileU k :=
  tget_tput _ _ _ _ _
@[simp] theorem Hw.csu_setCsu (h : Hw) (c k : Nat) (x : CsuUnit) : (h.setCsu c x).csu k = if c = k then x else h.csu k :=
  tget_tput _ _ _ _ _
@[simp] theorem Hw.lane_setLane (h : Hw) (l k : Nat) (x : LaneUnit) : (h.setLane l x).lane k = if l = k then x else h.lane k :=
  tget_tput _ _ _ _ _
@[simp] theorem Hw.mOf_setM (h : Hw) (c k m : Nat) : (h.setM c m).mOf k = if c = k then m else h.mOf k := tget_tput _ _ _ _ _
@[simp] theorem Hw.voice_setVoice (h : Hw) (i k : Nat) (v : Variant) : (h.setVoice i v).voice k = if i = k then v else h.voice k :=
  tget_tput _ _ _ _ _

/-! #### What the conditional updates change -/

/-- A vector to raise is listed once. -/
theorem Hw.mem_raise (h : Hw) (v : Nat) : v ∈ (h.raise v).link.raise := by
  unfold Hw.raise
  split
  · assumption
  · suffices ∀ l : List Nat, v ∈ insertBy id v l from this _
    intro l
    induction l with
    | nil => simp [insertBy]
    | cons y r ih => simp only [insertBy]; split <;> simp [ih]

/-- A posted write joins the released ones while the link is up, with its Relaxed Ordering mark where that is enabled;
otherwise it is discarded. -/
theorem Hw.post_posted (h : Hw) (w : HostWrite) :
    (h.post w).link.posted = if h.link.up && !h.ex.linkLost then h.link.posted ++ [w.ordered h.link.pci.relaxed] else h.link.posted := by
  unfold Hw.post; split <;> rfl

/-- An entry waits for the commit while the executive runs, and is in the log at once otherwise. -/
theorem Hw.note_log (h : Hw) (e : LogEntry) :
    (h.note e).log = if h.ex.running then { h.log with pending := h.log.pending ++ [{ e with epoch := h.epoch }] }
                     else appendLog h.log { e with epoch := h.epoch } := by
  unfold Hw.note; split <;> simp

/-- Every field of the executive but the mode survives a change of the device state, and the mode is the new one. -/
@[simp] theorem Hw.setMode_ex (h : Hw) (m : DevMode) (cause : Nat) : (h.setMode m cause).ex = { h.ex with mode := m } := by
  unfold Hw.setMode
  split
  · next hm => rw [← hm]
  · simp

/-- The written slot of ERR_LOG is never the header's, and the sequence number counts on. -/
theorem appendLog_spec (l : ErrLog) (e : LogEntry) (hs : 1 ≤ l.writeSlot.toNat) :
    (appendLog l e).newest = l.newest + 1 ∧ 1 ≤ (appendLog l e).writeSlot.toNat := by
  refine ⟨rfl, ?_⟩
  have hb := l.writeSlot.isLt
  simp only [appendLog]
  split
  · decide
  · rw [BitVec.toNat_ofNat]; omega

/-- A composed completion is the last of the tick's. -/
theorem Hw.complete_done (h : Hw) (q seq kind : Nat) (tag handle : W32) (status d0 : Nat) (d1 : W64) :
    (h.complete q seq kind tag handle status d0 d1).rings.done = h.rings.done ++
      [{ q := q, seq := seq, ctx := 0, module := false,
         r := { kind := BitVec.ofNat 8 kind, status := BitVec.ofNat 8 status, event := false, tag := tag, handle := handle, head := 0,
                detail0 := BitVec.ofNat 16 d0, epoch := 0, detail1 := d1 } }] := rfl

/-- A change that keeps a projection keeps it over a list of changes. -/
theorem foldl_keeps {α β γ : Type} (P : β → γ) (f : β → α → β) (hf : ∀ b a, P (f b a) = P b) (l : List α) (b : β) :
    P (l.foldl f b) = P b := by
  induction l generalizing b with
  | nil => rfl
  | cons a l ih => rw [List.foldl_cons, ih, hf]

/-- A property that every change keeps holds after a list of changes. -/
theorem foldl_inv {α β : Type} (I : β → Prop) (f : β → α → β) (hf : ∀ b a, I b → I (f b a)) (l : List α) (b : β) (h : I b) :
    I (l.foldl f b) := by
  induction l generalizing b with
  | nil => exact h
  | cons a l ih => exact ih _ (hf _ _ h)

end Sys2Proof.Machine
end

