-- ==== Sys2Proof/Laws/Units.lean ====
section
/-!
SUPPORT. What the named updates of firmware slots, Warden channels and berm buffers change, field by field.
-/
namespace Sys2Proof.Machine

/-! #### Hw.setFw -/

@[simp] theorem Hw.setFw_pwr (h : Hw) (k : Nat) (x : FwSlot) : (h.setFw k x).pwr = h.pwr := rfl
@[simp] theorem Hw.setFw_ex (h : Hw) (k : Nat) (x : FwSlot) : (h.setFw k x).ex = h.ex := rfl
@[simp] theorem Hw.setFw_latches (h : Hw) (k : Nat) (x : FwSlot) : (h.setFw k x).latches = h.latches := rfl
@[simp] theorem Hw.setFw_pwrCap (h : Hw) (k : Nat) (x : FwSlot) : (h.setFw k x).pwrCap = h.pwrCap := rfl
@[simp] theorem Hw.setFw_pwrCapNow (h : Hw) (k : Nat) (x : FwSlot) : (h.setFw k x).pwrCapNow = h.pwrCapNow := rfl
@[simp] theorem Hw.setFw_qs (h : Hw) (k : Nat) (x : FwSlot) : (h.setFw k x).qs = h.qs := rfl
@[simp] theorem Hw.setFw_msix (h : Hw) (k : Nat) (x : FwSlot) : (h.setFw k x).msix = h.msix := rfl
@[simp] theorem Hw.setFw_link (h : Hw) (k : Nat) (x : FwSlot) : (h.setFw k x).link = h.link := rfl
@[simp] theorem Hw.setFw_rings (h : Hw) (k : Nat) (x : FwSlot) : (h.setFw k x).rings = h.rings := rfl
@[simp] theorem Hw.setFw_streams (h : Hw) (k : Nat) (x : FwSlot) : (h.setFw k x).streams = h.streams := rfl
@[simp] theorem Hw.setFw_incs (h : Hw) (k : Nat) (x : FwSlot) : (h.setFw k x).incs = h.incs := rfl
@[simp] theorem Hw.setFw_groups (h : Hw) (k : Nat) (x : FwSlot) : (h.setFw k x).groups = h.groups := rfl
@[simp] theorem Hw.setFw_cat (h : Hw) (k : Nat) (x : FwSlot) : (h.setFw k x).cat = h.cat := rfl
@[simp] theorem Hw.setFw_mem (h : Hw) (k : Nat) (x : FwSlot) : (h.setFw k x).mem = h.mem := rfl
@[simp] theorem Hw.setFw_eng (h : Hw) (k : Nat) (x : FwSlot) : (h.setFw k x).eng = h.eng := rfl
@[simp] theorem Hw.setFw_ports (h : Hw) (k : Nat) (x : FwSlot) : (h.setFw k x).ports = h.ports := rfl
@[simp] theorem Hw.setFw_war (h : Hw) (k : Nat) (x : FwSlot) : (h.setFw k x).war = h.war := rfl
@[simp] theorem Hw.setFw_log (h : Hw) (k : Nat) (x : FwSlot) : (h.setFw k x).log = h.log := rfl
@[simp] theorem Hw.setFw_snap (h : Hw) (k : Nat) (x : FwSlot) : (h.setFw k x).snap = h.snap := rfl
@[simp] theorem Hw.setFw_cnt (h : Hw) (k : Nat) (x : FwSlot) : (h.setFw k x).cnt = h.cnt := rfl
@[simp] theorem Hw.setFw_fm (h : Hw) (k : Nat) (x : FwSlot) : (h.setFw k x).fm = h.fm := rfl
@[simp] theorem Hw.setFw_ts (h : Hw) (k : Nat) (x : FwSlot) : (h.setFw k x).ts = h.ts := rfl
@[simp] theorem Hw.setFw_free (h : Hw) (k : Nat) (x : FwSlot) : (h.setFw k x).free = h.free := rfl
@[simp] theorem Hw.setFw_picks (h : Hw) (k : Nat) (x : FwSlot) : (h.setFw k x).picks = h.picks := rfl
@[simp] theorem Hw.fwSlot_setFw (h : Hw) (k j : Nat) (x : FwSlot) : (h.setFw k x).fwSlot j = if k = j then x else h.fwSlot j :=
  tget_tput _ _ _ _ _

/-! #### Hw.setChan -/

@[simp] theorem Hw.setChan_pwr (h : Hw) (n : Nat) (c : Channel) : (h.setChan n c).pwr = h.pwr := rfl
@[simp] theorem Hw.setChan_ex (h : Hw) (n : Nat) (c : Channel) : (h.setChan n c).ex = h.ex := rfl
@[simp] theorem Hw.setChan_latches (h : Hw) (n : Nat) (c : Channel) : (h.setChan n c).latches = h.latches := rfl
@[simp] theorem Hw.setChan_pwrCap (h : Hw) (n : Nat) (c : Channel) : (h.setChan n c).pwrCap = h.pwrCap := rfl
@[simp] theorem Hw.setChan_pwrCapNow (h : Hw) (n : Nat) (c : Channel) : (h.setChan n c).pwrCapNow = h.pwrCapNow := rfl
@[simp] theorem Hw.setChan_qs (h : Hw) (n : Nat) (c : Channel) : (h.setChan n c).qs = h.qs := rfl
@[simp] theorem Hw.setChan_msix (h : Hw) (n : Nat) (c : Channel) : (h.setChan n c).msix = h.msix := rfl
@[simp] theorem Hw.setChan_link (h : Hw) (n : Nat) (c : Channel) : (h.setChan n c).link = h.link := rfl
@[simp] theorem Hw.setChan_rings (h : Hw) (n : Nat) (c : Channel) : (h.setChan n c).rings = h.rings := rfl
@[simp] theorem Hw.setChan_streams (h : Hw) (n : Nat) (c : Channel) : (h.setChan n c).streams = h.streams := rfl
@[simp] theorem Hw.setChan_incs (h : Hw) (n : Nat) (c : Channel) : (h.setChan n c).incs = h.incs := rfl
@[simp] theorem Hw.setChan_groups (h : Hw) (n : Nat) (c : Channel) : (h.setChan n c).groups = h.groups := rfl
@[simp] theorem Hw.setChan_cat (h : Hw) (n : Nat) (c : Channel) : (h.setChan n c).cat = h.cat := rfl
@[simp] theorem Hw.setChan_mem (h : Hw) (n : Nat) (c : Channel) : (h.setChan n c).mem = h.mem := rfl
@[simp] theorem Hw.setChan_eng (h : Hw) (n : Nat) (c : Channel) : (h.setChan n c).eng = h.eng := rfl
@[simp] theorem Hw.setChan_ports (h : Hw) (n : Nat) (c : Channel) : (h.setChan n c).ports = h.ports := rfl
@[simp] theorem Hw.setChan_log (h : Hw) (n : Nat) (c : Channel) : (h.setChan n c).log = h.log := rfl
@[simp] theorem Hw.setChan_snap (h : Hw) (n : Nat) (c : Channel) : (h.setChan n c).snap = h.snap := rfl
@[simp] theorem Hw.setChan_cnt (h : Hw) (n : Nat) (c : Channel) : (h.setChan n c).cnt = h.cnt := rfl
@[simp] theorem Hw.setChan_fm (h : Hw) (n : Nat) (c : Channel) : (h.setChan n c).fm = h.fm := rfl
@[simp] theorem Hw.setChan_ts (h : Hw) (n : Nat) (c : Channel) : (h.setChan n c).ts = h.ts := rfl
@[simp] theorem Hw.setChan_sec (h : Hw) (n : Nat) (c : Channel) : (h.setChan n c).sec = h.sec := rfl
@[simp] theorem Hw.setChan_free (h : Hw) (n : Nat) (c : Channel) : (h.setChan n c).free = h.free := rfl
@[simp] theorem Hw.setChan_picks (h : Hw) (n : Nat) (c : Channel) : (h.setChan n c).picks = h.picks := rfl
@[simp] theorem Hw.chan_setChan (h : Hw) (n k : Nat) (c : Channel) : (h.setChan n c).chan k = if n = k then c else h.chan k :=
  tget_tput _ _ _ _ _

/-! #### Hw.setBerm -/

@[simp] theorem Hw.setBerm_pwr (h : Hw) (b : Berm) : (h.setBerm b).pwr = h.pwr := rfl
@[simp] theorem Hw.setBerm_ex (h : Hw) (b : Berm) : (h.setBerm b).ex = h.ex := rfl
@[simp] theorem Hw.setBerm_latches (h : Hw) (b : Berm) : (h.setBerm b).latches = h.latches := rfl
@[simp] theorem Hw.setBerm_pwrCap (h : Hw) (b : Berm) : (h.setBerm b).pwrCap = h.pwrCap := rfl
@[simp] theorem Hw.setBerm_pwrCapNow (h : Hw) (b : Berm) : (h.setBerm b).pwrCapNow = h.pwrCapNow := rfl
@[simp] theorem Hw.setBerm_qs (h : Hw) (b : Berm) : (h.setBerm b).qs = h.qs := rfl
@[simp] theorem Hw.setBerm_msix (h : Hw) (b : Berm) : (h.setBerm b).msix = h.msix := rfl
@[simp] theorem Hw.setBerm_link (h : Hw) (b : Berm) : (h.setBerm b).link = h.link := rfl
@[simp] theorem Hw.setBerm_rings (h : Hw) (b : Berm) : (h.setBerm b).rings = h.rings := rfl
@[simp] theorem Hw.setBerm_streams (h : Hw) (b : Berm) : (h.setBerm b).streams = h.streams := rfl
@[simp] theorem Hw.setBerm_incs (h : Hw) (b : Berm) : (h.setBerm b).incs = h.incs := rfl
@[simp] theorem Hw.setBerm_groups (h : Hw) (b : Berm) : (h.setBerm b).groups = h.groups := rfl
@[simp] theorem Hw.setBerm_cat (h : Hw) (b : Berm) : (h.setBerm b).cat = h.cat := rfl
@[simp] theorem Hw.setBerm_mem (h : Hw) (b : Berm) : (h.setBerm b).mem = h.mem := rfl
@[simp] theorem Hw.setBerm_ports (h : Hw) (b : Berm) : (h.setBerm b).ports = h.ports := rfl
@[simp] theorem Hw.setBerm_war (h : Hw) (b : Berm) : (h.setBerm b).war = h.war := rfl
@[simp] theorem Hw.setBerm_log (h : Hw) (b : Berm) : (h.setBerm b).log = h.log := rfl
@[simp] theorem Hw.setBerm_snap (h : Hw) (b : Berm) : (h.setBerm b).snap = h.snap := rfl
@[simp] theorem Hw.setBerm_cnt (h : Hw) (b : Berm) : (h.setBerm b).cnt = h.cnt := rfl
@[simp] theorem Hw.setBerm_fm (h : Hw) (b : Berm) : (h.setBerm b).fm = h.fm := rfl
@[simp] theorem Hw.setBerm_ts (h : Hw) (b : Berm) : (h.setBerm b).ts = h.ts := rfl
@[simp] theorem Hw.setBerm_sec (h : Hw) (b : Berm) : (h.setBerm b).sec = h.sec := rfl
@[simp] theorem Hw.setBerm_free (h : Hw) (b : Berm) : (h.setBerm b).free = h.free := rfl
@[simp] theorem Hw.setBerm_picks (h : Hw) (b : Berm) : (h.setBerm b).picks = h.picks := rfl

/-- A berm that is written changes the buffer of the unit that reads it, and no other unit. -/
theorem Hw.csu_setBerm (h : Hw) (b : Berm) (k : Nat) (hk : k ≠ b.goes) : (h.setBerm b).csu k = h.csu k := by
  unfold Hw.setBerm
  rw [Hw.csu_setCsu, if_neg (Ne.symm hk)]

/-! #### Tile.swapScales -/

@[simp] theorem Tile.swapScales_scales (u : Tile) : u.swapScales.scales = u.idle := rfl
@[simp] theorem Tile.swapScales_idle (u : Tile) : u.swapScales.idle = 0 := rfl
@[simp] theorem Tile.swapScales_shelf (u : Tile) : u.swapScales.shelf = u.scales := rfl
@[simp] theorem Tile.swapScales_accs (u : Tile) : u.swapScales.accs = u.accs := rfl
@[simp] theorem Tile.swapScales_outs (u : Tile) : u.swapScales.outs = u.outs := rfl
@[simp] theorem Tile.swapScales_waits (u : Tile) : u.swapScales.waits = u.waits := rfl
@[simp] theorem Tile.swapScales_records (u : Tile) : u.swapScales.records = u.records := rfl

end Sys2Proof.Machine
end

