-- ==== Sys2Proof/WellFormed.lean ====
section
/-!
DEFINITION. Which commands name units the block has (R67, R72, R102, R125, R203, R218, R222, R276).
-/
namespace Sys2Proof

/-- What late work at intake close names: a context below 1,024. -/
def Late.wf : Late → Bool
  | .run c => decide (c < 1024)
  | .frame c => decide (c < 1024)
  | .chunk c => decide (c < 1024)

/-- The number of units of a kind (R382). -/
def UnitKind.count : UnitKind → Nat
  | .tile => 128
  | .csu => 32
  | .lane => 24
  | .sampler => 8
  | .router => 1
  | .pump => 16
  | .nearStack => 8
  | .farChannel => 48
  | .port => 16
  | .queue => 256
  | .rule => 64
  | .module => 1

/-- A unit that the block has. -/
def UnitId.wf (u : UnitId) : Bool := decide (u.index < u.kind.count)

/-- A command whose unit numbers the block has. The other operands take every value their type admits. -/
def Instr.wf : Instr → Bool
  | .tilePassComplete t _ _ _ _ => decide (t < 128)
  | .groupScaleArrival t _ => decide (t < 128)
  | .accumulatorHandover t _ => decide (t < 128)
  | .pumpTransferComplete p _ _ _ => decide (p < 16)
  | .csuPassComplete c _ x _ _ _ _ => decide (c < 32) && decide (x < 1024)
  | .bermConsume c _ => decide (c < 32)
  | .bermRelease c => decide (c < 32)
  | .laneIssueSlot l => decide (l < 24)
  | .laneStepWriteback l _ _ => decide (l < 24)
  | .trunkCopyStart s => decide (s < 3)
  | .trunkCopyComplete s => decide (s < 3)
  | .patrolScrub near u _ _ => if near then decide (u < 8) else decide (u < 48)
  | .lpddrRefresh ch b => decide (ch < 48) && decide (b < 64)
  | .refreshManagement ch => decide (ch < 48)
  | .rebuildComplete c => decide (c < 1024)
  | .feedQueuedApply c => decide (c < 1024)
  | .feedHeldRelease c => decide (c < 1024)
  | .audioInFirstWindow c => decide (c < 1024)
  | .evictionCopy c => decide (c < 1024)
  | .selftest rs => rs.all (fun r => r.1.wf)
  | .intakeClose ls => ls.all Late.wf
  | _ => true

end Sys2Proof
end

