-- ==== Sys2Proof/Tests/Slice0.lean ====
section
/-!
SUPPORT. The author's own tests: ill-formed commands that WellFormed refuses, the spec's worked numbers, and for every
obligation states and operands that meet its hypotheses.
-/
namespace Sys2Proof.Tests
set_option Elab.async false
open Sys2Proof.Machine

/-! ### Well-formedness refuses -/

theorem test_wf_refuses_tiles :
    (Instr.tilePassComplete 128 0 0 [] .pass).wf = false ∧ (Instr.groupScaleArrival 128 0).wf = false
    ∧ (Instr.accumulatorHandover 128 0).wf = false := by
  decide

theorem test_wf_refuses_units :
    (Instr.pumpTransferComplete 16 0 [] .clean).wf = false ∧ (Instr.csuPassComplete 32 0 0 0 0 [] .pass).wf = false
    ∧ (Instr.csuPassComplete 0 0 1024 0 0 [] .pass).wf = false ∧ (Instr.bermConsume 32 0).wf = false
    ∧ (Instr.bermRelease 32).wf = false ∧ (Instr.laneIssueSlot 24).wf = false ∧ (Instr.laneStepWriteback 24 [] .pass).wf = false := by
  decide

theorem test_wf_refuses_memories :
    (Instr.trunkCopyStart 3).wf = false ∧ (Instr.trunkCopyComplete 3).wf = false ∧ (Instr.patrolScrub true 8 0 .clean).wf = false
    ∧ (Instr.patrolScrub false 48 0 .clean).wf = false ∧ (Instr.lpddrRefresh 48 0).wf = false ∧ (Instr.lpddrRefresh 0 64).wf = false
    ∧ (Instr.refreshManagement 48).wf = false := by
  decide

theorem test_wf_refuses_contexts :
    (Instr.rebuildComplete 1024).wf = false ∧ (Instr.feedQueuedApply 1024).wf = false ∧ (Instr.feedHeldRelease 1024).wf = false
    ∧ (Instr.audioInFirstWindow 1024).wf = false ∧ (Instr.evictionCopy 1024).wf = false
    ∧ (Instr.selftest [({ kind := .lane, index := 24 }, [])]).wf = false ∧ (Instr.intakeClose [.run 1024]).wf = false := by
  decide

/-! ### Worked numbers of the spec -/

/-- R202, vectors 1 to 4. -/
theorem test_draw_vectors :
    draw 0x2C3D3C3C13579831 0x100100002F6BA40D 0xE220A8397B1DCDAF 0x3C = 0xE220A8397B1DCDAF
    ∧ draw 0x200300002F6BA40C 0x200300002F6BA40D 0x6E789E6AA1B965F5 0x00 = 0x6E789E6AA1B965F4
    ∧ draw 0xEFFDFFFFD0945BF0 0x100200002F6BA40D 0x06C45D188009454C 0xFF = 0xF88BB8A8724C81EC
    ∧ draw 0x300000002F6BA40E 0x300000002F6BA40D 0xF88BB8A8724C81EE 0x00 = 0x06C45D188009454F := by
  decide

/-- The lane write's counter of 07_random_bits.md. -/
theorem test_lane_counter :
    counterHigh .lane 0x41A2B = 0x1000000000000004 ∧ counterLow 0x41A2B (2 * 256 + 37) 1000000 = 0x1A2B0225000F4240
    ∧ counterLow 0x41A2B 549 (2 ^ 32 + 1000000) = counterLow 0x41A2B 549 1000000 := by
  decide

/-- The state write of 02_arithmetic.md: 4 bits, 3 bits, and S16C. -/
theorem test_state_write :
    (writeS16 4 9 0x3F801680).1 = 0x3C01 ∧ (writeS16 4 13 0x3F801680).1 = 0x3C00 ∧ (writeS16 4 14 0x3F801680).1 = 0x3C00
    ∧ (writeS16 3 7 0x3F801680).1 = 0x3C00 ∧ stateValue .s16c 0x8CC03C01 = 0x3F801680 := by
  decide +kernel

/-- The group of 02_arithmetic.md: its scale, its codes, its sum, and the accumulator after the rescale. -/
theorem test_group_rescale :
    let q := quantiseGroup .int8 [0x41200000, 0xC0533333, 0x3D300000, 0x3E040000]
    q.scale = 0x5B ∧ q.codes = [116, 0xDA, 0, 2] ∧ groupSum .int8 [3, -5, 7, -8] q.codes = 522
    ∧ rescale .int8 (-6) 0x30 q.scale false 522 0x447A0000 = 0x447A0016 := by
  decide +kernel

/-- The published SHA-512 digest of "abc" (FIPS 180-4). -/
theorem test_sha512_abc :
    (hashBytes (sha512 [0x61, 0x62, 0x63])).take 8 = [0xDD, 0xAF, 0x35, 0xA1, 0x93, 0x61, 0x7A, 0xBA] := by
  decide +kernel

/-- The handles of 18_bringup_examples.md. -/
theorem test_handles : handleOf 0 1 = 0x80010000 ∧ handleOf 5 4 = 0x80040005 ∧ handleOf 5 5 = 0x80050005 := by decide

/-! ### States for the witnesses -/

/-- A block that answers, in READY, with the link up and the Sequencer running. -/
def up : Hw :=
  { Hw.reset with
    pwr := { Power.reset with auxUp := true, railsOn := true, pgood := true, perst := false, booted := true, pllsLocked := true, masterBclk := true }
    ex := { Exec.reset with mode := .ready }
    link := { LinkState.reset with up := true, msixOn := true }
    sec := { Security.reset with fw := [(0, { FwSlot.reset with runs := some [] })] }
    war := { Warden.reset with on := true } }

def st (h : Hw) : State := { pending := [], hw := h }

def lane0 : LaneStep :=
  { gated := false, block := 0, area := 0, width := 1, prec := .s16, cols := [], fn := .identity, residual := none, persist := none, head := true }

def csu0 : CsuLayer :=
  { transposed := false, kernel := 1, dil := 1, perGroup := 1, inCh := 1, outCh := 1, pad := .zero, utterance := true, folds := [], stripe := none,
    fn := .identity, residual := none, src := .conditioning, rateHz := [400, 400, 400, 400, 400], weights := 0, bias := 2 }

/-- Two values at the foot of the vector scratch, and two 64 bytes above them. -/
def locA : Loc := { region := .scratch, off := 0, stride := 64 }
def locB : Loc := { region := .scratch, off := 0x47FC0, stride := 0 }

/-- A tick program: an addition on the last tile, a layer pass on the last Conv-Scan Unit, and swaps of the last and the first
tile lock and of a lane weight store's lock. -/
def tick0 : TickProgram :=
  { steps := [{ stage := 3, place := 0, op := .tile 127 .rows 0 1 (.vector .add false locA locA locB 2) },
              { stage := 0, place := 0, op := .csu [31] (.layer 0 0 0) none },
              { stage := 0, place := 0, op := .swap 383 }, { stage := 0, place := 0, op := .swap 0 }, { stage := 0, place := 0, op := .swap 384 }]
    units := [{ first := 0, count := 5 }], masks := [], locks := 385, aux := [(0, 0)] }

/-- An image of one lane step and one layer, for 48 kHz, with room for 10 streams. -/
def img : ImageFile :=
  { file := List.replicate 0x4C 0 ++ [10, 0, 2, 0, 0, 0, 0, 0, 0x1F, 3, 0, 4] ++ List.replicate 10 0 ++ [1, 0]
    parts := { tick := tick0
               proof := { work := [], laneLead := 0, degraded := [] }
               fe := { featureMillions := 0, chunk := 1, allowance := 0, lookAhead := 0, attnLayers := 0, window := 0, kvHeads := 0, headDim := 128, qPerKv := 0,
                       codebooks := 0, tokenBits := 0, layers := [] }
               csu := [csu0], lane := [lane0], blocks := [{ weights := 4, bias := 4 }], recs := []
               dir := { f := 0, hc := 0, hs := 0, hf := 0, featureArea := 6400, historyArea := 0 }
               pumps := [], extractors := []
               manifest := [{ expert := true, length := 3, shapes := [], blocks := [(7, 3)] },
                            { expert := false, length := 0x200000, shapes := [], blocks := [(0, 0x200000)] }] } }

/-- The executive runs with that image, in a window of tick 5. -/
def go (w : Window) : Hw :=
  { up with ex := { up.ex with mode := .running, running := true, window := w, tick := 5, last := some 4, image := some img, seq := 7 } }

/-- A queue pair with its queues enabled, 16 entries each, one descriptor announced, and owner 3. -/
def qp : QueuePair :=
  { QueuePair.reset with sqOn := true, cqOn := true, tail := 1, credit := 8, creditNow := 8, outstanding := 1, owner := 3 }

def lslot : LaneSlot := { lane := 0, slot := 0, mode := .issuing }

/-- A stream of owner 3 on the first slot of lane 0. -/
def strm : Stream := { Stream.blank lslot with incarnation := 1, owner := 3 }

def withQ (h : Hw) : Hw := h.setQueue 2 qp
def withS (h : Hw) (s : Stream) : Hw := h.setStream 4 s

/-- A descriptor with an opcode, flags, a handle, and further fields. -/
def dsc (op flags : Nat) (handle : Nat) (more : Nat) : Desc := BitVec.ofNat 512 (op + flags * 256 + 9 * 2 ^ 32 + handle * 2 ^ 64 + more)

/-! ### Witnesses: queues, doorbells and descriptors -/

theorem witness_MemoryReadAfterWrite : Memory.wf ([(3, 7)] : Memory) = true := by decide

theorem witness_MemoriesStayCanonical :
    (st up).hw.memsCanonical ∧ ∃ t, step { pending := [.zqCalibration], hw := up } = .next t :=
  ⟨⟨rfl, rfl, rfl, rfl, rfl, rfl⟩, _, rfl⟩

theorem witness_LogNeverOverwritesHeader :
    1 ≤ (st up).hw.log.writeSlot.toNat ∧ ∃ t, step { pending := [.zqCalibration], hw := up } = .next t :=
  ⟨by decide, _, rfl⟩

/-- A new tail, an unchanged tail, and the largest index of 16 entries. -/
theorem witness_DoorbellsAreTaken_SubmissionDoorbell :
    (withQ up).alive = true ∧ ((withQ up).queue 2).sqOn = true ∧ (0x1000F#32).toNat < 131072
    ∧ (0x1000F#32).toNat % 65536 < 2 ^ ((withQ up).queue 2).sqLog.toNat ∧ (0x1000F#32).toNat % 65536 ≠ ((withQ up).queue 2).tail.toNat
    ∧ (1#32).toNat % 65536 = ((withQ up).queue 2).tail.toNat := by
  decide +kernel

theorem witness_DoorbellsAreTaken_CompletionDoorbell :
    (withQ up).alive = true ∧ ((withQ up).queue 2).cqOn = true ∧ (15#32).toNat < 2 ^ ((withQ up).queue 2).cqLog.toNat ∧ (15#32).toNat < 65536 := by
  decide +kernel

/-- A reserved bit, a disabled queue, and the first index above the size. -/
theorem witness_BadWritesAreDropped_BadDoorbellIsDropped :
    (withQ up).alive = true ∧ 131072 ≤ (0x20000#32).toNat ∧ ((withQ up).queue 3).sqOn = false
    ∧ 2 ^ ((withQ up).queue 2).sqLog.toNat ≤ (16#32).toNat % 65536
    ∧ 65536 ≤ (0x10000#32).toNat ∧ ((withQ up).queue 3).cqOn = false ∧ 2 ^ ((withQ up).queue 2).cqLog.toNat ≤ (16#32).toNat := by
  decide +kernel

def ecrcHw : Hw := { up with link := { up.link with pci := { up.link.pci with ecrcCheck := true } } }
/-- A misaligned offset of each size; every kind of malformed packet. -/
theorem witness_BadWritesAreDropped_BadAccessIsDropped :
    up.alive = true ∧ (¬ (4 = 4 ∧ 2 % 4 = 0) ∧ ¬ (4 = 8 ∧ 2 % 8 = 0)) ∧ ¬ (8 = 8 ∧ 4 % 8 = 0) ∧ (TlpFault.poisoned = .poisoned ∧ 12 = 12)
    ∧ (TlpFault.malformed = .malformed ∧ 18 = 18) ∧ ecrcHw.alive = true ∧ ecrcHw.link.pci.ecrcCheck = true := by
  decide

def retriedQ : QueuePair := { qp with retried := true }

theorem witness_FailedReads :
    (withQ up).decodes = true ∧ (withQ up).link.pci.timeoutOff = false ∧ (withQ up).fetching 2 = true ∧ ((withQ up).queue 2).retried = false
    ∧ (up.setQueue 2 retriedQ).decodes = true ∧ (up.setQueue 2 retriedQ).fetching 2 = true ∧ ((up.setQueue 2 retriedQ).queue 2).retried = true
    ∧ up.cat.staging = [] ∧ up.streams = [] ∧ (withS up strm).stream 4 = some strm ∧ (withS up strm).decodes = true ∧ ({ up with mem := { up.mem with loadBusy := true } }).decodes = true
    ∧ ({ up with link := { up.link with pci := { up.link.pci with timeoutOff := true } } }).link.pci.timeoutOff = true := by
  decide +kernel

theorem witness_DescriptorsWaitForTheirBoundary_DescriptorsAreAdmitted :
    (withQ (go .work)).ex.running = true ∧ (withQ (go .work)).canDecode 2 = true ∧ ((withQ (go .work)).queue 2).urgent = 0
    ∧ (∀ k ∈ [0x01, 0x02, 0x05, 0x06, 0x07, 0x08, 0x09, 0x0A, 0x0B, 0x0C, 0x0D, 0x0E], dOpcode (dsc k 0 0 0) = k)
    ∧ bitOf (dFlags (dsc 0x0C 0 0 0)) 0 = false ∧ dOpcode (dsc 0x0C 1 0 0) = 0x0C ∧ bitOf (dFlags (dsc 0x0C 1 0 0)) 0 = true := by
  decide +kernel

theorem witness_DescriptorsWaitForTheirBoundary_VoiceDescriptorsAreAdmitted :
    (withQ (go .work)).ex.running = true ∧ (withQ (go .work)).canDecode 2 = true ∧ dOpcode (dsc 0x03 0 0 0) = 0x03 ∧ dOpcode (dsc 0x04 0 0 0) = 0x04 := by
  decide +kernel

def urgentHw : Hw :=
  let h := withS ((go .commit).setQueue 2 { qp with urgent := 1 }) { strm with life := .speaking }
  { h with link := { h.link with urgentOut := [(2, 1)] } }

theorem witness_UrgentStopClosesGate :
    urgentHw.ex.running = true ∧ urgentHw.ex.window = .commit ∧ urgentHw.canDecode 2 = true ∧ dOpcode (dsc 0x05 0 0x80010004 0) = 0x05
    ∧ 0 < (urgentHw.queue 2).urgent ∧ dFormatOk (dsc 0x05 0 0x80010004 0) = true
    ∧ urgentHw.lookup (urgentHw.queue 2).owner (dHandle (dsc 0x05 0 0x80010004 0)) = some (4, { strm with life := .speaking }) := by
  decide +kernel

/-- Stopped in READY and in HOLDING. -/
theorem witness_StoppedDescriptors_StoppedStreamDescriptors :
    (withQ up).ex.running = false ∧ (withQ up).ex.mode ≠ .holding ∧ (withQ up).canDecode 2 = true ∧ ((withQ up).queue 2).urgent = 0
    ∧ (withQ up).rings.admitted = [] ∧ (∀ o ∈ (withQ up).rings.openDescs, o.barrier = false)
    ∧ (withQ { up with ex := { up.ex with mode := .holding } }).ex.mode = .holding
    ∧ (withQ { up with ex := { up.ex with mode := .holding } }).canDecode 2 = true
    ∧ (∀ k ∈ [0x01, 0x02, 0x03, 0x04, 0x05, 0x06, 0x07, 0x08, 0x0C, 0x0D, 0x0E], dOpcode (dsc k 0 0 0) = k)
    ∧ bitOf (dFlags (dsc 0x0C 0 0 0)) 0 = false ∧ dOpcode (dsc 0x0C 1 0 0) = 0x0C ∧ bitOf (dFlags (dsc 0x0C 1 0 0)) 0 = true := by
  decide +kernel

def stagedTrunk : VSlot := { VSlot.reset with state := .staged, hash := 5, length := 0x200000 }
def stagedHw : Hw := { withQ up with cat := { Catalogue.reset with trunk2 := stagedTrunk } }
/-- A commit of the trunk whose hash begins with 5. -/
def commitDesc : Desc := dsc 0x0A 0 0 (1 * 2 ^ 128 + 5 * 2 ^ 192)

theorem witness_StoppedDescriptors_StoppedServedDescriptors :
    stagedHw.ex.running = false ∧ stagedHw.ex.mode ≠ .holding ∧ stagedHw.canDecode 2 = true ∧ (stagedHw.queue 2).urgent = 0
    ∧ stagedHw.rings.admitted = [] ∧ (∀ o ∈ stagedHw.rings.openDescs, o.barrier = false) ∧ dFormatOk (dsc 0x0B 0 0 0) = true
    ∧ dOpcode (dsc 0x0B 0 0 0) = 0x0B ∧ bitOf (dFlags (dsc 0x0B 0 0 0)) 1 = false
    ∧ dFormatOk commitDesc = true ∧ dOpcode commitDesc = 0x0A ∧ dField commitDesc 0x10 2 = 1 ∧ stagedHw.cat.switches = []
    ∧ (∀ j : Nat, j < 3 → j ≠ 2 → (stagedHw.trunk j).state ≠ .staged) ∧ (stagedHw.trunk 2).state = .staged ∧ (stagedHw.trunk 2).damaged = false
    ∧ hash16 (stagedHw.trunk 2).hash = BitVec.ofNat 128 (dField commitDesc 0x18 16) := by
  decide +kernel

/-- A package of the expert of manifest entry 0, in one block of 4,160 bytes. -/
def packHeader : List Byte := padTo 4096 (natBytesLE 4 0x49485750 ++ natBytesLE 2 2)
def packData : PackageData := { list := [[BitVec.ofNat 128 (0x1000 + 4160 * 2 ^ 64 + 2 ^ 96)]], header := packHeader }
def packDesc : Desc := dsc 0x09 0 0 (16 * 2 ^ (8 * 0x18))
def packHw : Hw := withQ { up with ex := { up.ex with image := some img } }
theorem witness_StoppedDescriptors_Staging :
    packHw.ex.running = false ∧ packHw.ex.mode ≠ .holding ∧ packHw.canDecode 2 = true ∧ (packHw.queue 2).urgent = 0
    ∧ packHw.rings.admitted = [] ∧ packHw.rings.openDescs = [] ∧ dFormatOk packDesc = true ∧ dOpcode packDesc = 0x09
    ∧ (withQ up).ex.image = none ∧ packHw.ex.image = some img ∧ packHw.cat.staging = [] ∧ packHw.cat.switches = []
    ∧ (readList .package (dField packDesc 0x18 4) packData.list).isSome = true ∧ packHw.packageOk img packData.header = true
    ∧ decide (leField packData.header 0x004 2 = 1) = false
    ∧ (∀ k ∈ slotRange false, (packHw.vslot false (targetIndex (pkTarget packData.header)) k).state = .free
        ∧ (packHw.vslot false (targetIndex (pkTarget packData.header)) k).damaged = false) := by
  decide +kernel

/-! ### Witnesses: the tick and the engines -/

theorem witness_WindowsBegin_BoundaryBeginsNextTick :
    (go .commit).decodes = true ∧ (go .commit).ex.running = true ∧ (go .commit).ex.window = .commit ∧ (go .commit).ex.rerun = false
    ∧ (go .commit).ex.stopping = none ∧ (go .commit).pwr.syncTimeout = false := by
  decide

def startHw : Hw :=
  { up with ex := { up.ex with start := .scheduled, image := some img }
            cat := { Catalogue.reset with trunk1 := { VSlot.reset with state := .current, resident := true } } }

/-- A start with its trunk's near copy there, and one that waits for it. -/
theorem witness_WindowsBegin_StartBeginsEpochZero :
    startHw.decodes = true ∧ startHw.ex.running = false ∧ startHw.ex.start = .scheduled ∧ startHw.trunkReady = true
    ∧ ({ startHw with cat := { startHw.cat with trunk1 := { VSlot.reset with state := .current } } }).trunkReady = false := by
  decide

theorem witness_WindowsBegin_ReserveWindowOpens :
    (go .work).decodes = true ∧ (go .work).ex.running = true ∧ (go .work).ex.window = .work ∧ (go .work).ex.rerun = false := by
  decide

theorem witness_IntakeCloseCommits :
    (go .work).decodes = true ∧ (go .work).ex.running = true ∧ (go .work).ex.rerun = false
    ∧ ((go .work).ex.window = .work ∨ (go .work).ex.window = .reserve) ∧ (go .work).ex.safeTick = false ∧ (go .work).ex.image = some img
    ∧ (go .work).ex.linkLost = false := by
  decide +kernel

theorem witness_IdlePublicationPublishes : up.decodes = true ∧ up.ex.running = false := by decide

def rec0 : Record := { kind := 0x0B, status := 0, event := false, tag := 9, handle := 0, head := 0, detail0 := 0, epoch := 0, detail1 := 0 }
def pend0 : Pending := { q := 2, seq := 7, ctx := 0, module := false, r := rec0 }
def waitingHw : Hw := up.setQueue 2 { qp with waiting := [pend0] }

theorem witness_WaitingRecordsAndFences_WaitingRecordsPublish :
    waitingHw.decodes = true ∧ waitingHw.ex.running = false ∧ (go .work).ex.running = true ∧ (waitingHw.queue 2).cqOn = true
    ∧ (waitingHw.queue 2).cqLog.toNat ≤ 16 ∧ (waitingHw.queue 2).waiting ≠ [] ∧ (waitingHw.queue 2).waiting.length ≤ freeEntries (waitingHw.queue 2) := by
  decide +kernel

def fence0 : FenceWait := { seq := 7, q := 2, tag := 9, scope := [3], count := 1 }
def fenceHw : Hw := { go .work with rings := { Rings.reset with fences := [fence0] } }

theorem witness_WaitingRecordsAndFences_FenceCompletes :
    fenceHw.decodes = true ∧ fenceHw.rings.fences = [fence0] ∧ fence0.q = (2 : Fin 256).val
    ∧ (∀ n ∈ fence0.scope, ∀ o ∈ fenceHw.rings.openDescs, o.seq ≠ n) := by
  decide +kernel

/-- A tile with nothing waiting, and one where a pass waits; the addition's accumulators, once it is done. -/
def scaleHw : Hw := (go .work).setTile 3 { Tile.reset with waits := some { runner := 3, step := 0, slip := 0, errs := [], chk := .pass } }
def handHw : Hw := { go .work with eng := { Engines.reset with steps := [0] } }
theorem witness_TileEvents_ScalesAndAccumulatorsArrive :
    (go .work).engOn = true ∧ 127 < 128 ∧ ((go .work).tileU 127).waits = none ∧ scaleHw.engOn = true ∧ (scaleHw.tileU 3).waits.isSome = true
    ∧ handHw.engOn = true ∧ handHw.ex.image = some img ∧ (tickStep img 0).map TickStep.op = some (.tile 127 .rows 0 1 (.vector .add false locA locA locB 2))
    ∧ 0 ∈ handHw.eng.steps := by
  decide +kernel

/-- A filled lock, one that is not, and the first lock above the tiles'. -/
def lockHw : Hw := { go .work with eng := { Engines.reset with filled := [(383, true)] } }
theorem witness_TileEvents_LockSwaps :
    lockHw.engOn = true ∧ lockHw.ex.image = some img ∧ lockHw.nextSwap img 383 = some 2 ∧ 383 < img.parts.tick.locks
    ∧ lockHw.tileReached img 127 2 = true ∧ tget false lockHw.eng.filled 383 = true
    ∧ lockHw.nextSwap img 0 = some 3 ∧ lockHw.tileReached img 0 3 = true ∧ tget false lockHw.eng.filled 0 = false ∧ 0 ∉ lockHw.eng.swapWait
    ∧ lockHw.nextSwap img 384 = some 4 ∧ 384 < img.parts.tick.locks ∧ (auxLock img 384).2 = 0 := by
  decide +kernel

/-- The last words of the last tile's vector scratch, in a stream's first row. -/
def rowStream : Stream := { strm with work := { TickWork.empty with advance := true } }
def rowHw : Hw := withS (go .work) rowStream
theorem witness_VectorPass :
    rowHw.engOn = true ∧ 127 < 128 ∧ (⟨.tile, 127⟩ : UnitId) ∉ rowHw.eng.fenced ∧ rowHw.ex.image = some img
    ∧ (tickStep img 0).map TickStep.op = some (.tile 127 .rows 0 1 (.vector .add false locA locA locB 2))
    ∧ (∀ y, tickStep img 0 = some y → rowHw.stepOpen img 0 y 127 = true) ∧ rowHw.stepRows .rows 0 1 = [(4, 0, 0)] ∧ rowHw.stream 4 = some rowStream
    ∧ rowHw.eng.replays = [] ∧ locB.off + locB.stride * 0 + 4 * 2 ≤ regionSize locB.region
    ∧ passUnit 127 (.vector .add false locA locA locB 2) ∉ rowHw.eng.fenced
    ∧ (∀ z, opPass img 0 (.vector .add false locA locA locB 2) = some z → rowHw.arrayReady 127 z = true) := by
  refine ⟨by decide +kernel, by decide, by decide +kernel, by decide +kernel, by decide +kernel, fun y h => ?_, by decide +kernel, by decide +kernel,
    by decide +kernel, by decide, by decide +kernel, fun z h => ?_⟩
  · cases h
    decide +kernel
  · cases h

/-- From near memory to control SRAM, 64 bytes, one row, in the firmware's class; and the same from the host. -/
def pumpDesc (from0 : Nat) : BitVec 256 := BitVec.ofNat 256 (0x100 + 64 * 2 ^ 128 + from0 * 2 ^ 160 + 4 * 2 ^ 163 + 5 * 2 ^ 166 + 1 * 2 ^ 192)
def copyingHw : Hw := { go .work with mem := { (go .work).mem with loadBusy := true } }
theorem witness_PumpCopiesRow :
    15 < 16 ∧ (go .work).pumpServes 15 (pumpDesc 0) = true ∧ (go .work).pumpAllowed (pumpDesc 0) = true ∧ (go .work).eng.replays = []
    ∧ pumpDstSpace (pumpDesc 0) ≤ 4 ∧ pumpIdle (pumpDesc 0) = false ∧ pumpHash (pumpDesc 0) = false ∧ pumpMap (pumpDesc 0) = false
    ∧ pumpField (pumpDesc 0) 192 16 = 1 ∧ (go .work).inSpace 0 0x13F = true ∧ (go .work).inSpace 4 63 = true
    ∧ copyingHw.pumpServes 15 (pumpDesc 5) = true ∧ copyingHw.pumpAllowed (pumpDesc 5) = true ∧ pumpField (pumpDesc 5) 160 3 = 5 := by
  decide +kernel

def replay0 : Replay :=
  { who := ⟨.tile, 3⟩, unit := 0, fails := 0, ctx := none, running := false, refetch := false, owner := none }
def replayHw : Hw := { go .reserve with eng := { Engines.reset with replays := [replay0] } }
theorem witness_ReplayRunsFirstFault :
    replayHw.engOn = true ∧ replayHw.ex.image = some img
    ∧ replayHw.eng.replays.find? (fun x => !x.running && !x.refetch && x.who.kind != .lane) = some replay0 := by
  decide +kernel

/-- A speaking stream with a run in the tick, and its conditioning in place. -/
def talk : Stream :=
  { strm with
    life := .speaking
    work := { TickWork.empty with run := true }
    bank := { initialBank with sample := { initialBank.sample with fifths := 0 }
                               cond := { frame := 0, valid := true, first := true, lastFrame := false, values := [0x3C00] } } }
def talkHw : Hw := withS (go .work) talk

theorem witness_CsuPassWritesResults :
    talkHw.engOn = true ∧ 31 < 32 ∧ (⟨.csu, 31⟩ : UnitId) ∉ talkHw.eng.fenced ∧ (talkHw.csu 31).waiting = none ∧ talkHw.ex.image = some img
    ∧ talkHw.stream 4 = some talk ∧ (tickStep img 1).map TickStep.op = some (.csu [31] (.layer 0 0 0) none)
    ∧ 31 = talkHw.csuRunner img 1 4 ∧ (talkHw.csu 31).held = none ∧ talkHw.eng.replays = [] ∧ talk.synth = true
    ∧ stepCovered img talk 1 (.layer 0 0 0) = false ∧ csuReady img talk 1 (.layer 0 0 0) 0 1 = true ∧ (none : Option Nat).isSome = false
    ∧ csuOk talkHw.mem.se img talk (.layer 0 0 0) 0 1 none [] = true := by
  decide +kernel

def berm0 : Berm := { goes := 3, tag := 6, ctx := 0, samples := [[0x3C00]] }
/-- A berm with the tag expected, one without, one in a fenced unit's buffer, and one held for a released consumer and for one
that is not. -/
def bermHw : Hw :=
  let h := ((go .work).setCsu 1 { CsuUnit.reset with flag := some 5 }).setCsu 2 { CsuUnit.reset with held := some berm0 }
  { h with eng := { h.eng with fenced := [⟨.csu, 1⟩] } }
def heldHw0 : Hw := bermHw.setCsu 3 { CsuUnit.reset with released := false }
theorem witness_BermHandshake :
    bermHw.engOn = true ∧ 1 < 32 ∧ (bermHw.csu 1).flag = some 5 ∧ (bermHw.csu 1).flag ≠ some 4
    ∧ 0 < 32 ∧ (bermHw.csu 0).flag ≠ some 5 ∧ 1 ∈ csuGroup 0 ∧ 1 ≠ 0 ∧ (⟨.csu, 1⟩ : UnitId) ∈ bermHw.eng.fenced
    ∧ (∀ j ∈ csuGroup 0, (⟨.csu, j⟩ : UnitId) ∈ bermHw.eng.fenced → j = 1)
    ∧ 2 < 32 ∧ (bermHw.csu 2).held = some berm0 ∧ (bermHw.csu 3).released = true ∧ (bermHw.csu 1).held = none
    ∧ heldHw0.engOn = true ∧ (heldHw0.csu 2).held = some berm0 ∧ (heldHw0.csu 3).released = false := by
  decide +kernel

def doneLayers : Stream := { talk with work := { talk.work with cover := [(1, [(0, 1)])] } }
def laneHw : Hw := withS (go .work) doneLayers
/-- An empty lane, a lane whose lo columns are due, and a stream that is eligible. -/
theorem witness_LaneSteps_LaneIssuesRoundRobin :
    laneHw.engOn = true ∧ 23 < 24 ∧ (⟨.lane, 23⟩ : UnitId) ∉ laneHw.eng.fenced ∧ laneHw.ex.image = some img
    ∧ (laneHw.lane 23).lo = none ∧ laneHw.nextIssue img 23 = none
    ∧ ((laneHw.setLane 23 { LaneUnit.reset with lo := some 4 }).lane 23).lo = some 4
    ∧ (laneHw.lane 0).lo = none ∧ laneHw.nextIssue img 0 = some (0, 4, doneLayers) := by
  decide +kernel

def inFlight : Stream := { doneLayers with work := { doneLayers.work with lane := { doneLayers.work.lane with inFlight := true } } }
def flightHw : Hw := (withS (go .work) inFlight).setLane 0 { LaneUnit.reset with flight := [(4, 0)] }
theorem witness_LaneSteps_LaneWritesBack :
    flightHw.engOn = true ∧ 0 < 24 ∧ flightHw.ex.image = some img ∧ (flightHw.lane 0).flight = (4, inFlight.work.lane.step) :: []
    ∧ (flightHw.lane 0).lo ≠ some 4 ∧ flightHw.stream 4 = some inFlight ∧ laneStep img inFlight.work.lane.step = some lane0
    ∧ inFlight.synth = true ∧ inFlight.work.lane.inFlight = true ∧ flightHw.eng.replays = []
    ∧ stepOk flightHw.mem.se img inFlight lane0 [] = true ∧ (PassCheck.fault = .fault) := by
  decide +kernel

def rebuildHw : Hw := withS (go .work) { strm with rebuilding := true }
theorem witness_RebuildAndEviction_RebuildCompletes :
    rebuildHw.decodes = true ∧ rebuildHw.ex.image = some img ∧ rebuildHw.stream 4 = some { strm with rebuilding := true } := by
  decide +kernel

/-! ### Witnesses: memories, weights and what waits -/

/-- An expert of one granule, whose page-in waits or runs. -/
def pageHw (adm : Bool) : Hw :=
  { go .work with cat := { Catalogue.reset with pageIns := [{ idx := 3, slot := 1, admitted := adm }]
                                                voices := [(3, { Variant.reset with slot1 := { VSlot.reset with state := .current, length := 0x200000 } })] } }

theorem witness_PageInsAndTrunkCopies_PageInsAreAdmittedAndComplete :
    (pageHw false).memOn = true ∧ (pageHw false).ex.image = some img ∧ (pageHw false).cat.pagesTick < 24
    ∧ (pageHw false).cat.pageIns.find? (fun r => !r.admitted && !((pageHw false).vslot false r.idx r.slot).damaged) = some { idx := 3, slot := 1, admitted := false }
    ∧ ((pageHw false).vslot false 3 1).need ≤ cacheGranules img + (pageHw false).evictable.foldl (fun n e => n + e.2.2.need) 0 - (pageHw false).cacheUsed
    ∧ (pageHw false).cacheUsed + ((pageHw false).vslot false 3 1).need ≤ cacheGranules img
    ∧ (pageHw true).cat.pageIns.find? (fun r => r.admitted && r.idx == 3) = some { idx := 3, slot := 1, admitted := true }
    ∧ ((pageHw true).vslot false 3 1).state ≠ .free := by
  decide +kernel

/-- An expert of 2^37 bytes, for which the cache has no room. -/
def hugeHw : Hw :=
  { go .work with cat := { (pageHw false).cat with
      voices := [(3, { Variant.reset with slot1 := { VSlot.reset with state := .current, length := 0x2000000000 } })] } }
theorem witness_PageInsAndTrunkCopies_NoRoom :
    hugeHw.memOn = true ∧ hugeHw.ex.image = some img ∧ hugeHw.cat.pagesTick < 24
    ∧ hugeHw.cat.pageIns.find? (fun r => !r.admitted && !(hugeHw.vslot false r.idx r.slot).damaged) = some { idx := 3, slot := 1, admitted := false }
    ∧ cacheGranules img + hugeHw.evictable.foldl (fun n e => n + e.2.2.need) 0 - hugeHw.cacheUsed < (hugeHw.vslot false 3 1).need := by
  decide +kernel

/-- The payload "abc". -/
def staging0 : Staging :=
  { seq := 4, q := 2, tag := 9, trunk := false, idx := 3, slot := 1, entry := 0, hash := sha512 [0x61, 0x62, 0x63], length := 3, key := [], restore := false,
    copying := false, fed := [0x61], granules := [], verified := false }
def stagingHw : Hw :=
  { up with ex := { up.ex with image := some img }
            cat := { Catalogue.reset with staging := [staging0], voices := [(3, { Variant.reset with slot1 := { VSlot.reset with state := .staging } })] } }
theorem witness_FailedReads_StagingFails :
    stagingHw.decodes = true ∧ stagingHw.cat.staging = [staging0] ∧ staging0.seq = 4 ∧ staging0.copying = false ∧ staging0.restore = false
    ∧ stagingHw.streams = [] := by
  decide +kernel

/-- Every order code has at least 750 GB (R1), so the weight store has a granule. -/
theorem farCapacity_ge : 750000000000 ≤ Config.farCapacity :=
  (by decide : ∀ k : Fin 3, 750000000000 ≤ [750000000000, 1500000000000, 3000000000000].getD k.val 0) Config.farClass

theorem storeGranules_pos (h : Hw) (ht : h.mem.trainFail = none) (hb : h.storeBase ≤ 0x100200000000) : 0 < h.storeGranules := by
  have hc := farCapacity_ge
  simp only [Hw.storeGranules, Hw.workBase, Hw.farBytes, ht, farBase, Option.isSome_none, Bool.false_eq_true, if_false]
  generalize Config.farCapacity = n at hc
  generalize h.storeBase = b at hb
  omega

theorem stagingHw_storeFree : 0 ∈ stagingHw.storeFree := by
  have held : stagingHw.versions.flatMap (fun v => v.granules) ++ stagingHw.cat.staging.flatMap (fun g => g.granules) = [] := by decide +kernel
  unfold Hw.storeFree
  rw [held]
  exact List.mem_filter.mpr ⟨List.mem_range.mpr (storeGranules_pos _ rfl (by decide +kernel)), by decide⟩

theorem witness_StagedPayloadIsVerified :
    stagingHw.memOn = true ∧ stagingHw.ex.image = some img ∧ stagingHw.cat.staging = [staging0] ∧ staging0.copying = false ∧ staging0.verified = false
    ∧ staging0.trunk = false ∧ staging0.restore = false ∧ staging0.slot < 2
    ∧ manifestOf img true staging0.entry = some { expert := true, length := 3, shapes := [], blocks := [(7, 3)] } ∧ stagingHw.takeGranules 3 [0] = some [0]
    ∧ sha512 (padTo 3 (staging0.fed ++ [0x62, 0x63])) = staging0.hash ∧ sha512 (padTo 3 (staging0.fed ++ [])) ≠ staging0.hash := by
  refine ⟨by decide +kernel, by decide +kernel, by decide +kernel, rfl, rfl, rfl, rfl, by decide, by decide +kernel, ?_, by decide +kernel, by decide +kernel⟩
  simp [Hw.takeGranules, stagingHw_storeFree, granulesOf, ceilDiv]

def trunkStaging : Staging := { staging0 with trunk := true, idx := 0, slot := 2, copying := true }
def copyHw (near : Option Nat) : Hw :=
  { up with ex := { up.ex with image := some img }
            cat := { Catalogue.reset with staging := [trunkStaging], trunk2 := { VSlot.reset with state := .staging, nearSlot := near } } }
theorem witness_PageInsAndTrunkCopies_TrunkCopies :
    2 < 3 ∧ (copyHw none).memOn = true ∧ (copyHw none).ex.image = some img ∧ (copyHw none).copyDue 2 = true ∧ ((copyHw none).trunk 2).nearSlot = none
    ∧ (∀ j, j < 3 → ((copyHw none).trunk j).state ≠ .retiring) ∧ (copyHw none).freeTrunkSlot img = some 0
    ∧ (copyHw (some 0)).memOn = true ∧ ((copyHw (some 0)).trunk 2).nearSlot = some 0 ∧ ((copyHw (some 0)).trunk 2).resident = false
    ∧ ({ copyHw (some 0) with cat := { (copyHw (some 0)).cat with staging := [] } }).cat.staging = [] ∧ (copyHw (some 0)).cat.staging = [trunkStaging] ∧ trunkStaging.trunk = true ∧ trunkStaging.slot = 2 ∧ trunkStaging.copying = true := by
  decide +kernel

/-- A refetch of a version that is CURRENT; the last near address, and the first of far memory. -/
def fetchReplay : Replay := { replay0 with refetch := true, owner := some (false, 3, 1) }
def refetchHw : Hw :=
  { go .work with eng := { Engines.reset with replays := [fetchReplay] }
                  cat := { Catalogue.reset with voices := [(3, { Variant.reset with slot1 := { VSlot.reset with state := .current, length := 3 } })] } }
theorem witness_FarMemoryAndScrub_RefetchAndScrub :
    refetchHw.memOn = true ∧ refetchHw.eng.replays.find? (fun x => x.refetch && x.unit == 0 && x.owner.isSome) = some fetchReplay
    ∧ (refetchHw.vslot false 3 1).damaged = false ∧ (refetchHw.vslot false 3 1).state = .current
    ∧ 0x1FFFFFFFFF < 0x2000000000 ∧ 0x100000000000 < 0x100000000000 + up.farBytes := by
  refine ⟨by decide +kernel, by decide +kernel, by decide +kernel, by decide +kernel, by decide, ?_⟩
  unfold Hw.farBytes Config.farCapacity
  generalize Config.farClass = k
  revert k
  decide +kernel

theorem witness_FarMemoryAndScrub_FarMemoryController : up.memOn = true ∧ 47 < 48 ∧ 63 < 64 := by decide

/-- An OPEN for 48 kHz in group 1. -/
def openDesc : Desc := dsc 0x01 0 0 (4 * 2 ^ (8 * 0x24) + 0x81 * 2 ^ (8 * 0x26))
def openAdm : Admitted := { seq := 7, q := 2, owner := 3, due := 5, desc := openDesc, payload := .none, urgent := false, unread := false, pin := none }
def openHw : Hw := { go .work with rings := { Rings.reset with laneWait := [openAdm] } }
theorem witness_WaitingOpenTakesSlot :
    openHw.inTick = true ∧ openHw.ex.image = some img ∧ openHw.rings.laneWait = openAdm :: [] ∧ dOpcode openAdm.desc = 0x01
    ∧ dFormatOk openAdm.desc = true ∧ openHw.openOptions img openAdm.desc = true ∧ openHw.ex.hold = false
    ∧ openHw.ctxs.length < openHw.admitLimit ∧ bitOf (dField openAdm.desc 0x26 1) 7 = true
    ∧ openHw.phaseCount (dField openAdm.desc 0x26 1 % 8) < openHw.groupLimit ∧ openHw.freeCtx = some 0
    ∧ openHw.placeLane = some { lane := 0, slot := 0, mode := .transition } := by
  decide +kernel

/-- A queued FEED of one frame in one block of 64 bytes. -/
def feedDesc : Desc := dsc 0x02 0 0x80010004 (1 * 2 ^ (8 * 0x14) + 16 * 2 ^ (8 * 0x20))
def feedData : FeedData := { list := [[BitVec.ofNat 128 (0x1000 + 64 * 2 ^ 64 + 2 ^ 96)]], frames := [[0x3C00]] }
def feedAdm : Admitted := { seq := 7, q := 2, owner := 3, due := 5, desc := feedDesc, payload := .feed (.ok feedData), urgent := false, unread := false, pin := none }
def feeder : Stream := { strm with life := .speaking, queued := [{ a := feedAdm }], held := [{ a := feedAdm }] }
def feedHw : Hw := withS (go .work) feeder
theorem witness_WaitingFeeds_QueuedFeedApplies :
    feedHw.inTick = true ∧ feedHw.ex.image = some img ∧ feedHw.stream 4 = some feeder ∧ feeder.queued = { a := feedAdm } :: []
    ∧ feedAdm.payload = .feed (.ok feedData)
    ∧ readList (.feature (frameBytes img)) (dField feedAdm.desc 0x20 4) feedData.list = some [{ addr := 0x1000, length := 64, eou := false }]
    ∧ (listFrames (imgFw img) (frameBytes img) [{ addr := 0x1000, length := 64, eou := false }] feedData.frames).length = dField feedAdm.desc 0x14 4
    ∧ feeder.bank.utt.generation.toNat = dField feedAdm.desc 0x10 4 ∧ areaRoom img feeder.area (dField feedAdm.desc 0x14 4) = true := by
  decide +kernel

/-- An area with 100 frames of 64 bytes has no room for one more. -/
def fullFeeder : Stream := { feeder with area := { feeder.area with raw := List.replicate 100 { values := [], eou := false } } }
theorem witness_WaitingFeeds_QueuedFeedWaits :
    (withS (go .work) fullFeeder).stream 4 = some fullFeeder ∧ fullFeeder.queued = { a := feedAdm } :: []
    ∧ areaRoom img fullFeeder.area (dField feedAdm.desc 0x14 4) = false := by
  decide +kernel

theorem witness_WaitingFeeds_HeldFeedsAreReleased :
    feedHw.inTick = true ∧ feedHw.ex.image = some img ∧ feedHw.stream 4 = some feeder ∧ feeder.locked = false ∧ feeder.importSeq = none
    ∧ (feeder.life = .idle ∨ feeder.life = .speaking) := by
  decide +kernel

/-- One sample of 16 bits whose window has passed, in a block of two bytes. -/
def audioData : AudioData := { list := [[BitVec.ofNat 128 (0x1000 + 2 * 2 ^ 64 + 2 ^ 96)]], samples := [7] }
def waitAudio (r : HostRead AudioData) : WaitAudio :=
  { seq := 7, q := 2, tag := 9, handle := 0x80010004, chanB := false, start0 := 0, bits := 0, data := r, expect := 1, opened := false, lenFirst := 16, lost := [] }
def hearing (r : HostRead AudioData) : Stream :=
  { strm with audio := [waitAudio r], bank := { initialBank with sample := { initialBank.sample with nextSample := 120 } } }
theorem witness_AudioOpensAtFirstWindow :
    (withS (go .work) (hearing (.ok audioData))).inTick = true ∧ (withS (go .work) (hearing (.ok audioData))).stream 4 = some (hearing (.ok audioData))
    ∧ (hearing (.ok audioData)).audio = [waitAudio (.ok audioData)] ∧ (waitAudio (.ok audioData)).opened = false
    ∧ windowCome (hearing (.ok audioData)) (waitAudio (.ok audioData)) = true ∧ audioBlocksOk (waitAudio (.ok audioData)) audioData = true
    ∧ (withS (go .work) (hearing .failed)).inTick = true ∧ (hearing .failed).audio = [waitAudio .failed]
    ∧ windowCome (hearing .failed) (waitAudio .failed) = true ∧ (waitAudio .failed).data = .failed := by
  decide +kernel

def leaver : Stream := { strm with plan := some 5 }
def evictHw : Hw := withS (go .work) leaver
theorem witness_RebuildAndEviction_EvictionCopies :
    evictHw.inTick = true ∧ evictHw.stream 4 = some leaver ∧ leaver.plan = some evictHw.ex.tick ∧ leaver.life ≠ .lost
    ∧ evictHw.runIncomplete [] 4 leaver = false ∧ evictHw.frameIncomplete [] 4 leaver = false ∧ evictHw.chunkIncomplete [] 4 leaver = false := by
  decide +kernel

/-! ### Witnesses: set-up and registers -/

theorem witness_MaskProbability : 65536 ≤ 65536 ∧ 0 ≤ 65536 := by decide

/-- 1 and -0.5 twice, and a negative zero: finite terms whose exact sum is zero. -/
theorem witness_ZeroBlockSum :
    (∀ x ∈ [Exact.fin false 1 0, .fin true 1 (-1), .fin true 1 (-1), .fin true 0 0], ∃ neg m e, x = .fin neg m e)
    ∧ (1 : ℚ) * 2 ^ (0 : Int) + (-1 * 2 ^ (-1 : Int) + (-1 * 2 ^ (-1 : Int) + -0 * 2 ^ (0 : Int))) = 0
    ∧ toF32 (exactSum [.fin false 1 0, .fin true 1 (-1), .fin true 1 (-1), .fin true 0 0]) = 0#32 := by
  refine ⟨by simp, by norm_num, by decide⟩

/-- A load and a start in READY, a stop in a work window and in a commit window, and a start in SAFE. -/
theorem witness_TickControl :
    up.alive = true ∧ 1#64 &&& 0xFFFFFFFFFF00E0F8#64 = 0 ∧ 1#64 &&& 7#64 = 1#64 ∧ up.ex.mode = .ready ∧ up.ex.running = false
    ∧ up.ex.start = .none ∧ up.mem.loadBusy = false
    ∧ 2#64 &&& 0xFFFFFFFFFF00E0F8#64 = 0 ∧ 2#64 &&& 7#64 = 2#64 ∧ stagingHw.alive = true ∧ stagingHw.ex.mode = .ready ∧ stagingHw.ex.image ≠ none
    ∧ stagingHw.ex.running = false ∧ stagingHw.ex.start = .none ∧ stagingHw.mem.trainFail = none
    ∧ 4#64 &&& 0xFFFFFFFFFF00E0F8#64 = 0 ∧ 4#64 &&& 7#64 = 4#64 ∧ (go .commit).alive = true ∧ (go .commit).ex.running = true
    ∧ (go .commit).streams = [] ∧ (go .commit).ex.stopping = none ∧ (go .work).alive = true ∧ (go .work).ex.stopping = none
    ∧ ({ up with ex := { up.ex with mode := .safe } }).alive = true := by
  decide +kernel

def loadHw (r : Option ImageFile) : Hw := { up with ex := { up.ex with loadState := 1 }, mem := { up.mem with region := r } }

/-- An image of the sections' least content, in 4,096 bytes. -/
def fullParts : ImageParts :=
  { img.parts with
    csu := [{ csu0 with transposed := true, kernel := 5, dil := 5, weights := 0, bias := 10 }]
    blocks := [{ weights := 12, bias := 12 }]
    fe := { img.parts.fe with chunk := 64 }
    dir := { img.parts.dir with featureArea := 0x40000, f := 4 }
    tick := { steps := [{ stage := 2, place := 0, op := .tile 0 .rows 0 2 (.frameInput locB locB 0 locB locB) },
                        { stage := 6, place := 1, op := .tile 0 .rows 0 2 (.condition locA) },
                        { stage := 0, place := 0, op := .csu [31] (.layer 0 0 0) none },
                        { stage := 0, place := 0, op := .sample .lanes }, { stage := 0, place := 0, op := .sample .shaper },
                        { stage := 0, place := 0, op := .sample .extractor }]
              units := [{ first := 0, count := 6 }], masks := [], locks := 384, aux := [] }
    proof := { work := [{ kind := .tile, steps := [100, 0, 0, 0, 0, 0], units := [100] }], laneLead := 0, degraded := [] }
    extractors := (List.range 5).map (fun r => { rate := r, matrix := List.replicate 32 (List.replicate (rateN r) 0), bias := List.replicate 32 0, fn := .identity }) }

def fullImage : ImageFile :=
  { parts := fullParts
    file := padTo 4096 (padTo 256 (natBytesLE 4 0x49485349 ++ natBytesLE 2 1 ++ natBytesLE 2 0 ++ List.replicate 64 0 ++ natBytesLE 4 1
              ++ natBytesLE 2 10 ++ natBytesLE 2 2 ++ natBytesLE 4 16000 ++ [0x1F, 3, 1, 4] ++ natBytesLE 4 100 ++ natBytesLE 4 1751708
              ++ natBytesLE 2 1 ++ natBytesLE 2 1 ++ natBytesLE 4 11 ++ natBytesLE 4 256)
            ++ (List.range 11).flatMap (fun k => natBytesLE 4 (k + 1) ++ natBytesLE 4 (512 + 64 * k) ++ natBytesLE 4 64 ++ natBytesLE 4 0)) }

/-- It passes every load check but that of its hash, which the test leaves out. -/
theorem test_image_passes :
    check1 fullImage 4096 = true ∧ check2 fullImage 2 = true ∧ check4 fullImage [] = true ∧ check5 fullImage = true ∧ check6 fullImage = true
    ∧ check7 fullImage = true ∧ check8 fullImage = true ∧ check9 fullImage = true ∧ check10 fullImage = true ∧ check11 fullImage = true := by
  decide +kernel

/-- A region that holds no image fails the first check. -/
theorem witness_LoadChecksEnd :
    (loadHw none).memOn = true ∧ (loadHw none).ex.loadState = 1 ∧ (loadHw none).ex.mode = .ready ∧ (loadHw none).ex.running = false
    ∧ (loadHw none).ex.start = .none ∧ (loadHw none).checkRegion = 1 := by
  decide +kernel

def testHw (role : W32) : Hw := { up with ex := { up.ex with start := .testing }, ts := { Ticksync.reset with ctlNow := role } }
/-- A lane that passes, the last lane failing with no results and with states that differ. -/
theorem witness_SelfTestPasses :
    (testHw 2).decodes = true ∧ (testHw 2).ex.start = .testing ∧ (testHw 2).ex.safePlan = none ∧ (testHw 0).decodes = true
    ∧ (testHw 0).ex.start = .testing ∧ (testHw 0).ex.safePlan = none ∧ failsAt testVectors = none ∧ failsAt (testVectors ++ [5, 5]) = none
    ∧ testable ⟨.lane, 23⟩ = true ∧ failsAt [] ≠ none ∧ failsAt (testVectors ++ [5, 6]) ≠ none ∧ (⟨.lane, 23⟩ : UnitId) ∉ (testHw 2).eng.fenced := by
  decide

/-- Sizes at both ends of their ranges. -/
theorem witness_ImageMemory_MemoryRegionSizes :
    up.alive = true ∧ 0x10000010#64 &&& 0xFFFFFFFFE00000E0#64 = 0 ∧ 1 ≤ (0x10000010#64).toNat % 32 ∧ (0x10000010#64).toNat % 32 ≤ 16
    ∧ 1024 ≤ (0x10000010#64).toNat / 256 % 2097152 ∧ (0x10000010#64).toNat / 256 % 2097152 ≤ 1048576
    ∧ 1 ≤ (0x40001#64).toNat % 32 ∧ 1024 ≤ (0x40001#64).toNat / 256 % 2097152
    ∧ up.ex.running = false ∧ up.storeUsed = false ∧ (go .commit).ex.running = true
    ∧ (0x10000010#64).toNat % 32 ≠ (go .commit).mem.imageSize.toNat := by
  decide +kernel

/-- The worked example of far memory with 131,072 voices (file 16). -/
theorem test_far_regions :
    let h := { up with mem := { up.mem with voiceMax := 131072 } }
    h.dirBase = 0x100100000000 ∧ h.storeBase = 0x100140200000 := by
  decide +kernel

def busyHw : Hw := { up with mem := { up.mem with loadBusy := true } }
theorem witness_ImageMemory_ImageCopy :
    up.alive = true ∧ 1#64 &&& 0xFFFFFFFFFFFFFFF0#64 = 0 ∧ 1#64 &&& 1#64 = 1#64
    ∧ (up.mem.loadBusy = false ∧ up.ex.loadState ≠ 1 ∧ up.ex.mode ≠ .holding ∧ up.ex.mode ≠ .asleep)
    ∧ up.mem.loadLen.toNat ≤ up.imageRegionBytes ∧ busyHw.alive = true ∧ ¬ (busyHw.mem.loadBusy = false ∧ busyHw.ex.loadState ≠ 1)
    ∧ busyHw.memOn = true ∧ busyHw.mem.loadBusy = true := by
  decide +kernel

theorem witness_SettingsAtABoundary_TransferMode :
    ({ up with link := { up.link with tags := 1 } }).alive = true ∧ Part.both ≠ .hi ∧ carried .both 1 &&& 0xFFFF00000000FCFE#64 = 0
    ∧ carried .lo 0x100000000001 &&& 0xFFFF00000000FCFE#64 = 0 ∧ up.ex.running = false
    ∧ (1#64 &&& 1#64 = 1#64 → ({ up with link := { up.link with tags := 1 } }).link.tags ≠ 0)
    ∧ up.alive = true ∧ up.link.tags = 0 ∧ (go .work).alive = true ∧ (go .work).ex.running = true := by
  decide

def cqOnly : QueuePair := { QueuePair.reset with cqOn := true }
/-- Enabling with 65,536 entries, disabling with the size as it stands, and a credit of the whole pool. -/
theorem witness_QueueSetup_submission :
    (up.setQueue 2 cqOnly).alive = true ∧ (up.setQueue 2 cqOnly).sequencerOn = true
    ∧ Part.lo ≠ .hi ∧ carried .lo 0x110#64 &&& 0xFFFF00000000FCE0#64 = 0 ∧ (0x110#64).toNat % 32 = 16 ∧ (0x110#64).toNat.testBit 8 = true
    ∧ ((up.setQueue 2 cqOnly).queue 2).sqOn = false ∧ ((up.setQueue 2 cqOnly).queue 2).cqOn = true
    ∧ (up.setQueue 2 cqOnly).creditSum + ((up.setQueue 2 cqOnly).queue 2).credit.toNat ≤ (up.setQueue 2 cqOnly).ordinaryPool
    ∧ (withQ up).alive = true ∧ (withQ up).sequencerOn = true ∧ carried .both 4 &&& 0xFFFF00000000FCE0#64 = 0 ∧ (4#64).toNat.testBit 8 = false
    ∧ ((withQ up).queue 2).sqOn = true ∧ (4#64).toNat % 32 = ((withQ up).queue 2).sqLog.toNat
    ∧ carried .both 192 &&& 0xFFFFFFFF00000000#64 = 0 ∧ (withQ up).ordinaryPool = 192 ∧ (192#64).toNat % 65536 ≤ 192
    ∧ (withQ up).creditSum - ((withQ up).queue 2).credit.toNat + (192#64).toNat % 65536 ≤ 192 := by
  decide +kernel

/-- Enabling, disabling an idle queue, the largest vector, and the reserved one. -/
theorem witness_QueueSetup_completion :
    up.alive = true ∧ up.sequencerOn = true ∧ carried .lo 0x104 &&& 0xFCE0#64 = 0 ∧ 4 ≤ (0x104#64).toNat % 32 ∧ (0x104#64).toNat % 32 ≤ 16
    ∧ (0x104#64).toNat.testBit 9 = false ∧ (0x104#64).toNat.testBit 8 = true ∧ (up.queue 2).cqOn = false
    ∧ (up.setQueue 2 cqOnly).alive = true ∧ carried .both 4 &&& 0xFCE0#64 = 0 ∧ (4#64).toNat.testBit 8 = false ∧ ((up.setQueue 2 cqOnly).queue 2).cqOn = true
    ∧ (4#64).toNat % 32 = ((up.setQueue 2 cqOnly).queue 2).cqLog.toNat ∧ (up.setQueue 2 cqOnly).cqIdle 2 = true
    ∧ carried .lo 510 &&& 0xFFFFFFFFFFFFFE00#64 = 0 ∧ (510#64).toNat % 512 ≠ 511
    ∧ carried .lo 511 &&& 0xFFFFFFFFFFFFFE00#64 = 0 ∧ (511#64).toNat % 512 = 511 := by
  decide +kernel

theorem witness_PowerCapWrite :
    up.alive = true ∧ (2#32).toNat < 3 ∧ 3 ≤ (3#32).toNat
    ∧ exec (.registerWrite .bar2 0x28 4 1 .none) { pending := [], hw := up }
      = .next { pending := [], hw := up.whenAlive (fun h => h.registerWrite .bar2 0x28 4 1 .none) } := ⟨by decide, by decide, by decide, rfl⟩

/-- A follower's role with a delay, a filter entry, and a clear of the log in both states of the executive. -/
theorem witness_SettingsAtABoundary_LatchedWrites :
    up.alive = true ∧ 0x07FF0002#32 &&& 0xF800FFFC#32 = 0 ∧ (0x07FF0002#32).toNat % 4 ≠ 3
    ∧ 0x27C < 0x280 ∧ 0x27C % 4 = 0 ∧ 0x1C3#32 &&& 0xFFFFFE0C#32 = 0 ∧ ((0x1C3#32).toNat.testBit 8 = true → (0x1C3#32).toNat / 16 % 16 ≤ 12)
    ∧ up.ex.running = false ∧ (go .commit).alive = true ∧ (go .commit).ex.running = true := by
  decide

theorem witness_RegisterWriteSizes_StagingWindowWrite : up.alive = true ∧ 0xFFFFF8 % 8 = 0 ∧ 0xFFFFF8 + 8 ≤ 0x1000000 := by decide

theorem witness_RegisterWriteSizes_HalfRegisterWrites :
    up.alive = true ∧ up.sequencerOn = true ∧ (up.queue 255).sqOn = false ∧ 0x1000#64 &&& 0xFFF#64 = 0 := by
  decide

def ptrHw (p : W32) : Hw := { up with link := { up.link with smPtr := p } }
def railsOffHw : Hw := { Hw.reset with pwr := { Power.reset with auxUp := true, smbAddr := 3 } }
/-- A read of DEV_STATE, a write of PWR_CAP, and a write that SMBus may not make; reads and writes with the rails off; a wrong
PEC, and another address. -/
theorem witness_SmbusCommands :
    up.pwr.auxUp = true ∧ (0x5C#7).toNat = 0x5C + up.pwr.smbAddr.toNat ∧ (0x5D#7).toNat ≠ 0x5C + up.pwr.smbAddr.toNat
    ∧ (ptrHw 0x20).link.smPtr.toNat % 4 = 0 ∧ (ptrHw 0x20).pwr.railsOn = true ∧ smbusReads (ptrHw 0x20).link.smPtr.toNat = true
    ∧ (ptrHw 0x28).link.smPtr = 0x28 ∧ (ptrHw 0x28).pwr.railsOn = true ∧ (2#32).toNat < 3 ∧ smbusWrites (ptrHw 0x20).link.smPtr.toNat = false
    ∧ railsOffHw.pwr.auxUp = true ∧ (0x5F#7).toNat = 0x5C + railsOffHw.pwr.smbAddr.toNat ∧ railsOffHw.pwr.railsOn = false
    ∧ railsOffHw.link.smPtr.toNat % 4 = 0 ∧ railsOffHw.link.smPtr.toNat < 0x2000 ∧ wardenReach railsOffHw.link.smPtr.toNat = false := by
  decide +kernel

/-! ### Witnesses: firmware, attestation, link, resets and clocks -/

/-- STAGE of kind 2 with a length at the header's limit and one below it, and ABANDON. -/
theorem witness_FirmwareStagingAndAbandon_FirmwareStaging :
    up.alive = true ∧ 0x40000000009#64 &&& 0x00000000FFFFFFE0#64 = 0 ∧ (0x40000000009#64).toNat / 8 % 4 = 1 ∧ up.fwBusy = false
    ∧ (0x40000000009#64).toNat % 8 = 1 ∧ 1024 ≤ (0x40000000009#64).toNat / 2 ^ 32 ∧ (0x40000000009#64).toNat / 2 ^ 32 ≤ 1024 + payloadLimit 1
    ∧ 0x3FF00000009#64 &&& 0x00000000FFFFFFE0#64 = 0 ∧ (0x3FF00000009#64).toNat / 2 ^ 32 < 1024
    ∧ 0xB#64 &&& 0x00000000FFFFFFE0#64 = 0 ∧ (0xB#64).toNat % 8 = 3 ∧ (0xB#64).toNat / 8 % 4 = 1 := by
  decide +kernel

def stagingFw : Hw := { up with sec := { up.sec with pendingKind := some 1, pendingObj := [1, 2] } }
theorem witness_FirmwareStagingAndAbandon_StagingEnds : stagingFw.sec.pendingKind = some 1 := by decide

def blobFw (run staged : Bool) : Hw :=
  { up with ex := { up.ex with running := run }, sec := { up.sec with fw := [(3, { FwSlot.reset with staged := staged })] } }
def liveFw : Hw := { go .work with sec := { up.sec with live := some (0, 5), fw := [(0, { FwSlot.reset with runs := some [], staged := true })] } }
def trialFw : Hw := { up with sec := { up.sec with fw := [(0, { FwSlot.reset with runs := some [], trial := true })] } }
/-- ACTIVATE of a blob with nothing staged, while running and while stopped; a switch due and one that is not; a trial. -/
theorem witness_FirmwareActivation :
    (blobFw false false).alive = true ∧ 0x1A#64 &&& 0x00000000FFFFFFE0#64 = 0 ∧ (0x1A#64).toNat % 8 = 2 ∧ (0x1A#64).toNat / 8 % 4 = 3
    ∧ (blobFw false false).fwBusy = false ∧ ((blobFw false false).fwSlot 3).staged = false
    ∧ (blobFw true true).alive = true ∧ (blobFw true true).fwBusy = false ∧ ((blobFw true true).fwSlot 3).staged = true ∧ (blobFw true true).ex.running = true
    ∧ (blobFw false true).alive = true ∧ (blobFw false true).fwBusy = false ∧ ((blobFw false true).fwSlot 3).staged = true
    ∧ liveFw.pwr.booted = true ∧ liveFw.sec.live = some (0, 5) ∧ liveFw.ex.running = true ∧ (5 : W64) ≤ liveFw.ex.tick
    ∧ ({ liveFw with ex := { liveFw.ex with tick := 4 } }).ex.tick < (5 : W64)
    ∧ trialFw.pwr.booted = true ∧ (trialFw.fwSlot 0).trial = true ∧ trialFw.ex.running = false := by
  decide +kernel

/-- A table whose one row lists version 0 of the Sequencer and of the Warden on this hardware. -/
def tableRow (r : BitVec 8) : List Byte := natBytesLE 4 1 ++ List.replicate 60 0 ++ [r] ++ List.replicate 31 0
def tableObj (r : BitVec 8) : List Byte := List.replicate 1024 0 ++ tableRow r
theorem tableObj_lists (r : BitVec 8) : (findRow (objPayload (tableObj r)) r 0 0).isSome = true := by
  have h : leField (tableRow r) 64 1 = r.toNat := by
    rw [leField, tableRow, List.append_assoc, List.drop_left' (by decide)]
    simp [padTo, bytesToNatLE, bytesToNat]
  have n : leField (tableRow r) 0 4 = 1 := by rfl
  have s : leField (tableRow r) 68 4 = 0 := by rfl
  have w : leField (tableRow r) 72 4 = 0 := by rfl
  have e : objPayload (tableObj r) = tableRow r := List.drop_left' List.length_replicate
  simp [e, findRow, n, h, s, w, List.range_succ]
def wardenHw : Hw :=
  { up with sec := { up.sec with fw := [(0, { FwSlot.reset with runs := some [] }), (1, { FwSlot.reset with runs := some [], staged := true }),
                                        (2, { FwSlot.reset with runs := some (tableObj Config.hwRev) })] } }
/-- ACTIVATE of a staged Warden of a listed combination while one runs. -/
theorem witness_FirmwareActivation_Warden :
    wardenHw.alive = true ∧ 0xA#64 &&& 0x00000000FFFFFFE0#64 = 0 ∧ (0xA#64).toNat % 8 = 2 ∧ (0xA#64).toNat / 8 % 4 = 1 ∧ wardenHw.fwBusy = false
    ∧ (wardenHw.fwSlot 1).staged = true ∧ wardenHw.ex.running = false ∧ wardenHw.war.on = true ∧ (wardenHw.stagedRow 1).isSome = true :=
  ⟨by rfl, by decide, by decide, by decide, by rfl, by rfl, by rfl, by rfl, tableObj_lists Config.hwRev⟩

def report0 : Report :=
  { nonce := 0, epoch := 0, devState := 0, hwRev := 0, serial := 0, meas := [], logCount := 0, overflow := false, versions := [], imageHash := 0 }
def reportHw (key : Bool) : Hw := { up with sec := { up.sec with busy := true, capture := some report0, keyOk := key } }
theorem witness_AttestationReports :
    up.alive = true ∧ 1#64 &&& 0xFFFFFFFFF800FFC0#64 = 0 ∧ 1#64 &&& 1#64 = 1#64 ∧ up.sec.busy = false ∧ (reportHw true).alive = true
    ∧ (reportHw true).sec.busy = true ∧ (reportHw true).sec.capture = some report0 ∧ (reportHw true).sec.keyOk = true ∧ (reportHw false).sec.keyOk = false := by
  decide +kernel

/-- The fastest link; a link lost while stopped, in a tick and in a commit window; a pool that widens, and one that narrows
under credits of 900. -/
def creditHw : Hw := { up.setQueue 2 { qp with credit := 900 } with link := { up.link with tags := 1 } }
theorem witness_LinkAndMessages_LinkEvents :
    up.pwr.railsOn = true ∧ up.pwr.perst = false ∧ (6#4).toNat ≤ 6 ∧ (4#4).toNat ≤ 4 ∧ up.ex.running = false
    ∧ (go .work).ex.running = true ∧ (go .work).ex.window ≠ .commit ∧ (go .commit).ex.running = true ∧ (go .commit).ex.window = .commit
    ∧ (go .commit).ex.rerun = false ∧ ({ go .commit with ex := { (go .commit).ex with rerun := true } }).ex.rerun = true
    ∧ up.pwr.booted = true ∧ (2 : BitVec 2) ≠ 3 ∧ up.ordinaryPool ≤ ({ up with link := { up.link with tags := 2 } }).ordinaryPool
    ∧ creditHw.pwr.booted = true ∧ (0 : BitVec 2) ≠ 3
    ∧ ({ creditHw with link := { creditHw.link with tags := 0 } }).ordinaryPool < creditHw.ordinaryPool
    ∧ ({ creditHw with link := { creditHw.link with tags := 0 } }).ordinaryPool < ({ creditHw with link := { creditHw.link with tags := 0 } }).creditSum := by
  decide +kernel

def pendHw (p : Bool) : Hw := { up with msix := [(511, { addr := 0x1000, data := 5, masked := true, pending := p })] }
theorem witness_LinkAndMessages_MsixUnmasking :
    (pendHw true).alive = true ∧ (pendHw true).link.msixOn = true ∧ (pendHw true).link.funcMask = false ∧ (pendHw true).link.up = true
    ∧ (pendHw true).ex.linkLost = false ∧ (∀ e ∈ (pendHw true).msix, e.1 ≠ 511 → e.2.pending = false ∨ e.2.masked = true)
    ∧ (tget MsixEntry.reset (pendHw true).msix 511).pending = true ∧ (tget MsixEntry.reset (pendHw false).msix 511).pending = false
    ∧ up.pwr.railsOn = true ∧ up.pwr.booted = true ∧ up.pwr.perst = false ∧ (0x4000#64).toNat.testBit 14 = true
    ∧ (0x4000#64).toNat.testBit 15 = false := by
  decide +kernel

def dark : Hw := { Hw.reset with pwr := { Power.reset with auxUp := true, railsOn := true, pgood := true } }
theorem witness_BootPhases :
    Hw.reset.pwr.wDone = false ∧ Hw.reset.pwr.refclk = .running ∧ ({ dark with pwr := { dark.pwr with wDone := true } }).pwr.wDone = true
    ∧ dark.pwr.railsOn = true ∧ dark.pwr.pgood = true ∧ dark.pwr.booted = false ∧ dark.pwr.refclk = .running
    ∧ (∀ e, some (47, 3) = some e → (e : Nat × Nat).1 < 48) := by
  refine ⟨by decide, by decide, by decide, by decide, by decide, by decide, by decide, fun e h => ?_⟩
  cases h
  decide +kernel

/-- Rails off and on; before the boot, and under PERST#; stopped, in a tick, and in a commit window. -/
theorem witness_Resets :
    Hw.reset.pwr.railsOn = false ∧ up.pwr.railsOn = true ∧ dark.pwr.booted = false ∧ ({ up with pwr := { up.pwr with perst := true } }).pwr.perst = true
    ∧ up.pwr.booted = true ∧ up.pwr.perst = false ∧ up.ex.running = false
    ∧ (go .work).pwr.booted = true ∧ (go .work).pwr.perst = false ∧ (go .work).ex.running = true ∧ (go .work).ex.window ≠ .commit
    ∧ (go .commit).pwr.booted = true ∧ (go .commit).ex.running = true ∧ (go .commit).ex.window = .commit ∧ (go .commit).ex.rerun = false := by
  decide +kernel

theorem witness_Supplies :
    up.pwr.auxUp = true ∧ up.pwr.railsOn = true ∧ Hw.reset.pwr.railsOn = false ∧ Hw.reset.pwr.auxUp = false := by decide

def asleepHw : Hw := { up with ex := { up.ex with mode := .asleep }, pwr := { up.pwr with dstate := .d3hot }, mem := { up.mem with nearSelf := true, farSelf := true } }
theorem witness_SleepKeepsMemory :
    up.alive = true ∧ up.ex.running = false ∧ up.ex.start = .none ∧ up.mem.farSelf = false ∧ (go .work).alive = true ∧ (go .work).ex.running = true
    ∧ asleepHw.ex.mode = .asleep ∧ asleepHw.pwr.dstate = .d3hot ∧ asleepHw.pwr.railsOn = true ∧ asleepHw.pwr.refclk = .running := by
  decide +kernel

def clockHw (r : RefclkState) (linkUp : Bool) : Hw :=
  { go .work with pwr := { up.pwr with refclk := r, syncTimeout := true }, link := { up.link with up := linkUp } }
theorem witness_ReferenceClockLoss :
    (clockHw .running true).pwr.refclk = .running ∧ (clockHw .holdover true).pwr.refclk = .holdover ∧ (clockHw .stopped true).pwr.refclk = .stopped
    ∧ (clockHw .stopped true).ex.mode ≠ .asleep ∧ (clockHw .stopped true).ex.running = true ∧ (clockHw .stopped true).link.up = true
    ∧ (clockHw .holdover true).mem.farSelf = false ∧ (clockHw .stopped true).pwr.refclk ≠ .running
    ∧ (clockHw .stopped false).link.up = false ∧ (clockHw .stopped false).ex.running = true ∧ (clockHw .running true).pwr.syncTimeout = true
    ∧ up.pwr.syncTimeout = false ∧ ({ asleepHw with pwr := { asleepHw.pwr with refclk := .stopped } }).pwr.refclk ≠ .running
    ∧ asleepHw.ex.running = false ∧ asleepHw.ex.mode = .asleep ∧ (clockHw .stopped true).ex.linkLost = false
    ∧ ({ clockHw .stopped true with ex := { (clockHw .stopped true).ex with linkLost := true } }).ex.linkLost = true := by
  decide +kernel

def followHw (sl : List Int) : Hw := { go .work with ts := { Ticksync.reset with ctlNow := 2, slips := sl } }
/-- A start's edge; edges at both ends of each range; a fourth slip. -/
theorem witness_TicksyncEdges :
    ({ up with ex := { up.ex with start := .waitEdge } }).decodes = true ∧ (followHw []).follows = true ∧ (followHw []).ex.start = .none
    ∧ (followHw []).pwr.syncTimeout = false ∧ (8192 : Int) < 8193 ∧ (-8193 : Int) < -8192 ∧ (-2 : Int) ≤ 2
    ∧ (-8192 : Int) ≤ 3 ∧ (3 : Int) ≤ 8192 ∧ (2 : Int) < 3 ∧ (followHw []).ts.slips.length < 3
    ∧ (followHw [8192, 8192, 8192]).follows = true ∧ (followHw [8192, 8192, 8192]).ts.slips = [8192, 8192, 8192] := by
  decide +kernel

/-! ### Witnesses: the Warden, the ports and the counter -/

/-- Channel 3 enabled with a median of 3 and s = 2, sampled before and not; a code of −32,768. -/
def scanHw (c : Channel) : Hw := { go .work with war := { up.war with policyNow := [(3, 0x121)], chans := [(3, c)] } }
theorem witness_WardenScanFilters :
    (scanHw Channel.reset).wardenOn = true ∧ (scanHw Channel.reset).ex.running = true ∧ up.wardenOn = true ∧ up.latches = [] ∧ 3 < 160 ∧ (scanHw Channel.reset).samples 3 = true
    ∧ ((scanHw Channel.reset).chan 3).sampled = false ∧ (-32768 : Int) ≤ (scanHw Channel.reset).code (List.replicate 160 0x8000) 3
    ∧ (scanHw Channel.reset).code (List.replicate 160 0x8000) 3 ≤ 65535
    ∧ ((scanHw { Channel.reset with sampled := true, y := 256, win := [1, 1, 1, 1, 1, 1, 1] }).chan 3).sampled = true
    ∧ (scanHw { Channel.reset with sampled := true, y := 256, win := [1, 1, 1, 1, 1, 1, 1] }).samples 3 = true := by
  decide +kernel

/-- Rule 5 throttles cluster 7 down to 14 from `m`. -/
def heldHw (m : Nat) : Hw :=
  { go .work with war := { up.war with rules := [(5, { RuleRun.reset with tripped := true })], m := [(7, m)]
                                       policyNow := [(276, 0x01010001), (278, 0xE801), (279, 5)] } }
def overHw : Hw := { go .work with war := { up.war with m := [(3, 1)], chans := [(0x72, { Channel.reset with sampled := true, filtered := 11501 })] } }
theorem witness_ThrottleAndTrip_ThrottleSteps :
    (heldHw 15).wardenOn = true ∧ (heldHw 15).enginesOn = true ∧ (heldHw 15).holders 7 = [5] ∧ (heldHw 15).lowest ((heldHw 15).holders 7) = 14
    ∧ ((heldHw 15).mOf 7) < (heldHw 15).lowest ((heldHw 15).holders 7) + 2
    ∧ (heldHw 16).wardenOn = true ∧ (heldHw 16).enginesOn = true ∧ (heldHw 16).holders 7 ≠ []
    ∧ (heldHw 16).lowest ((heldHw 16).holders 7) + 2 ≤ (heldHw 16).mOf 7 ∧ (go .work).wardenOn = true
    ∧ (go .work).enginesOn = true ∧ (go .work).holders 7 = [] ∧ (go .work).war.capActive = false ∧ (go .work).diodeHot = false
    ∧ (go .work).aboveCap = false ∧ ({ go .work with war := { up.war with capActive := true } }).war.capActive = true
    ∧ ({ go .work with war := { up.war with chans := [(63, { Channel.reset with sampled := true, raw := 1920 })] } }).diodeHot = true
    ∧ overHw.wardenOn = true ∧ overHw.enginesOn = true ∧ overHw.aboveCap = true := by
  decide +kernel

theorem witness_ThrottleAndTrip_TripAndWatchdog :
    (go .work).pwr.railsOn = true ∧ (go .work).ex.running = true ∧ (go .work).wardenOn = true ∧ up.pwr.railsOn = true ∧ up.ex.running = false
    ∧ up.ex.mode ≠ .asleep ∧ up.pwr.booted = true ∧ asleepHw.pwr.railsOn = true ∧ asleepHw.ex.mode = .asleep ∧ dark.pwr.railsOn = true
    ∧ Hw.reset.pwr.railsOn = false := by
  decide

def safeHw (w : Window) (now : Bool) : Hw := { withS (go w) strm with ex := { (go w).ex with safePlan := some 3, safeTick := now } }
theorem witness_SafeIsEntered :
    (safeHw .commit false).decodes = true ∧ (safeHw .commit false).ex.running = true ∧ (safeHw .commit false).ex.rerun = false
    ∧ (safeHw .commit false).ex.safePlan = some 3 ∧ (safeHw .commit false).ex.window = .commit ∧ (safeHw .commit false).ex.stopping = none
    ∧ (safeHw .commit false).pwr.syncTimeout = false
    ∧ (safeHw .reserve true).decodes = true ∧ (safeHw .reserve true).ex.running = true ∧ (safeHw .reserve true).ex.safePlan = some 3
    ∧ (safeHw .reserve true).ex.window = .reserve ∧ (safeHw .reserve true).ex.safeTick = true
    ∧ ({ up with ex := { up.ex with safePlan := some 3 } }).ex.safePlan = some 3 ∧ up.ex.running = false := by
  decide +kernel

/-- Port 15 with nothing bound to it, and with a stream routed to it. -/
def routedHw : Hw := withS (go .work) { strm with route := some (15, 0) }
theorem witness_PortRegisters :
    up.alive = true ∧ 0x23#32 &&& 0xFFFFFFC0#32 = 0 ∧ (0x23#32).toNat / 8 % 8 ≤ 4 ∧ badMaster 0x23 (up.port 15).fmt = false ∧ up.portUsed 15 = false
    ∧ (6#32).toNat < 8 ∧ (6#32).toNat % 4 ≠ 3 ∧ badMaster (up.port 15).ctl 6 = false ∧ (3#32).toNat < 4
    ∧ routedHw.alive = true ∧ routedHw.portUsed 15 = true ∧ (0x22#32 ^^^ (routedHw.port 15).ctl) &&& 0x3E#32 ≠ 0 ∧ 0x22#32 &&& 0xFFFFFFC0#32 = 0 := by
  decide +kernel

def inPort : Port := { Port.reset with ctlNow := 0x21, state := .running, locked := true }
def inHw (x : Port) : Hw := (go .work).setPort 15 x
def pairFrame : PortFrame := { bclks := 64, wsEdges := 1, period := 16667, slot0 := 0xF8720000, slot1 := 0x4E1F0000 }
def plainFrame : PortFrame := { bclks := 64, wsEdges := 1, period := 16667, slot0 := 1, slot1 := 2 }
theorem witness_PortFrames_InputFrames :
    (inHw inPort).portOn 15 = true ∧ ((inHw inPort).port 15).isOutput = false ∧ ((inHw inPort).port 15).slave = false
    ∧ ((inHw inPort).port 15).state = .running ∧ (inHw inPort).ex.running = true ∧ ((inHw inPort).port 15).openLine = false ∧ ((inHw inPort).port 15).openClock = false
    ∧ preamble (upper16 ((inHw inPort).port 15).width pairFrame.slot0) (upper16 ((inHw inPort).port 15).width pairFrame.slot1) = true
    ∧ preamble (upper16 ((inHw inPort).port 15).width plainFrame.slot0) (upper16 ((inHw inPort).port 15).width plainFrame.slot1) = false
    ∧ ((inHw inPort).port 15).audioWord = none
    ∧ ((inHw { inPort with audioWord := some 0xF872 }).port 15).audioWord = some 0xF872
    ∧ preamble 0xF872 (upper16 ((inHw inPort).port 15).width 0x4E1F0000) = true
    ∧ ((inHw { inPort with nonaudio := true }).port 15).nonaudio = true ∧ ((inHw { inPort with nonaudio := true }).port 15).holdLeft = 0 := by
  decide +kernel

def outPort (zb : Int) : Port :=
  { Port.reset with ctlNow := 0x23, state := .running, locked := true, frameNo := 120, outQueue := [(0, 0xF8720000), (1, zb), (0, 3), (1, 4)] }
theorem witness_PortFrames_OutputFrames :
    (inHw (outPort 5)).portOn 15 = true ∧ (inHw (outPort 5)).ex.running = true ∧ ((inHw (outPort 5)).port 15).isOutput = true
    ∧ ((inHw (outPort 5)).port 15).slave = false ∧ ((inHw (outPort 5)).port 15).state = .running
    ∧ ((inHw (outPort 5)).port 15).outQueue = [(0, 0xF8720000), (1, 5), (0, 3), (1, 4)]
    ∧ preamble ((inHw (outPort 5)).port 15).lastOut (upper16 32 0xF8720000) = false ∧ ((inHw (outPort 5)).port 15).width = 32
    ∧ preamble (upper16 32 0xF8720000) (upper16 32 5) = false ∧ preamble (upper16 32 0xF8720000) (upper16 32 0x4E1F0000) = true
    ∧ ((inHw (outPort 5)).port 15).n ≤ ((inHw (outPort 5)).port 15).frameNo := by
  decide +kernel

/-- A slave port that waits for its follower. -/
def slavePort : Port := { Port.reset with ctlNow := 0x25, state := .muted, stable := 64, periods := List.replicate 64 41666 }
/-- A muted output, and an output that follows its partner's clock. -/
theorem witness_PortFrames_MutedAndFollowingOutputs :
    (inHw { outPort 5 with state := .muted }).portOn 15 = true ∧ ((inHw { outPort 5 with state := .muted }).port 15).isOutput = true
    ∧ ((inHw { outPort 5 with state := .muted }).port 15).state = .muted
    ∧ (inHw { slavePort with ctlNow := 0x27, state := .running }).portOn 15 = true
    ∧ ((inHw { slavePort with ctlNow := 0x27, state := .running }).port 15).isOutput = true
    ∧ ((inHw { slavePort with ctlNow := 0x27, state := .running }).port 15).slave = true
    ∧ ((inHw { slavePort with ctlNow := 0x27, state := .running }).port 15).state = .running
    ∧ ((inHw { slavePort with ctlNow := 0x27, state := .running, maskNow := 1, ramp := 64 }).port 15).live 1 = false
    ∧ ((inHw { slavePort with ctlNow := 0x27, state := .running, maskNow := 1, ramp := 64 }).port 15).ramp = 64 := by
  decide +kernel

theorem witness_PortFaults :
    (inHw slavePort).portOn 15 = true ∧ ((inHw slavePort).port 15).slave = true ∧ ((inHw slavePort).port 15).state = .muted
    ∧ ((inHw slavePort).port 15).clockless = false ∧ ((inHw { slavePort with clockless := true }).port 15).clockless = true
    ∧ ((inHw slavePort).port 15).openLine = false ∧ ((inHw { inPort with openLine := true }).port 15).openLine = true
    ∧ 64 ≤ ((inHw slavePort).port 15).stable ∧ (inHw (outPort 5)).decodes = true ∧ ((inHw (outPort 5)).port 15).state = .running
    ∧ ((inHw (outPort 5)).port 15).isOutput = true ∧ (inHw inPort).decodes = true ∧ ((inHw inPort).port 15).state = .running
    ∧ ((inHw inPort).port 15).isOutput = false ∧ ((inHw inPort).port 15).openLine = false
    ∧ ((inHw slavePort).port 15).openClock = false ∧ (inHw { slavePort with openClock := true }).portOn 15 = true
    ∧ ((inHw { slavePort with openClock := true }).port 15).openClock = true := by
  decide +kernel

/-- The widest gate; a counter armed, and one with its gate open; counts at the limit. -/
def fmHw (a g : Bool) : Hw := { up with fm := { Fmeas.reset with armed := a, gate := g } }
theorem witness_FrequencyCounter :
    up.alive = true ∧ 0x011E0301#32 &&& 0xFCE0C0C0#32 = 0 ∧ fmeasSource ((0x011E0301#32).toNat % 64) = true
    ∧ fmeasSource ((0x011E0301#32).toNat / 256 % 64) = true ∧ 4 ≤ (0x011E0301#32).toNat / 65536 % 32 ∧ (0x011E0301#32).toNat / 65536 % 32 ≤ 30
    ∧ (0x011E0301#32).toNat.testBit 24 = true ∧ (fmHw true false).decodes = true ∧ (fmHw true false).fm.armed = true
    ∧ (fmHw false true).decodes = true ∧ (fmHw false true).fm.gate = true ∧ 2 ^ 40 - 1 < 2 ^ 40 ∧ 2 ^ 40 ≤ 2 ^ 40 := by
  decide +kernel


end Sys2Proof.Tests
end

section
/-!
PROOF. The exact sum of a block of finite terms adds their rational values, so a block of value zero sums to +0.0 (R59, R109).
-/
namespace Sys2Proof.BlockSum
open Sys2Proof.Machine

/-- The rational number that a finite exact value stands for; NaN and the infinities stand for none and give 0. -/
def ratValue : Exact → ℚ
  | .fin neg m e => (signedOf neg m : ℚ) * 2 ^ e
  | _ => 0

@[simp] theorem ratValue_fin (neg : Bool) (m : Nat) (e : Int) : ratValue (.fin neg m e) = (signedOf neg m : ℚ) * 2 ^ e := rfl

theorem cast_signedOf (neg : Bool) (m : Nat) : (signedOf neg m : ℚ) = if neg then -(m : ℚ) else m := by
  cases neg <;> simp [signedOf]

@[simp] theorem signedOf_mul (neg : Bool) (m k : Nat) : signedOf neg (m * k) = signedOf neg m * k := by
  cases neg <;> simp [signedOf]

theorem signedOf_eq_zero_iff (neg : Bool) (m : Nat) : signedOf neg m = 0 ↔ m = 0 := by
  cases neg <;> simp [signedOf]

theorem signedOf_natAbs (z : Int) : signedOf (decide (z < 0)) z.natAbs = z := by
  by_cases hz : z < 0
  · simp only [signedOf, hz, decide_true, if_true]; omega
  · simp only [signedOf, hz, decide_false, Bool.false_eq_true, if_false]; omega

@[simp] theorem nonfinite_ofInt (z e : Int) (zeroNeg : Bool) : (ofInt z e zeroNeg).nonfinite = false := by
  by_cases hz : z = 0 <;> simp [ofInt, hz, Exact.nonfinite]

@[simp] theorem ratValue_ofInt (z e : Int) (zeroNeg : Bool) : ratValue (ofInt z e zeroNeg) = z * 2 ^ e := by
  by_cases hz : z = 0
  · simp [ofInt, hz, cast_signedOf]
  · simp [ofInt, hz, signedOf_natAbs]

/-- A significand aligned down to the lower exponent `l` keeps its value. -/
theorem two_zpow_align {l e : Int} (h : l ≤ e) : (2 : ℚ) ^ (e - l).toNat * 2 ^ l = 2 ^ e := by
  rw [← zpow_natCast, Int.toNat_of_nonneg (by omega), ← zpow_add₀ two_ne_zero, sub_add_cancel]

theorem nonfinite_add {x y : Exact} (hx : x.nonfinite = false) (hy : y.nonfinite = false) : (x.add y).nonfinite = false := by
  match x, y with
  | .fin .., .fin .. => simp [Exact.add]

theorem ratValue_add {x y : Exact} (hx : x.nonfinite = false) (hy : y.nonfinite = false) :
    ratValue (x.add y) = ratValue x + ratValue y := by
  match x, y with
  | .fin a m e, .fin b n g =>
    have he := two_zpow_align (min_le_left e g)
    have hg := two_zpow_align (min_le_right e g)
    rw [Exact.add, ratValue_ofInt, ratValue_fin, ratValue_fin, signedOf_mul, signedOf_mul]
    push_cast
    rw [add_mul, mul_assoc, mul_assoc, he, hg]

/-- Adding finite terms one by one stays finite and adds their values: no term is lost to rounding (R59). -/
theorem foldl_add_exact (ts : List Exact) (hts : ∀ x ∈ ts, x.nonfinite = false) (acc : Exact) (hacc : acc.nonfinite = false) :
    (ts.foldl Exact.add acc).nonfinite = false ∧ ratValue (ts.foldl Exact.add acc) = ratValue acc + (ts.map ratValue).sum := by
  induction ts generalizing acc with
  | nil => simp [hacc]
  | cons x xs ih =>
    obtain ⟨hx, hxs⟩ := List.forall_mem_cons.mp hts
    obtain ⟨hfin, hval⟩ := ih hxs (acc.add x) (nonfinite_add hacc hx)
    exact ⟨hfin, by rw [List.foldl_cons, hval, ratValue_add hacc hx, List.map_cons, List.sum_cons, add_assoc]⟩

theorem ratValue_fin_eq_zero_iff (neg : Bool) (m : Nat) (e : Int) : ratValue (.fin neg m e) = 0 ↔ m = 0 := by
  rw [ratValue_fin, mul_eq_zero_iff_right (zpow_ne_zero e two_ne_zero), Int.cast_eq_zero, signedOf_eq_zero_iff]

/-- A block of value zero has the positive zero as its exact sum, at some exponent, whatever signs its zeros carry. -/
theorem exactSum_of_sum_eq_zero {ts : List Exact} (hts : ∀ x ∈ ts, x.nonfinite = false) (hsum : (ts.map ratValue).sum = 0) :
    ∃ e, exactSum ts = .fin false 0 e := by
  obtain ⟨hfin, hval⟩ := foldl_add_exact ts hts (.fin false 0 0) rfl
  rw [hsum, add_zero, (ratValue_fin_eq_zero_iff false 0 0).mpr rfl] at hval
  unfold exactSum
  match ts.foldl Exact.add (.fin false 0 0), hfin, hval with
  | .fin neg m e, _, hval => exact ⟨e, if_pos ((ratValue_fin_eq_zero_iff neg m e).mp hval)⟩

/-- The positive zero of every exponent rounds to the word of +0.0. -/
theorem toF32_fin_zero (e : Int) : toF32 (.fin false 0 e) = 0#32 := rfl

/-- Settles O33: the exact sum keeps the terms' rational value, and a zero value is given the positive sign. -/
theorem zeroBlockSum : Obligations.ZeroBlockSum := by
  unfold Obligations.ZeroBlockSum
  intro value ts hts hsum
  have hvalue : value = ratValue := by
    funext x
    cases x with
    | fin neg m e => rw [ratValue_fin, cast_signedOf]
    | nan => rfl
    | inf neg => rfl
  have hfin : ∀ x ∈ ts, x.nonfinite = false := by
    intro x hx
    obtain ⟨neg, m, e, rfl⟩ := hts x hx
    rfl
  obtain ⟨e, he⟩ := exactSum_of_sum_eq_zero hfin (hvalue ▸ hsum)
  rw [he, toF32_fin_zero]

end Sys2Proof.BlockSum
end

section
/-!
PROOF. A mask compares the top 16 bits of its draw with its probability, and those bits take 65,536 values (R191, R198).
-/
namespace Sys2Proof.Masks
open Sys2Proof.Machine

theorem maskBits_eq_div (z : W64) : maskBits z = z.toNat / 2 ^ 48 := by
  rw [maskBits, BitVec.toNat_ushiftRight, Nat.shiftRight_eq_div_pow]

theorem maskBits_lt (z : W64) : maskBits z < 65536 := by
  rw [maskBits_eq_div]
  exact Nat.div_lt_of_lt_mul z.isLt

theorem maskYes_iff (seed stream : W64) (p : Purpose) (element step m : Nat) :
    maskYes seed stream p element step m = true ↔ maskBits (drawAt seed stream p element step 0) < m :=
  decide_eq_true_iff

theorem maskYes_zero (seed stream : W64) (p : Purpose) (element step : Nat) : maskYes seed stream p element step 0 = false :=
  decide_eq_false (Nat.not_lt_zero _)

theorem maskYes_full (seed stream : W64) (p : Purpose) (element step : Nat) :
    maskYes seed stream p element step 65536 = true :=
  (maskYes_iff ..).mpr (maskBits_lt _)

/-- Of the numbers below `n`, exactly `m` lie below a bound `m` that does not exceed `n`. -/
theorem length_range_filter_lt {n m : Nat} (h : m ≤ n) :
    ((List.range n).filter (fun u => decide (u < m))).length = m := by
  rw [← List.Ico.zero_bot, List.Ico.filter_lt_of_ge h, List.Ico.length, Nat.sub_zero]

/-- Settles O32: the mask's bits are the draw divided by 2^48, a number below 65,536. -/
theorem maskProbability : Obligations.MaskProbability := by
  unfold Obligations.MaskProbability
  intro seed stream p element step m hm
  have hyes := maskYes_iff seed stream p element step m
  rw [maskBits_eq_div] at hyes
  exact ⟨hyes, maskYes_zero .., maskYes_full .., length_range_filter_lt hm⟩

end Sys2Proof.Masks
end

section
/-!
PROOF. PWR_CAP takes a legal code and latches it for the next boundary. A write through BAR2 rings a doorbell or is dropped, and
neither reaches the register (R14, R235, R343).
-/
namespace Sys2Proof.PowerCap
open Sys2Proof.Machine

/-- PWR_CAP as written, the cap in force, and the writes that wait for a boundary. -/
def capState (h : Hw) : W32 × W32 × List (Nat × LatchItem) := (h.pwrCap, h.pwrCapNow, h.latches)

theorem capState_eq_iff (h k : Hw) :
    capState h = capState k ↔ h.pwrCap = k.pwrCap ∧ h.pwrCapNow = k.pwrCapNow ∧ h.latches = k.latches := by
  simp only [capState, Prod.mk.injEq]

/-! ### Doorbells -/

theorem capState_issueTurns (k : Nat) (h : Hw) : capState (issueTurns k h) = capState h := by
  induction k generalizing h with
  | zero => rfl
  | succ k ih =>
    rw [issueTurns]
    split
    · rfl
    · exact ih _

theorem capState_issueReads (h : Hw) : capState h.issueReads = capState h := capState_issueTurns ..

theorem capState_sqTailWrite (h : Hw) (q off : Nat) (w : W32) : capState (h.sqTailWrite q off w) = capState h := by
  simp only [Hw.sqTailWrite]
  split
  · rfl
  split
  · rfl
  exact capState_issueReads _

theorem capState_cqHeadWrite (h : Hw) (q off : Nat) (w : W32) : capState (h.cqHeadWrite q off w) = capState h := by
  unfold Hw.cqHeadWrite
  split <;> rfl

theorem capState_doorbellWrite (h : Hw) (q r size off : Nat) (d : W64) :
    capState (h.doorbellWrite q r size off d) = capState h := by
  simp only [Hw.doorbellWrite]
  split
  · exact capState_sqTailWrite ..
  split
  · exact capState_cqHeadWrite ..
  split
  · rw [capState_cqHeadWrite, capState_sqTailWrite]
  · rfl

/-! ### A write request to BAR2 -/

theorem capState_bar2Write (h : Hw) (o off size : Nat) (d : W64) : capState (h.bar2Write o off size d) = capState h := by
  unfold Hw.bar2Write
  split
  · exact capState_doorbellWrite ..
  · rfl

/-- To the write itself `viaBar2` adds the count of dropped ones only. -/
theorem capState_viaBar2 (h : Hw) (f : Hw → Hw) : capState (h.viaBar2 f) = capState (f h) := by
  unfold Hw.viaBar2
  split <;> rfl

theorem capState_viewWrite_bar2 (h : Hw) (off size : Nat) (d : W64) :
    capState (h.viewWrite .bar2 off size d) = capState h := by
  rw [Hw.viewWrite, capState_viaBar2]
  split
  · exact capState_bar2Write ..
  · rfl

theorem capState_viewDrop_bar2 (h : Hw) (off : Nat) : capState (h.viewDrop .bar2 off) = capState h := capState_viaBar2 ..

theorem capState_note (h : Hw) (e : LogEntry) : capState (h.note e) = capState h :=
  (capState_eq_iff ..).mpr ⟨h.note_pwrCap e, h.note_pwrCapNow e, h.note_latches e⟩

theorem capState_aer (h : Hw) (bit : Nat) : capState (h.aer bit) = capState h := by
  simp only [Hw.aer]
  split
  · rfl
  split
  · exact capState_note ..
  · rfl

theorem capState_requestFault (h : Hw) (bad : TlpFault) : capState (h.requestFault bad).1 = capState h := by
  cases bad with
  | none => rfl
  | poisoned => exact capState_aer ..
  | malformed => exact capState_aer ..
  | ecrc =>
    simp only [Hw.requestFault]
    split
    · exact capState_aer ..
    · rfl
  | corrected e => rfl

theorem capState_registerWrite_bar2 (h : Hw) (off size : Nat) (d : W64) (bad : TlpFault) :
    capState (h.registerWrite .bar2 off size d bad) = capState h := by
  simp only [Hw.registerWrite]
  split
  · rw [capState_viewDrop_bar2, capState_requestFault]
  · exact capState_viewWrite_bar2 ..

/-! ### The write of PWR_CAP -/

theorem satAdd_one_ne_zero {n : Nat} (hn : n ≠ 0) (x : BitVec n) : satAdd x 1 ≠ 0 := by
  have hpow : 2 ≤ 2 ^ n := Nat.le_self_pow hn 2
  have hlt : min (x.toNat + 1) (2 ^ n - 1) < 2 ^ n := by omega
  intro hx
  have hval : min (x.toNat + 1) (2 ^ n - 1) = 0 := by
    simpa [satAdd, Nat.mod_eq_of_lt hlt] using congrArg BitVec.toNat hx
  omega

theorem dropWrite_dropCount_ne_zero (h : Hw) (off : Nat) : (h.dropWrite off).link.dropCount ≠ 0 :=
  satAdd_one_ne_zero (by decide) _

theorem pwrCapWrite_of_lt {w : W32} (h : Hw) (hw : w.toNat < 3) : h.pwrCapWrite w = ({ h with pwrCap := w }).latch (.pwrCap w) :=
  if_neg (Nat.not_le.mpr hw)

theorem pwrCapWrite_of_le {w : W32} (h : Hw) (hw : 3 ≤ w.toNat) : h.pwrCapWrite w = h.dropWrite 0x28 := if_pos hw

theorem latch_pwrCap_latches (h : Hw) (w : W32) : (h.latch (.pwrCap w)).latches =
    h.latches ++ [(if h.ex.running && decide (h.ex.window = .commit) then 2 else 1, .pwrCap w)] := by
  simp [Hw.latch, isRetry, beq_eq_decide]

/-- The register reads as the word written last (R343). -/
theorem bar0Read_pwrCap (h : Hw) : h.bar0Read 0x28 4 = h.pwrCap.setWidth 64 := by
  have hlt := h.pwrCap.isLt
  have hword : h.bar0Word 0x28 = h.pwrCap.toNat := rfl
  apply BitVec.eq_of_toNat_eq
  simp [Hw.bar0Read, sizedRead, hword, Nat.mod_eq_of_lt hlt]

theorem exec_pwrCapWrite (w : W32) (s : State) :
    exec (.pwrCapWrite w) s = .next { s with hw := s.hw.whenAlive (fun h => h.pwrCapWrite w) } := rfl

theorem exec_pwrCapWrite_of_lt {s : State} {w : W32} (ha : s.hw.alive = true) (hw : w.toNat < 3) :
    exec (.pwrCapWrite w) s = .next { s with hw := ({ s.hw with pwrCap := w }).latch (.pwrCap w) } := by
  rw [exec_pwrCapWrite, Hw.whenAlive, if_pos ha, pwrCapWrite_of_lt _ hw]

theorem exec_pwrCapWrite_of_le {s : State} {w : W32} (ha : s.hw.alive = true) (hw : 3 ≤ w.toNat) :
    exec (.pwrCapWrite w) s = .next { s with hw := s.hw.dropWrite 0x28 } := by
  rw [exec_pwrCapWrite, Hw.whenAlive, if_pos ha, pwrCapWrite_of_le _ hw]

theorem exec_registerWrite (v : View) (off size : Nat) (d : W64) (bad : TlpFault) (s : State) :
    exec (.registerWrite v off size d bad) s =
      .next { s with hw := if s.hw.answers v then s.hw.registerWrite v off size d bad else s.hw } := rfl

theorem capState_of_exec_registerWrite_bar2 {s t : State} {off size : Nat} {d : W64} {bad : TlpFault}
    (h : exec (.registerWrite .bar2 off size d bad) s = .next t) : capState t.hw = capState s.hw := by
  rw [exec_registerWrite] at h
  cases h
  dsimp only
  split
  · exact capState_registerWrite_bar2 ..
  · rfl

/-- Settles O41: a legal code is stored and latched, any other word is dropped, and no write through BAR2 changes the cap or what is
latched. -/
theorem powerCapWrite : Obligations.PowerCapWrite := by
  unfold Obligations.PowerCapWrite
  refine ⟨rfl, rfl, rfl, rfl, rfl, fun s t off size d bad h => (capState_eq_iff ..).mp (capState_of_exec_registerWrite_bar2 h),
    fun s w ha => ⟨fun hw => ?_, fun hw => ?_⟩⟩
  · exact ⟨_, exec_pwrCapWrite_of_lt ha hw, rfl, rfl, latch_pwrCap_latches .., fun _ => rfl, rfl, bar0Read_pwrCap _⟩
  · exact ⟨_, exec_pwrCapWrite_of_le ha hw, rfl, rfl, dropWrite_dropCount_ne_zero _ _⟩

end Sys2Proof.PowerCap
end

section
/-!
PROOF. MEM_CFG: the regions of far memory lie one behind the other (R427), and the writes that set their sizes and start an image
copy are taken or recorded as refused (R209, R210, R428).
-/
namespace Sys2Proof.MemorySetup
open Sys2Proof.Machine

/-! ### Reads of MEM_CFG -/

theorem bar0Word_memCfg (h : Hw) {k : Nat} (hk : k < 8) : h.bar0Word (0x400 + 8 * k) = h.memWord k := by
  interval_cases k <;> rfl

theorem bar0Read_memCfg (h : Hw) {k : Nat} (hk : k < 8) : h.bar0Read (0x400 + 8 * k) 8 = BitVec.ofNat 64 (h.memWord k) := by
  rw [Hw.bar0Read, sizedRead, if_pos (by omega), bar0Word_memCfg h hk]

/-- The directory begins at a multiple of 1 GiB, so the end of its two copies is rounded up to the granule as an address (R427). -/
theorem storeBase_eq_roundUp (h : Hw) : h.storeBase = (h.dirBase + 2 * h.dirBytes + 0x1FFFFF) / 0x200000 * 0x200000 := by
  simp only [Hw.storeBase, Hw.dirBase, ceilDiv, farBase]
  omega

/-- What words 4 to 7 stand for: the bases of the regions and the size of the weight store (R426, R427). -/
def regionWord (h : Hw) (k : Nat) : Nat :=
  if k = 4 then h.dirBase else if k = 5 then h.storeBase else if k = 6 then h.storeGranules else h.workBase

/-- Stated for a variable `k`: at a literal one the kernel would compare two addresses by evaluating their divisions. -/
theorem memWord_of_four_le (h : Hw) {k : Nat} (hk : 4 ≤ k) :
    h.memWord k = if h.farBytes = 0 then 0 else regionWord h k := by
  unfold Hw.memWord
  split
  · omega
  · omega
  · omega
  · omega
  · split
    · rfl
    · split <;> simp_all [regionWord]

theorem bar0Read_memCfg_of_four_le {h : Hw} {k a : Nat} (hk : 4 ≤ k ∧ k < 8) (ha : regionWord h k = a) :
    h.bar0Read (0x400 + 8 * k) 8 = if decide (h.farBytes = 0) then 0 else BitVec.ofNat 64 a := by
  rw [bar0Read_memCfg h hk.2, memWord_of_four_le h hk.1, ha, apply_ite (BitVec.ofNat 64)]
  simp only [decide_eq_true_eq, BitVec.ofNat_eq_ofNat]

/-- Settles O37: words 4 to 7 read as the model's regions, whose addresses are R427's, and as 0 without far memory. -/
theorem farMemoryRegions : Obligations.FarMemoryRegions := by
  unfold Obligations.FarMemoryRegions
  intro h none image dir region store work
  have hdir : h.dirBase = dir := rfl
  have hwork : h.workBase = work := rfl
  have hstore : h.storeBase = store := storeBase_eq_roundUp h
  have hgranules : h.storeGranules = (work - store) / 0x200000 := by rw [Hw.storeGranules, hwork, hstore]
  rw [← hgranules, ← hdir, ← hwork, ← hstore]
  refine ⟨bar0Read_memCfg_of_four_le (k := 4) ?_ ?_, bar0Read_memCfg_of_four_le (k := 5) ?_ ?_,
    bar0Read_memCfg_of_four_le (k := 6) ?_ ?_, bar0Read_memCfg_of_four_le (k := 7) ?_ ?_⟩ <;> simp [regionWord]

/-! ### A refusal is recorded -/

theorem appendLog_ne_self (l : ErrLog) (e : LogEntry) : appendLog l e ≠ l := by
  intro heq
  have hnewest : l.newest + 1 = l.newest := congrArg ErrLog.newest heq
  simp at hnewest

theorem note_log_ne_self (h : Hw) (e : LogEntry) : (h.note e).log ≠ h.log := by
  rw [Hw.note_log]
  split
  · intro heq
    simpa using congrArg ErrLog.pending heq
  · exact appendLog_ne_self h.log _

theorem refused_log_ne_self (h : Hw) (what : Nat) : (h.refused what).log ≠ h.log := note_log_ne_self h _

/-! ### The write of the sizes (R209, R426) -/

theorem setsBits_both_eq_false_iff (w reserved : W64) : setsBits .both w reserved = false ↔ w &&& reserved = 0 := by
  have hmask : w &&& 0xFFFFFFFFFFFFFFFF#64 = w := BitVec.and_allOnes
  simp [setsBits, carried, partMask, hmask]

theorem exec_memCfgWrite {s : State} (ha : s.hw.alive = true) (p : Part) (w : W64) :
    exec (.memCfgWrite p w) s = .next { s with hw := s.hw.memSizeWrite p w } := by
  change Host.Outcome.next { s with hw := s.hw.whenAlive (fun h => h.memSizeWrite p w) } = _
  rw [Hw.whenAlive, if_pos ha]

/-- The hardware with the two sizes that a write of word 0 names. -/
def withSizes (h : Hw) (w : W64) : Hw :=
  { h with mem := { h.mem with
      imageSize := BitVec.ofNat 5 (w.toNat % 32), voiceMax := BitVec.ofNat 21 (w.toNat / 256 % 2097152) } }

/-- The write names the sizes that are set already. -/
abbrev SameSizes (h : Hw) (w : W64) : Prop :=
  w.toNat % 32 = h.mem.imageSize.toNat ∧ w.toNat / 256 % 2097152 = h.mem.voiceMax.toNat

theorem withSizes_of_same {h : Hw} {w : W64} (hsame : SameSizes h w) : withSizes h w = h := by
  obtain ⟨hsize, hvoices⟩ := hsame
  rw [withSizes, hsize, hvoices, BitVec.ofNat_toNat, BitVec.ofNat_toNat, BitVec.setWidth_eq, BitVec.setWidth_eq]

/-- A write of a legal pair of sizes keeps the state, is refused, or sets them. -/
theorem memSizeWrite_of_legal (h : Hw) {w : W64} (hreserved : w &&& 0xFFFFFFFFE00000E0#64 = 0)
    (himage : 1 ≤ w.toNat % 32 ∧ w.toNat % 32 ≤ 16)
    (hvoices : 1024 ≤ w.toNat / 256 % 2097152 ∧ w.toNat / 256 % 2097152 ≤ 1048576) :
    h.memSizeWrite .both w =
      if SameSizes h w then h else if h.ex.running || h.storeUsed then h.refused 0x400 else withSizes h w := by
  have hsets := (setsBits_both_eq_false_iff ..).mpr hreserved
  have hsize : bitsAt w 0 5 = w.toNat % 32 := by simp [bitsAt]
  have hvoice : bitsAt w 8 21 = w.toNat / 256 % 2097152 := rfl
  have hrange : (decide (w.toNat % 32 < 1) || decide (16 < w.toNat % 32) || decide (w.toNat / 256 % 2097152 < 1024)
      || decide (1048576 < w.toNat / 256 % 2097152)) = false := by
    simp only [Bool.or_eq_false_iff, decide_eq_false_iff_not]; omega
  simp only [Hw.memSizeWrite, hsets, hsize, hvoice, hrange, coversLo, Bool.not_true, Bool.false_eq_true, if_false, Bool.and_eq_true,
    decide_eq_true_eq]
  rfl

/-! ### The start of an image copy (R210, R428) -/

theorem exec_memCfgLoadGo {s : State} (ha : s.hw.alive = true) (w : W64) :
    exec (.memCfgLoadGo w) s = .next { s with hw := s.hw.loadGoWrite .both w } := by
  change Host.Outcome.next { s with hw := s.hw.whenAlive (fun h => h.loadGoWrite .both w) } = _
  rw [Hw.whenAlive, if_pos ha]

/-- R428's condition for a copy to start. -/
abbrev MayCopy (h : Hw) : Prop :=
  h.mem.loadBusy = false ∧ h.ex.loadState ≠ 1 ∧ h.ex.mode ≠ .holding ∧ h.ex.mode ≠ .asleep

/-- A load_go is refused, fails at once for its length, or starts the copy. -/
theorem loadGoWrite_of_go (h : Hw) {w : W64} (hreserved : w &&& 0xFFFFFFFFFFFFFFF0#64 = 0) (hgo : w &&& 1#64 = 1#64) :
    h.loadGoWrite .both w =
      if MayCopy h then
        if h.imageRegionBytes < h.mem.loadLen.toNat then
          { h with mem := { h.mem with loadDone := true, loadErr := true, loadBusy := false } }
        else { h with mem := { h.mem with loadDone := false, loadErr := false, loadBusy := true } }
      else h.refused 0x418 := by
  have hsets := (setsBits_both_eq_false_iff ..).mpr hreserved
  have hbit : bitOf w.toNat 0 = true := by
    have hodd := congrArg BitVec.toNat hgo
    simpa [bitOf, Nat.and_one_is_mod] using hodd
  have hblocked : (h.mem.loadBusy || h.ex.loadState == 1 || h.ex.mode == .holding || h.ex.mode == .asleep) = true ↔ ¬ MayCopy h := by
    simp only [MayCopy, Bool.or_eq_true, beq_iff_eq, ← Bool.not_eq_true]
    tauto
  simp only [Hw.loadGoWrite, hsets, hbit, hblocked, coversLo, Bool.not_true, Bool.or_false, Bool.false_eq_true, if_false, ite_not]

/-! ### The end of an image copy (R210, R426) -/

theorem exec_imageCopyComplete (img : Option ImageFile) (s : State) :
    exec (.imageCopyComplete img) s = .next { s with hw := s.hw.copyImage img } := rfl

theorem copyImage_some {h : Hw} (hm : h.memOn = true) (hb : h.mem.loadBusy = true) (f : ImageFile) :
    h.copyImage (some f) = { h with mem := { h.mem with
      loadBusy := false, loadDone := true, loadErr := false, regionBad := false
      region := some { f with file := f.file.take h.mem.loadLen.toNat } } } :=
  if_neg (by simp [hm, hb])

/-- A failed copy leaves the region as it was (R426; log 23). -/
theorem copyImage_none {h : Hw} (hm : h.memOn = true) (hb : h.mem.loadBusy = true) :
    h.copyImage none = { h with mem := { h.mem with loadBusy := false, loadDone := true, loadErr := true } } :=
  if_neg (by simp [hm, hb])

/-- Settles O38: a write of word 0 or of load_go goes the one way that its conditions leave, and the end of a copy changes the
memory's state only. -/
theorem imageMemory : Obligations.ImageMemory := by
  unfold Obligations.ImageMemory
  refine ⟨fun s w ha hreserved himage himage' hvoices hvoices' => ⟨fun hstopped hempty => ?_, fun hheld hchange => ?_⟩,
    fun s w f ha hreserved hgo => ⟨fun hmay hlen => ?_, fun hmay => ?_, fun hm hb => ⟨?_, ?_⟩⟩⟩
  · rw [exec_memCfgWrite ha, memSizeWrite_of_legal s.hw hreserved ⟨himage, himage'⟩ ⟨hvoices, hvoices'⟩]
    have htakes : ¬ (s.hw.ex.running || s.hw.storeUsed) = true := by simp [hstopped, hempty]
    rw [if_neg htakes, ite_eq_right_iff.mpr fun hsame => (withSizes_of_same hsame).symm]
    rfl
  · have hsame : ¬ SameSizes s.hw w := not_and_or.mpr hchange
    refine ⟨_, exec_memCfgWrite ha .both w, ?_⟩
    rw [memSizeWrite_of_legal s.hw hreserved ⟨himage, himage'⟩ ⟨hvoices, hvoices'⟩, if_neg hsame, if_pos (by simpa using hheld)]
    exact ⟨s.hw.refused_mem _, refused_log_ne_self s.hw _⟩
  · rw [exec_memCfgLoadGo ha, loadGoWrite_of_go s.hw hreserved hgo, if_pos hmay, if_neg (Nat.not_lt.mpr hlen)]
  · refine ⟨_, exec_memCfgLoadGo ha w, ?_⟩
    rw [loadGoWrite_of_go s.hw hreserved hgo, if_neg hmay]
    exact ⟨s.hw.refused_mem _, s.hw.refused_ex _, refused_log_ne_self s.hw _⟩
  · rw [exec_imageCopyComplete, copyImage_some hm hb]
  · rw [exec_imageCopyComplete, copyImage_none hm hb]

end Sys2Proof.MemorySetup
end

section
/-!
PROOF. What the updates of the block leave alone: the memories, the staging window, and the position of the next log entry.
-/
namespace Sys2Proof.Kept
open Sys2Proof.Machine

/-- What the invariants speak of: the five device memories, the staging window, and the position of the next log entry. -/
def parts (h : Hw) : Memory × Memory × Memory × Memory × Memory × Memory × BitVec 14 :=
  (h.mem.near, h.mem.far, h.mem.tile, h.mem.se, h.mem.ctl, h.sec.window, h.log.writeSlot)

/-- `simp` reads the parts of a built block off its fields, and folds the parts of one block back. -/
@[simp] theorem parts_mk
    (pwr ex latches pwrCap pwrCapNow qs msix link rings streams incs groups cat mem eng ports war log snap cnt
    fm ts sec free picks) :
    parts ⟨pwr, ex, latches, pwrCap, pwrCapNow, qs, msix, link, rings, streams, incs, groups, cat, mem, eng, ports, war, log, snap,
      cnt, fm, ts, sec, free, picks⟩ = (mem.near, mem.far, mem.tile, mem.se, mem.ctl, sec.window, log.writeSlot) := rfl

@[simp] theorem parts_eta (h : Hw) :
    (h.mem.near, h.mem.far, h.mem.tile, h.mem.se, h.mem.ctl, h.sec.window, h.log.writeSlot) = parts h := by rfl

@[simp] theorem parts_ite (p : Prop) [Decidable p] (a b : Hw) : parts (if p then a else b) = if p then parts a else parts b :=
  apply_ite ..

@[simp] theorem parts_foldl {α : Type} {f : Hw → α → Hw} (hf : ∀ g a, parts (f g a) = parts g) (l : List α) (h : Hw) :
    parts (l.foldl f h) = parts h := foldl_keeps parts f hf l h

/-! ### Named operations -/

@[simp] theorem parts_setQueue (h : Hw) (q : Nat) (p : QueuePair) : parts (h.setQueue q p) = parts h := by rfl

@[simp] theorem parts_modQueue (h : Hw) (q : Nat) (f : QueuePair → QueuePair) : parts (h.modQueue q f) = parts h := by rfl

@[simp] theorem parts_setPort (h : Hw) (p : Nat) (x : Port) : parts (h.setPort p x) = parts h := by rfl

@[simp] theorem parts_modPort (h : Hw) (p : Nat) (f : Port → Port) : parts (h.modPort p f) = parts h := by rfl

@[simp] theorem parts_setStream (h : Hw) (n : Nat) (s : Stream) : parts (h.setStream n s) = parts h := by rfl

@[simp] theorem parts_dropStream (h : Hw) (n : Nat) : parts (h.dropStream n) = parts h := by rfl

@[simp] theorem parts_modStream (h : Hw) (n : Nat) (f : Stream → Stream) : parts (h.modStream n f) = parts h := by
  unfold Hw.modStream
  split <;> simp

@[simp] theorem parts_mapStreams (h : Hw) (f : Nat → Stream → Stream) : parts (h.mapStreams f) = parts h := by
  simp [Hw.mapStreams]

@[simp] theorem parts_setGroup (h : Hw) (g : Nat) (x : Option Machine.Group) : parts (h.setGroup g x) = parts h := by rfl

@[simp] theorem parts_setVoice (h : Hw) (i : Nat) (v : Variant) : parts (h.setVoice i v) = parts h := by rfl

@[simp] theorem parts_setTile (h : Hw) (t : Nat) (x : Tile) : parts (h.setTile t x) = parts h := by rfl

@[simp] theorem parts_setCsu (h : Hw) (n : Nat) (x : CsuUnit) : parts (h.setCsu n x) = parts h := by rfl

@[simp] theorem parts_setLane (h : Hw) (l : Nat) (x : LaneUnit) : parts (h.setLane l x) = parts h := by rfl

@[simp] theorem parts_setM (h : Hw) (n m : Nat) : parts (h.setM n m) = parts h := by rfl

@[simp] theorem parts_picked (h : Hw) : parts h.picked = parts h := by rfl

@[simp] theorem parts_takeFree (h : Hw) : parts h.takeFree.2 = parts h := by rfl

@[simp] theorem parts_raise (h : Hw) (v : Nat) : parts (h.raise v) = parts h := by
  simp [Hw.raise]

@[simp] theorem parts_post (h : Hw) (w : HostWrite) : parts (h.post w) = parts h := by
  simp [Hw.post]

@[simp] theorem parts_dropWrite (h : Hw) (off : Nat) : parts (h.dropWrite off) = parts h := by rfl

@[simp] theorem parts_complete (h : Hw) (q seq kind : Nat) (tag handle : W32) (status d0 : Nat) (d1 : W64) :
    parts (h.complete q seq kind tag handle status d0 d1) = parts h := by rfl

@[simp] theorem parts_markApplied (h : Hw) (seq cls : Nat) : parts (h.markApplied seq cls) = parts h := by rfl

@[simp] theorem parts_event (h : Hw) (n : Nat) (s : Stream) (code status d0 : Nat) (d1 : W64) :
    parts (h.event n s code status d0 d1) = parts h := by rfl

@[simp] theorem parts_moduleEvent (h : Hw) (code status : Nat) (d1 : W64) : parts
    (h.moduleEvent code status d1) = parts h := by rfl

@[simp] theorem parts_miss (h : Hw) (n : Nat) (s : Stream) (reason count : Nat) (offset : Int) (index : W64) :
    parts (h.miss n s reason count offset index) = parts h := by
  simp [Hw.miss]

@[simp] theorem parts_setTrunk (h : Hw) (i : Nat) (x : VSlot) : parts (h.setTrunk i x) = parts h := by rfl

@[simp] theorem parts_setVslot (h : Hw) (trunk : Bool) (idx slot : Nat) (x : VSlot) :
    parts (h.setVslot trunk idx slot x) = parts h := by
  simp [Hw.setVslot]

@[simp] theorem parts_addRef (h : Hw) (trunk : Bool) (idx slot : Nat) : parts (h.addRef trunk idx slot) = parts h := by
  simp [Hw.addRef]

@[simp] theorem parts_dropRef (h : Hw) (trunk : Bool) (idx slot : Nat) : parts (h.dropRef trunk idx slot) = parts h := by
  simp [Hw.dropRef]

@[simp] theorem parts_extend (h : Hw) (i kind : Nat) (version : W32) (v : Hash) :
    parts (h.extend i kind version v) = parts h := by rfl

/-! ### Limits and reads -/

@[simp] theorem parts_issueTurns (k : Nat) (h : Hw) : parts (issueTurns k h) = parts h := by
  induction k generalizing h with
  | zero => rfl
  | succ k ih =>
    rw [issueTurns]
    split
    · rfl
    · exact ih _

@[simp] theorem parts_readBlocks (h : Hw) : parts h.readBlocks = parts h := by rfl

@[simp] theorem parts_issueReads (h : Hw) : parts h.issueReads = parts h := by
  simp [Hw.issueReads]

@[simp] theorem parts_dropReads (h : Hw) (q : Nat) : parts (h.dropReads q) = parts h := by rfl

@[simp] theorem parts_snapshot (h : Hw) (epoch : W64) : parts (h.snapshot epoch) = parts h := by rfl

@[simp] theorem parts_planFenced (h : Hw) (u : UnitId) : parts (h.planFenced u) = parts h := by rfl

@[simp] theorem parts_fence (h : Hw) (u : UnitId) (cause : Nat) : parts (h.fence u cause) = parts h := by
  simp [Hw.fence]

@[simp] theorem parts_setHist (h : Hw) (x : FaultHist) : parts (h.setHist x) = parts h := by rfl

@[simp] theorem parts_computeFault (h : Hw) (u : UnitId) : parts (h.computeFault u) = parts h := by
  simp [Hw.computeFault]

@[simp] theorem parts_reissued (h : Hw) (u : UnitId) (unit : Nat) : parts (h.reissued u unit) = parts h := by rfl

@[simp] theorem parts_transient (h : Hw) (u : UnitId) (unit tries : Nat) : parts (h.transient u unit tries) = parts h := by rfl

/-! ### Streams -/

@[simp] theorem parts_requestPage (h : Hw) (idx slot : Nat) : parts (h.requestPage idx slot) = parts h := by
  simp [Hw.requestPage]

@[simp] theorem parts_dropSelection (h : Hw) (n : Nat) : parts (h.dropSelection n) = parts h := by
  simp only [Hw.dropSelection]
  (repeat' split) <;> simp

@[simp] theorem parts_reselect (h : Hw) (n : Nat) : parts (h.reselect n) = parts h := by
  simp only [Hw.reselect]
  (repeat' split) <;> simp

@[simp] theorem parts_freeVersion (h : Hw) (trunk : Bool) (idx slot : Nat) : parts (h.freeVersion trunk idx slot) = parts h := by
  simp [Hw.freeVersion]

@[simp] theorem parts_freeVersions (h : Hw) : parts h.freeVersions = parts h := by
  simp [Hw.freeVersions]

@[simp] theorem parts_unbind (h : Hw) (n : Nat) : parts (h.unbind n) = parts h := by
  simp only [Hw.unbind]
  (repeat' split) <;> simp

@[simp] theorem parts_finishRing (h : Hw) (n : Nat) (s : Stream) (d : RingDesc) : parts (h.finishRing n s d) = parts h := by rfl

@[simp] theorem parts_closeBlock (h : Hw) (n : Nat) (closed : Bool) : parts (h.closeBlock n closed) = parts h := by
  simp only [Hw.closeBlock]
  (repeat' split) <;> simp

@[simp] theorem parts_endRing (h : Hw) (n : Nat) : parts (h.endRing n) = parts h := by
  simp only [Hw.endRing]
  (repeat' split) <;> simp

@[simp] theorem parts_closeGate (h : Hw) (n : Nat) (flush : Bool) : parts (h.closeGate n flush) = parts h := by
  unfold Hw.closeGate
  split <;> simp

@[simp] theorem parts_finish0 (h : Hw) (a : Admitted) (status : Nat) : parts (h.finish0 a status) = parts h := by rfl

@[simp] theorem parts_finish (h : Hw) (a : Admitted) (handle : W32) (d0 : Nat) (d1 : W64) :
    parts (h.finish a handle d0 d1) = parts h := by rfl

@[simp] theorem parts_abortFeeds (h : Hw) (n seq : Nat) : parts (h.abortFeeds n seq) = parts h := by
  unfold Hw.abortFeeds
  split <;> simp

@[simp] theorem parts_endUtterance (h : Hw) (n : Nat) (aborted : Bool) : parts (h.endUtterance n aborted) = parts h := by
  unfold Hw.endUtterance
  split <;> simp

@[simp] theorem parts_leaveGroup (h : Hw) (n : Nat) : parts (h.leaveGroup n) = parts h := by
  simp only [Hw.leaveGroup]
  (repeat' split) <;> simp

@[simp] theorem parts_leaveLane (h : Hw) (n : Nat) : parts (h.leaveLane n) = parts h := by
  simp only [Hw.leaveLane]
  (repeat' split) <;> simp

@[simp] theorem parts_abortAudio (h : Hw) (n : Nat) : parts (h.abortAudio n) = parts h := by
  unfold Hw.abortAudio
  split <;> simp

/-! ### Descriptors that take effect -/

@[simp] theorem parts_waitLane (h : Hw) (a : Admitted) : parts (h.waitLane a) = parts h := by rfl

@[simp] theorem parts_nextInc (h : Hw) (n : Nat) : parts (h.nextInc n).2 = parts h := by rfl

@[simp] theorem parts_applyOpen (h : Hw) (a : Admitted) : parts (h.applyOpen a) = parts h := by
  simp only [Hw.applyOpen]
  (repeat' split) <;> simp

@[simp] theorem parts_cancelPlan (h : Hw) (n : Nat) (s : Stream) (r : StateRecord) : parts (h.cancelPlan n s r) = parts h := by
  unfold Hw.cancelPlan
  split <;> simp

@[simp] theorem parts_stopAct (h : Hw) (n seq : Nat) (flush : Bool) : parts (h.stopAct n seq flush) = parts h := by
  simp only [Hw.stopAct]
  (repeat' split) <;> simp

@[simp] theorem parts_stopOutcome (h : Hw) (a : Admitted) (n : Nat) (s : Stream) : parts (h.stopOutcome a n s) = parts h := by
  simp only [Hw.stopOutcome]
  (repeat' split) <;> simp

@[simp] theorem parts_applyStop (h : Hw) (a : Admitted) : parts (h.applyStop a) = parts h := by
  simp only [Hw.applyStop]
  (repeat' split) <;> simp

@[simp] theorem parts_abortImport (h : Hw) (n : Nat) : parts (h.abortImport n) = parts h := by
  simp only [Hw.abortImport]
  (repeat' split) <;> simp

@[simp] theorem parts_release (h : Hw) (n : Nat) : parts (h.release n) = parts h := by
  simp only [Hw.release]
  (repeat' split) <;> simp

@[simp] theorem parts_applyClose (h : Hw) (a : Admitted) : parts (h.applyClose a) = parts h := by
  simp only [Hw.applyClose]
  (repeat' split) <;> simp

@[simp] theorem parts_exportStop (h : Hw) (n : Nat) (r : StateRecord) : parts (h.exportStop n r) = parts h := by
  simp [Hw.exportStop]

@[simp] theorem parts_postRecord (h : Hw) (addr : W64) (r : StateRecord) : parts (h.postRecord addr r) = parts h := by
  unfold Hw.postRecord
  split <;> simp

@[simp] theorem parts_applyExport (h : Hw) (a : Admitted) : parts (h.applyExport a) = parts h := by
  simp only [Hw.applyExport]
  (repeat' split) <;> simp

@[simp] theorem parts_evict (h : Hw) (n : Nat) (s : Stream) : parts (h.evict n s) = parts h := by
  simp [Hw.evict]

@[simp] theorem parts_applyImport (h : Hw) (a : Admitted) : parts (h.applyImport a) = parts h := by
  simp only [Hw.applyImport]
  (repeat' split) <;> simp

@[simp] theorem parts_applyGroupCreate (h : Hw) (a : Admitted) : parts (h.applyGroupCreate a) = parts h := by
  simp only [Hw.applyGroupCreate]
  (repeat' split) <;> simp

@[simp] theorem parts_applyGroupDissolve (h : Hw) (a : Admitted) : parts (h.applyGroupDissolve a) = parts h := by
  simp only [Hw.applyGroupDissolve]
  (repeat' split) <;> simp

@[simp] theorem parts_applyBind (h : Hw) (a : Admitted) : parts (h.applyBind a) = parts h := by
  simp only [Hw.applyBind]
  (repeat' split) <;> simp

@[simp] theorem parts_applyCtrl (h : Hw) (a : Admitted) : parts (h.applyCtrl a) = parts h := by
  simp only [Hw.applyCtrl]
  (repeat' split) <;> simp

@[simp] theorem parts_feedInto (h : Hw) (i : ImageFile) (a : Admitted) (n : Nat) (s : Stream) (front : Bool) :
    parts (h.feedInto i a n s front) = parts h := by
  simp only [Hw.feedInto]
  (repeat' split) <;> simp

@[simp] theorem parts_applyFeed (h : Hw) (a : Admitted) : parts (h.applyFeed a) = parts h := by
  simp only [Hw.applyFeed]
  (repeat' split) <;> simp

@[simp] theorem parts_applyAudio (h : Hw) (a : Admitted) : parts (h.applyAudio a) = parts h := by
  simp only [Hw.applyAudio]
  (repeat' split) <;> simp

@[simp] theorem parts_applyRing (h : Hw) (a : Admitted) : parts (h.applyRing a) = parts h := by
  simp only [Hw.applyRing]
  (repeat' split) <;> simp

@[simp] theorem parts_giveUp (h : Hw) (trunk : Bool) (idx slot : Nat) : parts (h.giveUp trunk idx slot) = parts h := by
  simp [Hw.giveUp]

@[simp] theorem parts_applyStage (h : Hw) (a : Admitted) : parts (h.applyStage a) = parts h := by
  simp only [Hw.applyStage]
  (repeat' split) <;> simp

@[simp] theorem parts_planSwitches (h : Hw) (trunk : Bool) (idx slot : Nat) : parts
    (h.planSwitches trunk idx slot) = parts h := by
  refine foldl_keeps parts _ (fun g e => ?_) _ _
  (repeat' split) <;> simp

@[simp] theorem parts_switchVersion (h : Hw) (trunk : Bool) (idx slot : Nat) :
    parts (h.switchVersion trunk idx slot) = parts h := by
  simp only [Hw.switchVersion]
  (repeat' split) <;> simp

@[simp] theorem parts_applyCommit (h : Hw) (a : Admitted) : parts (h.applyCommit a) = parts h := by
  simp only [Hw.applyCommit]
  (repeat' split) <;> simp

@[simp] theorem parts_applyFence (h : Hw) (a : Admitted) : parts (h.applyFence a) = parts h := by
  simp [Hw.applyFence]

@[simp] theorem parts_applyOne (h : Hw) (a : Admitted) : parts (h.applyOne a) = parts h := by
  unfold Hw.applyOne
  split <;> simp

@[simp] theorem parts_applyStopped (h : Hw) (a : Admitted) : parts (h.applyStopped a) = parts h := by
  simp [Hw.applyStopped]

@[simp] theorem parts_admitStopped (h : Hw) (a : Admitted) : parts (h.admitStopped a) = parts h := by
  simp [Hw.admitStopped]

@[simp] theorem parts_drainStopped (h : Hw) : parts h.drainStopped = parts h := by
  simp [Hw.drainStopped]

/-! ### The tick program -/

@[simp] theorem parts_assignRows (h : Hw) : parts h.assignRows = parts h := by
  simp [Hw.assignRows]

/-! ### The tick boundary -/

@[simp] theorem parts_latch (h : Hw) (x : LatchItem) : parts (h.latch x) = parts h := by rfl

@[simp] theorem parts_ruleWritten (h : Hw) (i : Nat) : parts (h.ruleWritten i) = parts h := by rfl

@[simp] theorem parts_coolBoundary (h : Hw) : parts h.coolBoundary = parts h := by
  simp [Hw.coolBoundary]

@[simp] theorem parts_applyDue (h : Hw) (f : Nat → Bool) : parts (h.applyDue f) = parts h := by
  simp [Hw.applyDue]

@[simp] theorem parts_markReady (h : Hw) : parts h.markReady = parts h := by
  simp [Hw.markReady]

@[simp] theorem parts_admitChunks (h : Hw) : parts h.admitChunks = parts h := by
  refine foldl_keeps (fun x : Nat × Hw => parts x.2) _ (fun g e => ?_) _ _
  split <;> simp

@[simp] theorem parts_beginUtterance (h : Hw) (n : Nat) (s : Stream) : parts (h.beginUtterance n s) = parts h := by
  unfold Hw.beginUtterance
  split <;> simp

@[simp] theorem parts_useExpert (h : Hw) (n : Nat) : parts (h.useExpert n) = parts h := by
  simp only [Hw.useExpert]
  (repeat' split) <;> simp

@[simp] theorem parts_switchStream (h : Hw) (n : Nat) : parts (h.switchStream n) = parts h := by
  simp [Hw.switchStream]

@[simp] theorem parts_decideFrame (h : Hw) (lacks : Nat → Bool) (n : Nat) : parts (h.decideFrame lacks n) = parts h := by
  simp only [Hw.decideFrame]
  (repeat' split) <;> simp

@[simp] theorem parts_decideFrames (h : Hw) : parts h.decideFrames = parts h := by
  simp [Hw.decideFrames]

@[simp] theorem parts_decideRun (h : Hw) (n : Nat) : parts (h.decideRun n) = parts h := by
  simp [Hw.decideRun]

@[simp] theorem parts_decideRing (h : Hw) (n : Nat) : parts (h.decideRing n) = parts h := by
  unfold Hw.decideRing
  split <;> simp

@[simp] theorem parts_holdRing (h : Hw) (g : Nat) : parts (h.holdRing g) = parts h := by
  simp only [Hw.holdRing]
  split
  · rfl
  split
  · refine foldl_keeps parts _ (fun a m => ?_) _ _
    (repeat' split) <;> simp
  · rfl

@[simp] theorem parts_decideRuns (h : Hw) : parts h.decideRuns = parts h := by
  simp [Hw.decideRuns]

@[simp] theorem parts_resetUnits (h : Hw) : parts h.resetUnits = parts h := by rfl

@[simp] theorem parts_fenceBoundary (h : Hw) : parts h.fenceBoundary = parts h := by
  refine (foldl_keeps parts _ (fun g e => ?_) _ _).trans (by simp)
  dsimp only
  (repeat' split) <;> simp

@[simp] theorem parts_expertsUsable (h : Hw) : parts h.expertsUsable = parts h := by
  simp [Hw.expertsUsable]

@[simp] theorem parts_reopenGates (h : Hw) : parts h.reopenGates = parts h := by
  simp [Hw.reopenGates]

@[simp] theorem parts_evictions (h : Hw) : parts h.evictions = parts h := by
  refine foldl_keeps parts _ (fun g e => ?_) _ _
  (repeat' split) <;> simp

@[simp] theorem parts_portsBoundary (h : Hw) : parts h.portsBoundary = parts h := by
  simp [Hw.portsBoundary]

@[simp] theorem parts_haltExec (h : Hw) : parts h.haltExec = parts h := by rfl

@[simp] theorem parts_beginTick (h : Hw) : parts h.beginTick = parts h := by
  simp [Hw.beginTick]

@[simp] theorem parts_afterOutage (h : Hw) : parts h.afterOutage = parts h := by
  simp [Hw.afterOutage]

@[simp] theorem parts_rerunTick (h : Hw) : parts h.rerunTick = parts h := by
  simp [Hw.rerunTick]

@[simp] theorem parts_rebaseUse (h : Hw) : parts h.rebaseUse = parts h := by
  simp [Hw.rebaseUse]

/-! ### Faults and replays -/

@[simp] theorem parts_doubleBit (h : Hw) (u : UnitId) (a : W64) : parts (h.doubleBit u a) = parts h := by
  simp only [Hw.doubleBit]
  (repeat' split) <;> simp

@[simp] theorem parts_unitFault (h : Hw) (u : UnitId) (unit : Nat) (ctx : Option Nat) :
    parts (h.unitFault u unit ctx) = parts h := by
  simp only [Hw.unitFault]
  (repeat' split) <;> simp

@[simp] theorem parts_unitPass (h : Hw) (u : UnitId) (unit : Nat) (ctx : Option Nat) :
    parts (h.unitPass u unit ctx) = parts h := by
  simp [Hw.unitPass]

@[simp] theorem parts_corrected (h : Hw) : parts h.corrected = parts h := by rfl

@[simp] theorem parts_checked {f : Hw → Hw} (hf : ∀ g, parts (f g) = parts g) (h : Hw) (u owner : UnitId) (unit : Nat)
    (ctx : Option Nat) (chk : PassCheck) (residues : Bool) : parts (h.checked u owner unit ctx chk residues f) = parts h := by
  cases chk <;> simp [Hw.checked, hf]

@[simp] theorem parts_permanent (h : Hw) : parts h.permanent = parts h := by
  simp [Hw.permanent]

@[simp] theorem parts_loseState (h : Hw) (n : Nat) : parts (h.loseState n) = parts h := by
  unfold Hw.loseState
  split <;> simp

@[simp] theorem parts_damage (h : Hw) (trunk : Bool) (idx slot : Nat) : parts (h.damage trunk idx slot) = parts h := by
  simp [Hw.damage]

@[simp] theorem parts_awaitRefetch (h : Hw) (u : UnitId) (unit : Nat) (o : Bool × Nat × Nat) :
    parts (h.awaitRefetch u unit o) = parts h := by rfl

@[simp] theorem parts_countUncorrectable (h : Hw) (near : Bool) (unit addr : Nat) :
    parts (h.countUncorrectable near unit addr) = parts h := by rfl

@[simp] theorem parts_correctedRead (h : Hw) (near : Bool) (unit : Nat) : parts (h.correctedRead near unit) = parts h := by rfl

/-! ### Tensor Tiles -/

@[simp] theorem parts_eachRow {f : Hw → Nat → Stream → Nat → Nat → Hw} (hf : ∀ g n s r q, parts (f g n s r q) = parts g) (h : Hw)
    (sv : Serve) (first count : Nat) : parts (h.eachRow sv first count f) = parts h := by
  refine foldl_keeps parts _ (fun g e => ?_) _ _
  split
  · exact hf ..
  · rfl

@[simp] theorem parts_eachStream {f : Hw → Nat → Stream → Hw} (hf : ∀ g n s, parts (f g n s) = parts g) (h : Hw)
    (sv : Serve) (first count : Nat) : parts (h.eachStream sv first count f) = parts h := by
  refine foldl_keeps parts _ (fun g e => ?_) _ _
  split
  · exact hf ..
  · rfl

@[simp] theorem parts_flagGroups (h : Hw) (n n3 : Nat) : parts (h.flagGroups n n3) = parts h := by
  simp [Hw.flagGroups]

@[simp] theorem parts_flagResult (h : Hw) (n : Nat) (xs : List F32) : parts (h.flagResult n xs) = parts h := by
  simp [Hw.flagResult]

@[simp] theorem parts_stateWriteDo (h : Hw) (i : ImageFile) (k n : Nat) (s : Stream) :
    parts (h.stateWriteDo i k n s) = parts h := by
  unfold Hw.stateWriteDo
  split <;> simp

@[simp] theorem parts_featureOutDo (h : Hw) (t : Nat) (src : Loc) (width : Nat) (rows : List (Nat × Nat)) (n : Nat) (s : Stream) :
    parts (h.featureOutDo t src width rows n s) = parts h := by
  unfold Hw.featureOutDo
  split <;> simp

@[simp] theorem parts_kvWriteDo (h : Hw) (i : ImageFile) (t layer : Nat) (k v : Loc) (n : Nat) (s : Stream) (r : Nat) :
    parts (h.kvWriteDo i t layer k v n s r) = parts h := by
  simp [Hw.kvWriteDo]

@[simp] theorem parts_sampleDo (h : Hw) (i : ImageFile) (t cb : Nat) (z : Loc) (n : Nat) (s : Stream) (r : Nat) :
    parts (h.sampleDo i t cb z n s r) = parts h := by
  simp [Hw.sampleDo]

@[simp] theorem parts_conditionDo (h : Hw) (i : ImageFile) (t : Nat) (src : Loc) (n : Nat) (s : Stream) (r : Nat) :
    parts (h.conditionDo i t src n s r) = parts h := by
  simp [Hw.conditionDo]

@[simp] theorem parts_onScales (h : Hw) (l : Nat) (f : Tile → Tile) : parts (h.onScales l f) = parts h := by
  simp [Hw.onScales]

@[simp] theorem parts_swapLock (h : Hw) (l : Nat) : parts (h.swapLock l) = parts h := by
  simp [Hw.swapLock]

@[simp] theorem parts_filledNow (h : Hw) (l : Nat) : parts (h.filledNow l) = parts h := by
  simp [Hw.filledNow]

@[simp] theorem parts_lockSwapNow (h : Hw) (l : Nat) : parts (h.lockSwapNow l) = parts h := by
  simp only [Hw.lockSwapNow]
  (repeat' split) <;> simp

@[simp] theorem parts_restoreLock (i : ImageFile) (p : Nat) (h : Hw) (l : Nat) : parts (Hw.restoreLock i p h l) = parts h := by
  simp [Hw.restoreLock]

@[simp] theorem parts_rewindTile (i : ImageFile) (unit : Nat) (h : Hw) (t : Nat) :
    parts (Hw.rewindTile i unit h t) = parts h := by
  simp [Hw.rewindTile]

@[simp] theorem parts_startReplay (h : Hw) : parts h.startReplay = parts h := by
  simp only [Hw.startReplay]
  (repeat' split) <;> simp

/-! ### Intake close and commit -/

@[simp] theorem parts_missWork (h : Hw) (n : Nat) (s : Stream) (reason : Nat) (run frame : Bool) :
    parts (h.missWork n s reason run frame) = parts h := by
  unfold Hw.missWork
  split <;> simp

@[simp] theorem parts_resolveStream (h : Hw) (own : Nat → Bool × Bool × Bool) (n : Nat) (s : Stream) :
    parts (h.resolveStream own n s) = parts h := by
  simp [Hw.resolveStream]

@[simp] theorem parts_writeRun (h : Hw) (n : Nat) (s : Stream) (final : List F32) (ends : Bool) :
    parts (h.writeRun n s final ends) = parts h := by
  simp only [Hw.writeRun]
  (repeat' split) <;> simp

@[simp] theorem parts_routeRun (h : Hw) (n : Nat) (s : Stream) (final : List F32) : parts (h.routeRun n s final) = parts h := by
  unfold Hw.routeRun
  split <;> simp

@[simp] theorem parts_startEvents (h : Hw) (n : Nat) (s : Stream) (frameKept : Bool) :
    parts (h.startEvents n s frameKept) = parts h := by
  simp only [Hw.startEvents]
  (repeat' split) <;> simp

@[simp] theorem parts_moveSwitch (h : Hw) (n : Nat) : parts (h.moveSwitch n) = parts h := by
  simp only [Hw.moveSwitch]
  (repeat' split) <;> simp

@[simp] theorem parts_commitStream (h : Hw) (i : ImageFile) (n : Nat) : parts (h.commitStream i n) = parts h := by
  simp only [Hw.commitStream]
  (repeat' split) <;> simp

@[simp] theorem parts_staleHeld (h : Hw) (n : Nat) : parts (h.staleHeld n) = parts h := by
  unfold Hw.staleHeld
  split <;> simp

@[simp] theorem parts_commitImport (h : Hw) (n : Nat) : parts (h.commitImport n) = parts h := by
  simp only [Hw.commitImport]
  (repeat' split) <;> simp

@[simp] theorem parts_commitPort (at0 : List (Nat × W64)) (h : Hw) (p : Nat) : parts (Hw.commitPort at0 h p) = parts h := by
  simp [Hw.commitPort]

@[simp] theorem parts_degradedEvents (h : Hw) : parts h.degradedEvents = parts h := by
  simp [Hw.degradedEvents]

@[simp] theorem parts_advise (h : Hw) (cls n : Nat) : parts (h.advise cls n) = parts h := by
  unfold Hw.advise
  split <;> simp

@[simp] theorem parts_adviseAll (h : Hw) : parts h.adviseAll = parts h := by
  simp [Hw.adviseAll]

@[simp] theorem parts_commitEviction (h : Hw) (n : Nat) (spilled copied : Bool) :
    parts (h.commitEviction n spilled copied) = parts h := by
  simp only [Hw.commitEviction]
  (repeat' split) <;> simp

@[simp] theorem parts_sweepFences (h : Hw) (f : FenceWait → Bool) : parts (h.sweepFences f) = parts h := by
  simp [Hw.sweepFences]

@[simp] theorem parts_writeRecords (h : Hw) (q : Nat) (epoch : W64) (ps : List Pending) :
    parts (h.writeRecords q epoch ps) = parts h := by
  induction ps generalizing h with
  | nil => rfl
  | cons p ps ih =>
    rw [Hw.writeRecords, ih]
    split <;> simp

@[simp] theorem parts_publishQueue (h : Hw) (q : Nat) (epoch : W64) (new : List Pending) :
    parts (h.publishQueue q epoch new).2 = parts h := by
  simp [Hw.publishQueue]

@[simp] theorem parts_publishRecords (h : Hw) (epoch : W64) (positions : List HostWrite) :
    parts (h.publishRecords epoch positions) = parts h := by
  simp only [Hw.publishRecords, parts_foldl, parts_post, implies_true]
  exact foldl_keeps (fun x : List Nat × Hw => parts x.2) _ (fun g e => parts_publishQueue ..) _ _

@[simp] theorem parts_sendMsix (h : Hw) : parts h.sendMsix = parts h := by
  simp [Hw.sendMsix]

@[simp] theorem parts_closeAll (h : Hw) : parts h.closeAll = parts h := by
  simp [Hw.closeAll]

@[simp] theorem parts_abortOpen (h : Hw) : parts h.abortOpen = parts h := by
  simp [Hw.abortOpen]

@[simp] theorem parts_stageDone (h : Hw) (g : Staging) : parts (h.stageDone g) = parts h := by rfl

@[simp] theorem parts_restoreVersion (h : Hw) (g : Staging) : parts (h.restoreVersion g) = parts h := by
  simp [Hw.restoreVersion]

@[simp] theorem parts_commitRestores (h : Hw) : parts h.commitRestores = parts h := by
  simp [Hw.commitRestores]

@[simp] theorem parts_countTrials (h : Hw) : parts h.countTrials = parts h := by rfl

@[simp] theorem parts_freeFrames (W n : Nat) (h : Hw) : parts (Hw.freeFrames W n h).2 = parts h := by
  induction n generalizing h with
  | zero => rfl
  | succ n ih => simp [Hw.freeFrames, ih]

@[simp] theorem parts_followerFrames (h : Hw) (p : Nat) : parts (h.followerFrames p) = parts h := by
  simp [Hw.followerFrames]

@[simp] theorem parts_publishWaiting (h : Hw) (q : Nat) : parts (h.publishWaiting q) = parts h := by
  simp [Hw.publishWaiting]

/-! ### The Sample Engine -/

@[simp] theorem parts_setBerm (h : Hw) (b : Berm) : parts (h.setBerm b) = parts h := by rfl

@[simp] theorem parts_bermAfter (h : Hw) (n : Nat) (release : Option Nat) (b : Option Berm) :
    parts (h.bermAfter n release b) = parts h := by
  simp only [Hw.bermAfter]
  (repeat' split) <;> simp

@[simp] theorem parts_csuEnd (h : Hw) (i : ImageFile) (s : Stream) (n p ctx : Nat) (op : CsuOp) (t0 count : Nat)
    (expects buf : Option Nat) (berm : Option (Nat × List (List F16))) (errs : List SumError) :
    parts (h.csuEnd i s n p ctx op t0 count expects buf berm errs) = parts h := by
  simp only [Hw.csuEnd]
  split <;> simp

@[simp] theorem parts_csuPass (h : Hw) (n p ctx t0 count : Nat) (errs : List SumError) (chk : PassCheck) :
    parts (h.csuPass n p ctx t0 count errs chk) = parts h := by
  simp only [Hw.csuPass]
  (repeat' split) <;> simp

@[simp] theorem parts_bermConsumeNow (h : Hw) (n : Nat) (tag : BitVec 32) : parts (h.bermConsumeNow n tag) = parts h := by
  simp only [Hw.bermConsumeNow]
  (repeat' split) <;> simp

@[simp] theorem parts_bermReleaseNow (h : Hw) (n : Nat) : parts (h.bermReleaseNow n) = parts h := by
  simp only [Hw.bermReleaseNow]
  (repeat' split) <;> simp

@[simp] theorem parts_laneIssue (h : Hw) (l : Nat) : parts (h.laneIssue l) = parts h := by
  simp only [Hw.laneIssue]
  (repeat' split) <;> simp

@[simp] theorem parts_laneWriteback (h : Hw) (l : Nat) (errs : List SumError) (chk : PassCheck) :
    parts (h.laneWriteback l errs chk) = parts h := by
  simp only [Hw.laneWriteback]
  (repeat' split) <;> simp

@[simp] theorem parts_rebuildDone (h : Hw) (n : Nat) : parts (h.rebuildDone n) = parts h := by
  simp only [Hw.rebuildDone]
  (repeat' split) <;> simp

/-! ### Doorbells and decoding -/

@[simp] theorem parts_sqTailWrite (h : Hw) (q off : Nat) (w : W32) : parts (h.sqTailWrite q off w) = parts h := by
  simp [Hw.sqTailWrite]

@[simp] theorem parts_cqHeadWrite (h : Hw) (q off : Nat) (w : W32) : parts (h.cqHeadWrite q off w) = parts h := by
  simp [Hw.cqHeadWrite]

@[simp] theorem parts_doorbellWrite (h : Hw) (q r size off : Nat) (data : W64) :
    parts (h.doorbellWrite q r size off data) = parts h := by
  simp [Hw.doorbellWrite]

@[simp] theorem parts_viaBar2 (h : Hw) (f : Hw → Hw) : parts (h.viaBar2 f) = parts (f h) := by
  unfold Hw.viaBar2
  split <;> rfl

@[simp] theorem parts_failStaging (h : Hw) (g : Staging) (status : Nat) : parts (h.failStaging g status) = parts h := by
  simp [Hw.failStaging]

@[simp] theorem parts_pageOnDecode (h : Hw) (a : Admitted) : parts (h.pageOnDecode a).2 = parts h := by
  unfold Hw.pageOnDecode
  split <;> simp

@[simp] theorem parts_fetchOne (h : Hw) (q : Nat) (d : Desc) (x : Payload) : parts (h.fetchOne q d x).2 = parts h := by
  simp [Hw.fetchOne]

@[simp] theorem parts_admitOne (h : Hw) (a : Admitted) : parts (h.admitOne a) = parts h := by
  simp [Hw.admitOne]

@[simp] theorem parts_decodeRow (h : Hw) (q : Nat) (takes : Bool) (d : Desc) (x : Payload) :
    parts (h.decodeRow q takes d x) = parts h := by
  simp [Hw.decodeRow]

@[simp] theorem parts_decodeUrgent (h : Hw) (q : Nat) (d : Desc) : parts (h.decodeUrgent q d) = parts h := by
  simp only [Hw.decodeUrgent]
  (repeat' split) <;> simp

/-! ### Memories and transfers -/

@[simp] theorem parts_feedHash (h : Hw) (bs : List Byte) : parts (h.feedHash bs) = parts h := by
  unfold Hw.feedHash
  split <;> simp

@[simp] theorem parts_lockFilled (h : Hw) (d : BitVec 256) : parts (h.lockFilled d) = parts h := by
  unfold Hw.lockFilled
  split <;> simp

@[simp] theorem parts_wsRead (h : Hw) (d : BitVec 256) : parts (h.wsRead d) = parts h := by rfl

@[simp] theorem parts_sramDouble (h : Hw) (sp a runit : Nat) : parts (h.sramDouble sp a runit) = parts h := by
  unfold Hw.sramDouble
  split <;> simp

@[simp] theorem parts_fillPassed (h : Hw) (u : UnitId) (runit : Option Nat) : parts (h.fillPassed u runit) = parts h := by
  unfold Hw.fillPassed
  split <;> simp

@[simp] theorem parts_evictExperts (h : Hw) (cap need : Nat) (es : List (Nat × Nat × VSlot)) :
    parts (h.evictExperts cap need es) = parts h := by
  induction es generalizing h with
  | nil => rfl
  | cons e es ih =>
    rw [Hw.evictExperts]
    split
    · rfl
    · rw [ih, parts_setVslot]

@[simp] theorem parts_admitPage (h : Hw) : parts h.admitPage = parts h := by
  simp only [Hw.admitPage]
  (repeat' split) <;> simp

@[simp] theorem parts_stagePassed (h : Hw) (i : ImageFile) (g : Staging) (gs : List Nat) :
    parts (h.stagePassed i g gs) = parts h := by
  simp [Hw.stagePassed]

@[simp] theorem parts_yieldTrunk (h : Hw) (i : ImageFile) : parts (h.yieldTrunk i) = parts h := by
  unfold Hw.yieldTrunk
  split <;> simp

@[simp] theorem parts_copyStart (h : Hw) (k : Nat) : parts (h.copyStart k) = parts h := by
  simp only [Hw.copyStart]
  (repeat' split) <;> simp

@[simp] theorem parts_lostLine (h : Hw) (v : VSlot) : parts (h.lostLine v).2 = parts h := by rfl

@[simp] theorem parts_refreshBank (h : Hw) (ch bank : Nat) : parts (h.refreshBank ch bank) = parts h := by
  simp [Hw.refreshBank]

@[simp] theorem parts_pollRefresh (h : Hw) (m : Nat) (t : W16) : parts (h.pollRefresh m t) = parts h := by
  simp [Hw.pollRefresh]

@[simp] theorem parts_farToSelf (h : Hw) : parts h.farToSelf = parts h := by
  simp [Hw.farToSelf]

@[simp] theorem parts_enterSelfRefresh (h : Hw) : parts h.enterSelfRefresh = parts h := by
  simp [Hw.enterSelfRefresh]

@[simp] theorem parts_exitSelfRefresh (h : Hw) : parts h.exitSelfRefresh = parts h := by rfl

@[simp] theorem parts_calibrate (h : Hw) : parts h.calibrate = parts h := by
  simp [Hw.calibrate]

@[simp] theorem parts_manageRefresh (h : Hw) (ch : Nat) : parts (h.manageRefresh ch) = parts h := by
  simp [Hw.manageRefresh]

/-! ### Set-up registers -/

@[simp] theorem parts_saveRecord (h : Hw) : parts h.saveRecord = parts h := by
  simp only [Hw.saveRecord]
  (repeat' split) <;> simp

@[simp] theorem parts_loadRecord (h : Hw) : parts h.loadRecord = parts h := by
  unfold Hw.loadRecord
  split
  · rfl
  · refine foldl_keeps parts _ (fun g k => ?_) _ _
    rfl

@[simp] theorem parts_sqBaseWrite (h : Hw) (q : Nat) (p : Part) (w : W64) : parts (h.sqBaseWrite q p w) = parts h := by
  simp [Hw.sqBaseWrite]

@[simp] theorem parts_cqBaseWrite (h : Hw) (q : Nat) (p : Part) (w : W64) : parts (h.cqBaseWrite q p w) = parts h := by
  simp [Hw.cqBaseWrite]

@[simp] theorem parts_sqOwnerWrite (h : Hw) (q : Nat) (p : Part) (w : W64) : parts (h.sqOwnerWrite q p w) = parts h := by
  simp [Hw.sqOwnerWrite]

@[simp] theorem parts_sqCreditWrite (h : Hw) (q : Nat) (p : Part) (w : W64) : parts (h.sqCreditWrite q p w) = parts h := by
  simp [Hw.sqCreditWrite]

@[simp] theorem parts_sqSizeWrite (h : Hw) (q : Nat) (p : Part) (w : W64) : parts (h.sqSizeWrite q p w) = parts h := by
  simp [Hw.sqSizeWrite]

@[simp] theorem parts_cqSizeWrite (h : Hw) (q : Nat) (p : Part) (w : W64) : parts (h.cqSizeWrite q p w) = parts h := by
  simp [Hw.cqSizeWrite]

@[simp] theorem parts_cqVectorWrite (h : Hw) (q : Nat) (p : Part) (w : W64) : parts (h.cqVectorWrite q p w) = parts h := by
  simp [Hw.cqVectorWrite]

@[simp] theorem parts_queueWrite (h : Hw) (q r : Nat) (p : Part) (w : W64) : parts (h.queueWrite q r p w) = parts h := by
  simp only [Hw.queueWrite]
  (repeat' split) <;> simp

@[simp] theorem parts_whenAlive {f : Hw → Hw} (hf : ∀ g, parts (f g) = parts g) (h : Hw) : parts (h.whenAlive f) = parts h := by
  unfold Hw.whenAlive
  split
  · exact hf h
  · rfl

@[simp] theorem parts_loadAddrWrite (h : Hw) (p : Part) (w : W64) : parts (h.loadAddrWrite p w) = parts h := by
  simp [Hw.loadAddrWrite]

@[simp] theorem parts_loadLenWrite (h : Hw) (p : Part) (w : W64) : parts (h.loadLenWrite p w) = parts h := by
  simp [Hw.loadLenWrite]

@[simp] theorem parts_copyImage (h : Hw) (img : Option ImageFile) : parts (h.copyImage img) = parts h := by
  simp only [Hw.copyImage]
  (repeat' split) <;> simp

@[simp] theorem parts_eccClearWrite (h : Hw) (p : Part) (w : W64) : parts (h.eccClearWrite p w) = parts h := by
  simp [Hw.eccClearWrite]

@[simp] theorem parts_pwrCapWrite (h : Hw) (w : W32) : parts (h.pwrCapWrite w) = parts h := by
  simp [Hw.pwrCapWrite]

@[simp] theorem parts_ticksyncWrite (h : Hw) (p : Part) (w : W64) : parts (h.ticksyncWrite p w) = parts h := by
  simp [Hw.ticksyncWrite]

/-! ### Firmware and attestation -/

@[simp] theorem parts_setFw (h : Hw) (k : Nat) (x : FwSlot) : parts (h.setFw k x) = parts h := by rfl

@[simp] theorem parts_bootKind (h : Hw) (k : Nat) : parts (h.bootKind k) = parts h := by
  simp [Hw.bootKind]

@[simp] theorem parts_relist (h : Hw) : parts h.relist = parts h := by
  unfold Hw.relist
  split <;> simp

@[simp] theorem parts_unseal (h : Hw) : parts h.unseal = parts h := by rfl

@[simp] theorem parts_extendObject (h : Hw) (reg k : Nat) : parts (h.extendObject reg k) = parts h := by
  unfold Hw.extendObject
  split <;> simp

@[simp] theorem parts_extendWarden (h : Hw) : parts h.extendWarden = parts h := by
  unfold Hw.extendWarden
  split <;> simp

@[simp] theorem parts_measureBoot (h : Hw) : parts h.measureBoot = parts h := by
  simp [Hw.measureBoot]

@[simp] theorem parts_initMemories (h : Hw) (failed : Option (Nat × Nat)) : parts (h.initMemories failed) = parts h := by rfl

@[simp] theorem parts_takeStaged (h : Hw) (k : Nat) (trial : Bool) : parts (h.takeStaged k trial) = parts h := by
  simp [Hw.takeStaged]

@[simp] theorem parts_installBlob (h : Hw) : parts h.installBlob = parts h := by
  simp [Hw.installBlob]

@[simp] theorem parts_stageFw (h : Hw) (k len : Nat) : parts (h.stageFw k len) = parts h := by
  simp only [Hw.stageFw]
  (repeat' split) <;> rfl

@[simp] theorem parts_abandonFw (h : Hw) (k : Nat) : parts (h.abandonFw k) = parts h := by rfl

@[simp] theorem parts_stageEnds (h : Hw) (ok : Bool) : parts (h.stageEnds ok) = parts h := by
  simp only [Hw.stageEnds]
  (repeat' split) <;> rfl

@[simp] theorem parts_trialEnds (h : Hw) (k : Nat) : parts (h.trialEnds k) = parts h := by
  simp [Hw.trialEnds]

@[simp] theorem parts_attestWrite (h : Hw) (p : Part) (w : W64) : parts (h.attestWrite p w) = parts h := by
  simp [Hw.attestWrite]

@[simp] theorem parts_reportEnds (h : Hw) (sig : Option (List Byte)) : parts (h.reportEnds sig) = parts h := by
  simp only [Hw.reportEnds]
  (repeat' split) <;> simp

/-! ### Audio ports -/

@[simp] theorem parts_aportCtlWrite (h : Hw) (p : Nat) (w : W32) : parts (h.aportCtlWrite p w) = parts h := by
  simp [Hw.aportCtlWrite]

@[simp] theorem parts_aportFmtWrite (h : Hw) (p : Nat) (w : W32) : parts (h.aportFmtWrite p w) = parts h := by
  simp [Hw.aportFmtWrite]

@[simp] theorem parts_aportMaskWrite (h : Hw) (p : Nat) (w : W32) : parts (h.aportMaskWrite p w) = parts h := by
  simp [Hw.aportMaskWrite]

@[simp] theorem parts_aportStatWrite (h : Hw) (p : Nat) (part : Part) (w : W64) :
    parts (h.aportStatWrite p part w) = parts h := by
  simp [Hw.aportStatWrite]

@[simp] theorem parts_lockFollower (h : Hw) (p : Nat) (drift : W16) : parts (h.lockFollower p drift) = parts h := by
  simp only [Hw.lockFollower]
  (repeat' split) <;> simp

@[simp] theorem parts_flagWords (h : Hw) (x y : Port) : parts (h.flagWords x y) = parts h := by
  simp [Hw.flagWords]

@[simp] theorem parts_frameOut (h : Hw) (p : Nat) : parts (h.frameOut p) = parts h := by
  simp [Hw.frameOut]

@[simp] theorem parts_fmeasWrite (h : Hw) (w : W32) : parts (h.fmeasWrite w) = parts h := by
  simp [Hw.fmeasWrite]

@[simp] theorem parts_fmeasClose (h : Hw) (n : Nat) : parts (h.fmeasClose n) = parts h := by
  simp [Hw.fmeasClose]

/-! ### The Warden -/

@[simp] theorem parts_policyWrite (h : Hw) (bar : Nat) (ws : List (Nat × W32)) : parts (h.policyWrite bar ws) = parts h := by
  simp only [Hw.policyWrite]
  (repeat' split) <;> simp

@[simp] theorem parts_setChan (h : Hw) (n : Nat) (n3 : Channel) : parts (h.setChan n n3) = parts h := by rfl

@[simp] theorem parts_sense (h : Hw) (codes : List W16) (n : Nat) : parts (h.sense codes n) = parts h := by
  simp [Hw.sense]

@[simp] theorem parts_coolants (h : Hw) : parts h.coolants = parts h := by rfl

@[simp] theorem parts_stepDown (h : Hw) (n : Nat) : parts (h.stepDown n) = parts h := by
  simp [Hw.stepDown]

@[simp] theorem parts_inputScan (h : Hw) : parts h.inputScan = parts h := by
  simp [Hw.inputScan]

@[simp] theorem parts_capScan (h : Hw) : parts h.capScan = parts h := by
  simp [Hw.capScan]

@[simp] theorem parts_capStep (h : Hw) : parts h.capStep = parts h := by
  simp [Hw.capStep]

/-! ### Boot, power and clocks -/

@[simp] theorem parts_auxRises (h : Hw) : parts h.auxRises = parts h := by
  simp [Hw.auxRises]

@[simp] theorem parts_phaseW (h : Hw) : parts h.phaseW = parts h := by
  simp [Hw.phaseW]

@[simp] theorem parts_railsStart (h : Hw) : parts h.railsStart = parts h := by
  simp [Hw.railsStart]

@[simp] theorem parts_portsOff (h : Hw) : parts h.portsOff = parts h := by
  simp [Hw.portsOff]

@[simp] theorem parts_portsOn (h : Hw) : parts h.portsOn = parts h := by
  simp [Hw.portsOn]

@[simp] theorem parts_trained (h : Hw) (rate width : BitVec 4) : parts (h.trained rate width) = parts h := by
  simp [Hw.trained]

@[simp] theorem parts_sendPending (h : Hw) : parts h.sendPending = parts h := by
  simp [Hw.sendPending]

@[simp] theorem parts_unmask (h : Hw) (v : Option (Fin 512)) : parts (h.unmask v) = parts h := by
  unfold Hw.unmask
  split <;> simp

@[simp] theorem parts_detector (h : Hw) : parts h.detector = parts h := by
  simp [Hw.detector]

@[simp] theorem parts_syncMissing (h : Hw) : parts h.syncMissing = parts h := by rfl

/-! ### The register map -/

@[simp] theorem parts_lone {f : Hw → W32 → Hw} (hf : ∀ g v, parts (f g v) = parts g) (h : Hw) (o : Nat) (p : Part) (w : W64) :
    parts (h.lone o p w f) = parts h := by
  unfold Hw.lone
  split <;> simp [hf]

@[simp] theorem parts_pwrStatWrite (h : Hw) (p : Part) (w : W64) : parts (h.pwrStatWrite p w) = parts h := by
  simp [Hw.pwrStatWrite]

@[simp] theorem parts_fwStatWrite (h : Hw) (k : Nat) (p : Part) (w : W64) : parts (h.fwStatWrite k p w) = parts h := by
  simp [Hw.fwStatWrite]

@[simp] theorem parts_statWrite (h : Hw) (p : Part) (w : W64) : parts (h.statWrite p w) = parts h := by
  simp [Hw.statWrite]

@[simp] theorem parts_msixWrite (h : Hw) (o : Nat) (p : Part) (w : W64) : parts (h.msixWrite o p w) = parts h := by
  simp [Hw.msixWrite]

@[simp] theorem parts_attestWinWrite (h : Hw) (o : Nat) (p : Part) (w : W64) : parts (h.attestWinWrite o p w) = parts h := by
  simp [Hw.attestWinWrite]

@[simp] theorem parts_policyPart (h : Hw) (o : Nat) (p : Part) (w : W64) : parts (h.policyPart o p w) = parts h := by
  unfold Hw.policyPart
  split <;> simp

@[simp] theorem parts_portWrite (h : Hw) (q r : Nat) (p : Part) (w : W64) : parts (h.portWrite q r p w) = parts h := by
  unfold Hw.portWrite
  split <;> simp

@[simp] theorem parts_bar2Write (h : Hw) (o off size : Nat) (data : W64) : parts (h.bar2Write o off size data) = parts h := by
  simp [Hw.bar2Write]

@[simp] theorem parts_aerCorrected (h : Hw) (e : LinkError) : parts (h.aerCorrected e) = parts h := by rfl

@[simp] theorem parts_viewDrop (h : Hw) (v : View) (off : Nat) : parts (h.viewDrop v off) = parts h := by
  unfold Hw.viewDrop
  split <;> simp

@[simp] theorem parts_smbusDone (h : Hw) (status : BitVec 8) : parts (h.smbusDone status) = parts h := by rfl

@[simp] theorem parts_smbusRead (h : Hw) : parts h.smbusRead = parts h := by
  simp [Hw.smbusRead]

/-! ### What waits beside a stream -/

@[simp] theorem parts_admitLane (h : Hw) : parts h.admitLane = parts h := by
  unfold Hw.admitLane
  split <;> simp

@[simp] theorem parts_applyQueued (h : Hw) (n : Nat) : parts (h.applyQueued n) = parts h := by
  simp only [Hw.applyQueued]
  (repeat' split) <;> simp

@[simp] theorem parts_applyHeld (h : Hw) (i : ImageFile) (n : Nat) (f : WaitFeed) : parts (h.applyHeld i n f) = parts h := by
  unfold Hw.applyHeld
  split <;> simp

@[simp] theorem parts_releaseHeld (h : Hw) (n : Nat) : parts (h.releaseHeld n) = parts h := by
  unfold Hw.releaseHeld
  split <;> simp

@[simp] theorem parts_openAudio (h : Hw) (n : Nat) : parts (h.openAudio n) = parts h := by
  simp only [Hw.openAudio]
  (repeat' split) <;> simp

@[simp] theorem parts_copyEvicted (h : Hw) (n : Nat) : parts (h.copyEvicted n) = parts h := by
  unfold Hw.copyEvicted
  split <;> simp

end Sys2Proof.Kept
end

section
/-!
PROOF. What every command keeps: the memories' canonical form, and the header of ERR_LOG that no entry falls on. The few operations
that write a memory or the log keep the claim; all others leave what it speaks of alone.
-/
namespace Sys2Proof.Kept
open Sys2Proof.Machine

/-- The two invariants: the memories' canonical form, and the header of ERR_LOG that no entry falls on. -/
inductive Claim where
  | memories
  | logHeader

/-- What a claim says of the parts of a block. -/
def Claim.Of : Claim → Memory × Memory × Memory × Memory × Memory × Memory × BitVec 14 → Prop
  | .memories, (near, far, tile, se, ctl, window, _) => Memory.wf near = true ∧ Memory.wf far = true ∧ Memory.wf tile = true
      ∧ Memory.wf se = true ∧ Memory.wf ctl = true ∧ Memory.wf window = true
  | .logHeader, (_, _, _, _, _, _, slot) => 1 ≤ slot.toNat

section parts
variable {c : Claim} {near far tile se ctl window : Memory} {slot : BitVec 14}

@[simp] theorem of_near (hp : c.Of (near, far, tile, se, ctl, window, slot)) (a : Nat) (b : Byte) :
    c.Of (write8 near a b, far, tile, se, ctl, window, slot) := by
  cases c
  · exact ⟨Memory.wf_write8 _ _ _ hp.1, hp.2⟩
  · exact hp

@[simp] theorem of_far (hp : c.Of (near, far, tile, se, ctl, window, slot)) (a : Nat) (b : Byte) :
    c.Of (near, write8 far a b, tile, se, ctl, window, slot) := by
  obtain _ | _ := c
  · obtain ⟨hn, hf, hr⟩ := hp
    exact ⟨hn, Memory.wf_write8 _ _ _ hf, hr⟩
  · exact hp

@[simp] theorem of_tile (hp : c.Of (near, far, tile, se, ctl, window, slot)) (a : Nat) (bs : List Byte) :
    c.Of (near, far, writeN tile a bs, se, ctl, window, slot) := by
  obtain _ | _ := c
  · obtain ⟨hn, hf, ht, hr⟩ := hp
    exact ⟨hn, hf, Memory.wf_writeN _ _ _ ht, hr⟩
  · exact hp

@[simp] theorem of_tile8 (hp : c.Of (near, far, tile, se, ctl, window, slot)) (a : Nat) (b : Byte) :
    c.Of (near, far, write8 tile a b, se, ctl, window, slot) := of_tile hp a [b]

@[simp] theorem of_se (hp : c.Of (near, far, tile, se, ctl, window, slot)) (a : Nat) (bs : List Byte) :
    c.Of (near, far, tile, writeN se a bs, ctl, window, slot) := by
  obtain _ | _ := c
  · obtain ⟨hn, hf, ht, hs, hr⟩ := hp
    exact ⟨hn, hf, ht, Memory.wf_writeN _ _ _ hs, hr⟩
  · exact hp

@[simp] theorem of_se8 (hp : c.Of (near, far, tile, se, ctl, window, slot)) (a : Nat) (b : Byte) :
    c.Of (near, far, tile, write8 se a b, ctl, window, slot) := of_se hp a [b]

@[simp] theorem of_ctl (hp : c.Of (near, far, tile, se, ctl, window, slot)) (a : Nat) (bs : List Byte) :
    c.Of (near, far, tile, se, writeN ctl a bs, window, slot) := by
  obtain _ | _ := c
  · obtain ⟨hn, hf, ht, hs, hc, hr⟩ := hp
    exact ⟨hn, hf, ht, hs, Memory.wf_writeN _ _ _ hc, hr⟩
  · exact hp

@[simp] theorem of_ctl8 (hp : c.Of (near, far, tile, se, ctl, window, slot)) (a : Nat) (b : Byte) :
    c.Of (near, far, tile, se, write8 ctl a b, window, slot) := of_ctl hp a [b]

@[simp] theorem of_window (hp : c.Of (near, far, tile, se, ctl, window, slot)) (a : Nat) (bs : List Byte) :
    c.Of (near, far, tile, se, ctl, writeN window a bs, slot) := by
  obtain _ | _ := c
  · obtain ⟨hn, hf, ht, hs, hc, hw⟩ := hp
    exact ⟨hn, hf, ht, hs, hc, Memory.wf_writeN _ _ _ hw⟩
  · exact hp

/-- A log whose next position is behind the header leaves the claim as it was. -/
theorem of_slot {slot' : BitVec 14} (hp : c.Of (near, far, tile, se, ctl, window, slot))
    (hs : 1 ≤ slot.toNat → 1 ≤ slot'.toNat) : c.Of (near, far, tile, se, ctl, window, slot') := by
  obtain _ | _ := c
  · exact hp
  · exact hs hp

@[simp] theorem of_ite (p : Prop) [Decidable p] (x y : Memory × Memory × Memory × Memory × Memory × Memory × BitVec 14) :
    c.Of (if p then x else y) ↔ (p → c.Of x) ∧ (¬ p → c.Of y) := by
  split <;> simp_all

end parts

@[simp] theorem setFw_window (h : Hw) (k : Nat) (x : FwSlot) : (h.setFw k x).sec.window = h.sec.window := rfl

variable {c : Claim}

@[simp] theorem kept_foldl {α : Type} {f : Hw → α → Hw} (hf : ∀ g a, c.Of (parts g) → c.Of (parts (f g a))) (l : List α) {h : Hw}
    (hk : c.Of (parts h)) : c.Of (parts (l.foldl f h)) :=
  foldl_inv (fun g => c.Of (parts g)) f hf l h hk

variable {h : Hw}

/-! ### Named operations -/

@[simp] theorem kept_note (hk : c.Of (parts h)) (e : LogEntry) : c.Of (parts (h.note e)) := by
  rw [parts, h.note_mem, h.note_sec, h.note_log]
  refine of_slot hk fun hs => ?_
  split
  · exact hs
  · exact (appendLog_spec _ _ hs).2

@[simp] theorem kept_refused (hk : c.Of (parts h)) (what : Nat) : c.Of (parts (h.refused what)) := by
  simp [Hw.refused, hk]

@[simp] theorem kept_flushDrops (hk : c.Of (parts h)) : c.Of (parts h.flushDrops) := by
  unfold Hw.flushDrops
  split
  · exact hk
  · exact kept_note hk _

@[simp] theorem kept_setMode (hk : c.Of (parts h)) (m : DevMode) (cause : Nat) : c.Of (parts (h.setMode m cause)) := by
  unfold Hw.setMode
  split
  · exact hk
  · exact kept_note (by exact hk) _

/-! ### The tick boundary -/

@[simp] theorem kept_portCause (hk : c.Of (parts h)) (p k : Nat) : c.Of (parts (h.portCause p k)) := by
  unfold Hw.portCause
  dsimp only
  split
  · exact hk
  · exact kept_note (by simpa using hk) _

@[simp] theorem kept_portForce (hk : c.Of (parts h)) (p : Nat) (x : Port) : c.Of (parts (h.portForce p x)) := by
  simp [Hw.portForce, hk]

/-- Of the latched items only the clear of ERR_LOG concerns the parts: it makes position 1 the next. -/
@[simp] theorem kept_force (hk : c.Of (parts h)) (x : LatchItem) : c.Of (parts (h.force x)) := by
  cases x with
  | logClear => exact of_slot hk fun _ => (by decide : 1 ≤ (1#14).toNat)
  | _ =>
    simp only [Hw.force]
    (repeat' split) <;> simp [hk]

@[simp] theorem kept_latchPass (hk : c.Of (parts h)) (f : LatchItem → Bool) : c.Of (parts (h.latchPass f)) :=
  kept_foldl (fun _ _ hg => kept_force hg _) _ (by exact hk)

@[simp] theorem kept_latchBoundary (hk : c.Of (parts h)) : c.Of (parts h.latchBoundary) := by
  simp [Hw.latchBoundary, hk]

@[simp] theorem kept_latchIdle (hk : c.Of (parts h)) : c.Of (parts h.latchIdle) := by
  simp [Hw.latchIdle, hk]

@[simp] theorem kept_rest (hk : c.Of (parts h)) (cause : Nat) : c.Of (parts (h.rest cause)) := by
  unfold Hw.rest
  split <;> exact kept_setMode (by exact hk) _ _

@[simp] theorem kept_stopNow (hk : c.Of (parts h)) : c.Of (parts h.stopNow) := by
  simp [Hw.stopNow, hk]

/-- The part of a boundary that begins a tick, or stops the executive. -/
@[simp] theorem kept_boundary (hk : c.Of (parts h)) : c.Of (parts h.boundary) := by
  unfold Hw.boundary
  split
  · exact hk
  split
  · rwa [parts_rerunTick]
  split
  · extract_lets _ counted latched go
    have hlatched : c.Of (parts latched) := kept_latchBoundary (by exact hk)
    have hgo {x : Hw} (hx : c.Of (parts x)) : c.Of (parts (go x)) := by
      unfold go
      split
      · rw [parts_afterOutage, parts_beginTick]
        exact hx
      · rwa [parts_beginTick]
    split
    · split
      · exact hgo (kept_refused (by exact hlatched) _)
      split
      · exact kept_stopNow hlatched
      · exact hgo (by exact hlatched)
    · exact hgo hlatched
  split
  · extract_lets based _ _ counted _ due moded woken
    have hdue : c.Of (parts due) := (congrArg c.Of (parts_rebaseUse h)).mpr hk
    rw [parts_beginTick]
    refine kept_latchBoundary ?_
    have hmoded : c.Of (parts moded) := kept_setMode hdue _ _
    exact hmoded
  · exact hk

@[simp] theorem kept_reserveStart (hk : c.Of (parts h)) (late : Option Nat) : c.Of (parts (h.reserveStart late)) := by
  unfold Hw.reserveStart
  dsimp only
  split
  · cases late
    · exact hk
    · exact kept_note (by exact hk) _
  · exact hk

/-! ### Faults and replays -/

theorem kept_checked (hk : c.Of (parts h)) (u owner : UnitId) (unit : Nat) (ctx : Option Nat) (chk : PassCheck) (residues : Bool)
    {f : Hw → Hw} (hf : ∀ g, c.Of (parts g) → c.Of (parts (f g))) : c.Of (parts (h.checked u owner unit ctx chk residues f)) := by
  cases chk <;> simp only [Hw.checked]
  all_goals (repeat' split) <;> simp [hk, hf]

@[simp] theorem kept_noteEcc (hk : c.Of (parts h)) (near : Bool) (unit addr owner cls : Nat) :
    c.Of (parts (h.noteEcc near unit addr owner cls)) := by
  simp [Hw.noteEcc, hk]

@[simp] theorem kept_uncorrectable (hk : c.Of (parts h)) (near : Bool) (unit addr : Nat) (reader : UnitId) (runit : Nat) (o :
    LineOwner) (op : BitVec 256) :
    c.Of (parts (h.uncorrectable near unit addr reader runit o op)) := by
  unfold Hw.uncorrectable
  split <;> simp [hk]

/-! ### Tensor Tiles -/

@[simp] theorem kept_partWrite (hk : c.Of (parts h)) (t base size off : Nat) (bs : List Byte) :
    c.Of (parts (h.partWrite t base size off bs)) := of_tile hk _ _

@[simp] theorem kept_rowWrite (hk : c.Of (parts h)) (t : Nat) (l : Loc) (r at0 : Nat) (bs : List Byte) :
    c.Of (parts (h.rowWrite t l r at0 bs)) := by
  simp [Hw.rowWrite, hk]

theorem kept_eachRow (hk : c.Of (parts h)) (sv : Serve) (first count : Nat) {f : Hw → Nat → Stream → Nat → Nat → Hw}
    (hf : ∀ g n s r q, c.Of (parts g) → c.Of (parts (f g n s r q))) : c.Of (parts (h.eachRow sv first count f)) := by
  refine kept_foldl (fun g e hg => ?_) _ hk
  split
  · exact hf _ _ _ _ _ hg
  · exact hg

theorem kept_eachStream (hk : c.Of (parts h)) (sv : Serve) (first count : Nat) {f : Hw → Nat → Stream → Hw}
    (hf : ∀ g n s, c.Of (parts g) → c.Of (parts (f g n s))) : c.Of (parts (h.eachStream sv first count f)) := by
  refine kept_foldl (fun g e hg => ?_) _ hk
  split
  · exact hf _ _ _ hg
  · exact hg

@[simp] theorem kept_arrayDo (hk : c.Of (parts h)) (i : ImageFile) (p t : Nat) (x : ArrayPass) (slip : Int) (errs : List SumError)
    (rows : List (Nat × Nat × Nat)) : c.Of (parts (h.arrayDo i p t x slip errs rows)) := by
  refine kept_foldl (fun g e hg => ?_) _ (by rwa [parts_setTile])
  dsimp only
  split <;> simp [hg]

@[simp] theorem kept_vectorDo (hk : c.Of (parts h)) (i : ImageFile) (t : Nat) (sv : Serve) (fn : VecFn) (half : Bool) (a b dst :
    Loc) (n n11 : Nat) (s : Stream) (r q : Nat) :
    c.Of (parts (h.vectorDo i t sv fn half a b dst n n11 s r q)) := by
  simp [Hw.vectorDo, hk]

@[simp] theorem kept_recurDo (hk : c.Of (parts h)) (i : ImageFile) (t k : Nat) (a u dst : Loc) (n : Nat) (s : Stream) (r : Nat) :
    c.Of (parts (h.recurDo i t k a u dst n s r)) := by
  unfold Hw.recurDo
  split <;> simp [hk]

@[simp] theorem kept_chunkDo (hk : c.Of (parts h)) (i : ImageFile) (t k : Nat) (a u dst : Loc) (rows : List (Nat × Nat)) (n : Nat)
    (s : Stream) : c.Of (parts (h.chunkDo i t k a u dst rows n s)) := by
  unfold Hw.chunkDo
  split
  · dsimp only
    split
    · exact hk
    · exact kept_foldl (fun g e hg => by simp [hg]) _ (by rwa [parts_setStream])
  · exact hk

@[simp] theorem kept_chunkInputDo (hk : c.Of (parts h)) (t : Nat) (dst : Loc) (rows : List (Nat × Nat)) (s : Stream) :
    c.Of (parts (h.chunkInputDo t dst rows s)) := by
  refine kept_foldl (fun g e hg => ?_) _ hk
  split <;> simp [hg]

@[simp] theorem kept_frameInputDo (hk : c.Of (parts h)) (i : ImageFile) (t : Nat) (feat table : Loc) (width : Nat) (emb fb : Loc)
    (s : Stream) (r : Nat) : c.Of (parts (h.frameInputDo i t feat table width emb fb s r)) :=
  kept_rowWrite (kept_rowWrite (kept_rowWrite hk ..) ..) ..

@[simp] theorem kept_tokenInputDo (hk : c.Of (parts h)) (i : ImageFile) (t : Nat) (table : Loc) (width : Nat) (emb : Loc) (s :
    Stream) (r : Nat) :
    c.Of (parts (h.tokenInputDo i t table width emb s r)) := by
  simp [Hw.tokenInputDo, hk]

@[simp] theorem kept_attendDo (hk : c.Of (parts h)) (i : ImageFile) (t layer head : Nat) (q k v dst : Loc) (n : Nat) (s :
    Stream) (r : Nat) :
    c.Of (parts (h.attendDo i t layer head q k v dst n s r)) := by
  simp [Hw.attendDo, hk]

@[simp] theorem kept_tileDo (hk : c.Of (parts h)) (i : ImageFile) (p t : Nat) (sv : Serve) (first count : Nat) (op : TileOp)
    (slip : Int) (errs : List SumError) : c.Of (parts (h.tileDo i p t sv first count op slip errs)) := by
  cases op with
  | array =>
    simp only [Hw.tileDo]
    split <;> simp [hk]
  | chunkInput | chunk | featureOut | stateWrite => exact kept_eachStream hk _ _ _ fun _ _ _ hg => by simp [hg]
  | _ => exact kept_eachRow hk _ _ _ fun _ _ _ _ _ hg => by simp [hg]

@[simp] theorem kept_mailbox (hk : c.Of (parts h)) (t p : Nat) (ok : Bool) : c.Of (parts (h.mailbox t p ok)) := by
  unfold Hw.mailbox
  dsimp only
  split
  · exact of_tile hk _ _
  · exact hk

@[simp] theorem kept_endStep (hk : c.Of (parts h)) (i : ImageFile) (w : WaitPass) (t : Nat) (sv : Serve) (first count : Nat)
    (op : TileOp) : c.Of (parts (h.endStep i w t sv first count op)) := by
  unfold Hw.endStep
  extract_lets
  split
  · rwa [parts_setTile]
  · exact kept_checked (kept_mailbox hk _ _ _) _ _ _ _ _ _ fun g hg => by exact kept_tileDo hg _ _ _ _ _ _ _ _ _

@[simp] theorem kept_tilePass (hk : c.Of (parts h)) (w : WaitPass) : c.Of (parts (h.tilePass w)) := by
  simp only [Hw.tilePass]
  (repeat' split) <;> simp [hk]

@[simp] theorem kept_resume (hk : c.Of (parts h)) (t : Nat) : c.Of (parts (h.resume t)) := by
  unfold Hw.resume
  split <;> simp [hk]

@[simp] theorem kept_handover (hk : c.Of (parts h)) (t q : Nat) : c.Of (parts (h.handover t q)) := by
  simp only [Hw.handover]
  (repeat' split) <;> simp [hk]

@[simp] theorem kept_scaleArrival (hk : c.Of (parts h)) (t n : Nat) : c.Of (parts (h.scaleArrival t n)) := by
  simp [Hw.scaleArrival, hk]

/-! ### Intake close and commit -/

@[simp] theorem kept_resolveWork (hk : c.Of (parts h)) (late : List Late) : c.Of (parts (h.resolveWork late)) := by
  simp [Hw.resolveWork, hk]

@[simp] theorem kept_transientEntries (hk : c.Of (parts h)) : c.Of (parts h.transientEntries) :=
  kept_foldl (f := fun a (x : FaultHist) =>
    a.note { entry 0x0001 1 0 x.who x.unit x.tries with merged := BitVec.ofNat 32 x.count }) (fun _ _ hg => kept_note hg _) _ hk

@[simp] theorem kept_fenceEntries (hk : c.Of (parts h)) : c.Of (parts h.fenceEntries) :=
  kept_foldl (fun _ _ hg => kept_note hg _) _ (by exact hk)

/-- The entries of a commit: of dropped writes, of transient faults and of fenced units. -/
theorem kept_commitEntries (hk : c.Of (parts h)) : c.Of (parts h.flushDrops.transientEntries.fenceEntries) :=
  kept_fenceEntries (kept_transientEntries (kept_flushDrops hk))

@[simp] theorem kept_flushLog (hk : c.Of (parts h)) : c.Of (parts h.flushLog) :=
  of_slot hk fun hs => foldl_inv (fun l => 1 ≤ l.writeSlot.toNat) appendLog (fun l e hl => (appendLog_spec l e hl).2) _ _ hs

@[simp] theorem kept_publish (hk : c.Of (parts h)) (epoch : W64) : c.Of (parts (h.publish epoch)) := by
  simp [Hw.publish, hk]

@[simp] theorem kept_safeCommit (hk : c.Of (parts h)) : c.Of (parts h.safeCommit) := by
  unfold Hw.safeCommit
  dsimp only
  rw [parts_mk, parts_eta, parts_haltExec, parts_closeAll]
  refine kept_publish ?_ _
  refine kept_rest ?_ _
  rw [parts_mk, parts_eta, parts_degradedEvents]
  refine kept_commitEntries ?_
  rw [parts_abortOpen, parts_foldl (fun g p => parts_commitPort ..)]
  refine (congrArg c.Of (parts_foldl (fun g e => ?_) _ _)).mpr hk
  repeat' split
  all_goals simp

@[simp] theorem kept_linkStop (hk : c.Of (parts h)) : c.Of (parts h.linkStop) := by
  simp [Hw.linkStop, hk]

@[simp] theorem kept_commitTick (hk : c.Of (parts h)) (i : ImageFile) : c.Of (parts (h.commitTick i)) := by
  unfold Hw.commitTick
  extract_lets framed before at0 moved streamed imported evicted ported advised entered events moded swept published counted _ _ done
  have hframed : parts framed = parts h := parts_foldl (fun _ _ => parts_followerFrames ..) ..
  have hmoved : parts moved = parts framed := parts_foldl (fun _ _ => parts_moveSwitch ..) ..
  have hstreamed : parts streamed = parts moved := parts_foldl (fun _ _ => parts_commitStream ..) ..
  have himported : parts imported = parts streamed := parts_foldl (fun _ _ => parts_commitImport ..) ..
  have hevicted : parts evicted = parts imported := parts_foldl (fun _ _ => parts_commitEviction ..) ..
  have hported : parts ported = parts evicted := parts_foldl (fun _ _ => parts_commitPort ..) ..
  have hadvised : parts advised = parts h := by
    unfold advised
    rw [parts_freeVersions, parts_adviseAll, parts_commitRestores, hported, hevicted, himported, hstreamed, hmoved, hframed]
  have hevents : c.Of (parts events) := by
    unfold events
    rw [parts_degradedEvents]
    refine kept_commitEntries ?_
    rwa [hadvised]
  have hmoded : c.Of (parts moded) := by
    unfold moded
    split
    · exact kept_setMode hevents _ _
    · exact hevents
  have hdone : c.Of (parts done) := by
    have hcounted : parts done = parts published := (parts_mk ..).trans (parts_countTrials _)
    rw [hcounted]
    exact kept_publish (by simpa [swept] using hmoded) _
  split
  · exact kept_linkStop hdone
  · exact hdone

@[simp] theorem kept_intakeClose (hk : c.Of (parts h)) (late : List Late) : c.Of (parts (h.intakeClose late)) := by
  simp only [Hw.intakeClose]
  (repeat' split) <;> simp [hk]

@[simp] theorem kept_idlePublish (hk : c.Of (parts h)) : c.Of (parts h.idlePublish) := by
  unfold Hw.idlePublish
  dsimp only
  split
  · exact hk
  rw [parts_drainStopped, parts_sendMsix, parts_snapshot]
  refine kept_flushLog ?_
  rw [parts_publishRecords, parts_sweepFences, parts_commitRestores]
  refine kept_flushDrops ?_
  rw [parts_coolBoundary]
  exact kept_latchIdle hk

/-! ### Address spaces and Pumps -/

@[simp] theorem kept_spacePut (hk : c.Of (parts h)) (sp a : Nat) (b : Byte) : c.Of (parts (h.spacePut sp a b)) := by
  unfold Hw.spacePut
  split
  · exact of_near hk _ _
  · split
    · exact hk
    · exact of_far hk _ _
  · exact of_tile8 hk _ _
  · exact of_se8 hk _ _
  · exact of_ctl8 hk _ _
  · exact hk

@[simp] theorem kept_spaceWrite (hk : c.Of (parts h)) (sp a : Nat) (bs : List Byte) : c.Of (parts (h.spaceWrite sp a bs)) := by
  induction bs generalizing h a with
  | nil => exact hk
  | cons b bs ih =>
    rw [Hw.spaceWrite]
    refine ih ?_ _
    split <;> simp [hk]

/-! ### Doorbells and decoding -/

@[simp] theorem kept_viaBar2 {f : Hw → Hw} (hf : c.Of (parts (f h))) : c.Of (parts (h.viaBar2 f)) := by
  unfold Hw.viaBar2
  split <;> exact hf

@[simp] theorem kept_aer (hk : c.Of (parts h)) (bit : Nat) : c.Of (parts (h.aer bit)) := by
  simp [Hw.aer, hk]

@[simp] theorem kept_aerRead (hk : c.Of (parts h)) (a : ReadCause) : c.Of (parts (h.aerRead a)) := by
  cases a <;> simp [Hw.aerRead, hk]

theorem aer_mem (h : Hw) (bit : Nat) : (h.aer bit).mem = h.mem := by
  simp only [Hw.aer]
  split
  · rfl
  split
  · exact Hw.note_mem ..
  · rfl

theorem aerRead_mem (h : Hw) (a : ReadCause) : (h.aerRead a).mem = h.mem := by
  cases a
  case refused => rfl
  all_goals exact aer_mem ..

@[simp] theorem kept_readError (hk : c.Of (parts h)) (f : ReadFail) : c.Of (parts (h.readError f)) := by
  obtain ⟨target, cause⟩ := f
  cases target with
  | fetch q =>
    simp only [Hw.readError]
    (repeat' split) <;> simp [hk]
  | audio n first count => simp [Hw.readError, hk]
  | block n =>
    simp only [Hw.readError]
    split <;> simp [hk]
  | image =>
    unfold Hw.readError
    dsimp only
    split
    · have ha := kept_aerRead hk cause
      rw [parts, aerRead_mem] at ha
      exact ha
    · exact hk

/-! ### Memories and transfers -/

@[simp] theorem kept_copyNear (hk : c.Of (parts h)) (v : VSlot) : c.Of (parts (h.copyNear v)) := by
  unfold Hw.copyNear
  split
  · exact hk
  · refine kept_foldl (fun g o hg => ?_) _ hk
    split <;> simp [hg]

@[simp] theorem kept_pumpMove (hk : c.Of (parts h)) (d : BitVec 256) (data : List Byte) (dst r : Nat) :
    c.Of (parts (h.pumpMove d data dst r)) := by
  simp [Hw.pumpMove, hk]

/-- A transfer's rows are written one after the other. -/
theorem kept_pumpMoveAll (hk : c.Of (parts h)) (d : BitVec 256) (data : List Byte) (at0 : Nat) (rows : List Nat) :
    c.Of (parts (rows.foldl (fun a r => a.pumpMove d data at0 r) h)) :=
  kept_foldl (fun _ _ hg => kept_pumpMove hg _ _ _ _) _ hk

@[simp] theorem kept_pumpDone (hk : c.Of (parts h)) (p : Nat) (d : BitVec 256) (data : List Byte) (e : EccOutcome) :
    c.Of (parts (h.pumpDone p d data e)) := by
  unfold Hw.pumpDone
  dsimp only
  split
  · exact hk
  split
  · split
    · exact kept_uncorrectable hk _ _ _ _ _ _ _
    · rwa [parts_sramDouble]
  · rw [parts_fillPassed, parts_lockFilled]
    refine kept_pumpMoveAll ?_ _ _ _ _
    rw [parts_wsRead]
    split <;> simp [hk]
  · rw [parts_fillPassed, parts_lockFilled]
    refine kept_pumpMoveAll ?_ _ _ _ _
    rwa [parts_wsRead]

@[simp] theorem kept_pageDone (hk : c.Of (parts h)) (idx : Nat) : c.Of (parts (h.pageDone idx)) := by
  simp only [Hw.pageDone]
  split
  · exact hk
  split
  · exact hk
  split
  · exact hk
  · rw [parts_setVslot]
    exact kept_copyNear (by exact hk) _

@[simp] theorem kept_writePayload (hk : c.Of (parts h)) (gs : List Nat) (bs : List Byte) : c.Of (parts (h.writePayload gs bs)) :=
  kept_foldl (fun _ _ hg => kept_spaceWrite hg _ _ _) _ hk

@[simp] theorem kept_stageVerified (hk : c.Of (parts h)) (seq : Nat) (rest : List Byte) (length : Nat) (shapes : List Shape)
    (choice : List Nat) (readOk : Bool) :
    c.Of (parts (h.stageVerified seq rest length shapes choice readOk)) := by
  simp only [Hw.stageVerified]
  (repeat' split) <;> simp [hk]

@[simp] theorem kept_copyDone (hk : c.Of (parts h)) (k : Nat) : c.Of (parts (h.copyDone k)) := by
  simp only [Hw.copyDone]
  (repeat' split) <;> simp [hk]

@[simp] theorem kept_refetchDone (hk : c.Of (parts h)) (unit : Nat) (ok : Bool) : c.Of (parts (h.refetchDone unit ok)) := by
  simp only [Hw.refetchDone]
  (repeat' split) <;> simp [hk]

@[simp] theorem kept_scrub (hk : c.Of (parts h)) (near : Bool) (unit addr : Nat) (e : EccOutcome) :
    c.Of (parts (h.scrub near unit addr e)) := by
  simp only [Hw.scrub]
  (repeat' split) <;> simp [hk]

/-! ### Set-up registers -/

@[simp] theorem kept_whenAlive (hk : c.Of (parts h)) {f : Hw → Hw} (hf : c.Of (parts (f h))) : c.Of (parts (h.whenAlive f)) := by
  unfold Hw.whenAlive
  split
  · exact hf
  · exact hk

@[simp] theorem kept_xferWrite (hk : c.Of (parts h)) (p : Part) (w : W64) : c.Of (parts (h.xferWrite p w)) := by
  simp [Hw.xferWrite, hk]

@[simp] theorem kept_memSizeWrite (hk : c.Of (parts h)) (p : Part) (w : W64) : c.Of (parts (h.memSizeWrite p w)) := by
  simp [Hw.memSizeWrite, hk]

@[simp] theorem kept_loadGoWrite (hk : c.Of (parts h)) (p : Part) (w : W64) : c.Of (parts (h.loadGoWrite p w)) := by
  simp [Hw.loadGoWrite, hk]

@[simp] theorem kept_memCfgWrite (hk : c.Of (parts h)) (word : Nat) (p : Part) (w : W64) :
    c.Of (parts (h.memCfgWrite word p w)) := by
  unfold Hw.memCfgWrite
  split <;> simp [hk]

@[simp] theorem kept_logClearWrite (hk : c.Of (parts h)) (p : Part) (w : W64) : c.Of (parts (h.logClearWrite p w)) := by
  simp [Hw.logClearWrite, hk]

/-! ### Load, start and stop -/

@[simp] theorem kept_loadRequest (hk : c.Of (parts h)) : c.Of (parts h.loadRequest) := by
  simp [Hw.loadRequest, hk]

@[simp] theorem kept_startRequest (hk : c.Of (parts h)) : c.Of (parts h.startRequest) := by
  simp [Hw.startRequest, hk]

@[simp] theorem kept_stopRequest (hk : c.Of (parts h)) : c.Of (parts h.stopRequest) := by
  simp [Hw.stopRequest, hk]

@[simp] theorem kept_tickCtlWrite (hk : c.Of (parts h)) (p : Part) (w : W64) : c.Of (parts (h.tickCtlWrite p w)) := by
  simp only [Hw.tickCtlWrite]
  (repeat' split) <;> simp [hk]

@[simp] theorem kept_loadChecks (hk : c.Of (parts h)) : c.Of (parts h.loadChecks) := by
  unfold Hw.loadChecks
  split
  · exact hk
  split
  · rw [parts_extend]
    exact of_se hk _ _
  · exact kept_note (by exact hk) _

@[simp] theorem kept_testFailed (hk : c.Of (parts h)) (u : UnitId) (at0 : Nat) : c.Of (parts (h.testFailed u at0)) := by
  simp [Hw.testFailed, hk]

@[simp] theorem kept_selftestEnd (hk : c.Of (parts h)) (results : List (UnitId × List W64)) : c.Of (parts
    (h.selftestEnd results)) := by
  unfold Hw.selftestEnd
  split
  · exact hk
  extract_lets bad _ tested planned
  have htested : c.Of (parts tested) := by
    unfold tested
    split
    · exact hk
    · exact kept_foldl (fun _ _ hg => kept_testFailed hg _ _) _ hk
  have hplanned : c.Of (parts planned) := by
    unfold planned
    split
    · rwa [parts_planFenced]
    · exact htested
  split
  · refine kept_rest ?_ _
    exact hplanned
  · exact hplanned

/-! ### Firmware and attestation -/

@[simp] theorem kept_copyInto (hk : c.Of (parts h)) (high : Bool) (o : List Byte) : c.Of (parts (h.copyInto high o)) :=
  of_ctl hk _ _

@[simp] theorem kept_copySequencer (hk : c.Of (parts h)) : c.Of (parts h.copySequencer) := by
  unfold Hw.copySequencer
  split <;> simp [hk]

@[simp] theorem kept_copyStandby (hk : c.Of (parts h)) (k : Nat) : c.Of (parts (h.copyStandby k)) := by
  simp [Hw.copyStandby, hk]

@[simp] theorem kept_bootFromM3 (hk : c.Of (parts h)) (failed : Option (Nat × Nat)) : c.Of (parts (h.bootFromM3 failed)) := by
  unfold Hw.bootFromM3
  have hboot : c.Of (parts (((h.bootKind 0).relist.measureBoot.copySequencer).initMemories failed)) := by
    rw [parts_initMemories]
    exact kept_copySequencer (by simpa using hk)
  generalize ((h.bootKind 0).relist.measureBoot.copySequencer).initMemories failed = g at hboot ⊢
  dsimp only
  refine kept_note ?_ _
  rw [parts_mk]
  cases failed
  · exact hboot
  · exact kept_note hboot _

@[simp] theorem kept_leaveHolding (hk : c.Of (parts h)) : c.Of (parts h.leaveHolding) := by
  unfold Hw.leaveHolding
  split
  · exact kept_bootFromM3 (by exact hk) _
  · exact hk

@[simp] theorem kept_install (hk : c.Of (parts h)) (k : Nat) : c.Of (parts (h.install k)) := by
  unfold Hw.install
  extract_lets o taken _ listed logged _ _ switched _ done kept _ cleared
  have hlogged : parts logged = parts h := by simp [logged, listed, taken]
  have hswitched : parts switched = parts h := by
    unfold switched
    split <;> exact hlogged
  have hdone : c.Of (parts done) := by
    have : parts done = parts switched := rfl
    rwa [this, hswitched]
  split
  · exact hdone
  · refine kept_leaveHolding ?_
    unfold cleared
    split <;> exact hdone

@[simp] theorem kept_installTable (hk : c.Of (parts h)) : c.Of (parts h.installTable) := by
  refine kept_leaveHolding ?_
  rw [parts_extend, parts_relist]
  exact (congrArg c.Of (parts_takeStaged h 2 false)).mpr hk

@[simp] theorem kept_activate (hk : c.Of (parts h)) (k : Nat) : c.Of (parts (h.activate k)) := by
  unfold Hw.activate
  dsimp only
  split
  · split
    · exact kept_installTable hk
    split
    · rwa [parts_installBlob]
    split
    · exact kept_copyStandby hk k
    · exact kept_install (kept_copyStandby hk k) k
  · exact hk

@[simp] theorem kept_fwCommand (hk : c.Of (parts h)) (p : Part) (w : W64) : c.Of (parts (h.fwCommand p w)) := by
  unfold Hw.fwCommand
  extract_lets op k len _ g
  split
  · rwa [parts_dropWrite]
  have hg : c.Of (parts g) := hk
  split
  · exact hg
  split
  · rwa [parts_setFw]
  clear_value op
  split
  · rwa [parts_stageFw]
  · exact kept_activate hg _
  · rwa [parts_abandonFw]

@[simp] theorem kept_liveSwitch (hk : c.Of (parts h)) : c.Of (parts h.liveSwitch) := by
  unfold Hw.liveSwitch
  split <;> simp [hk]

/-! ### Audio ports -/

@[simp] theorem kept_mutePort (hk : c.Of (parts h)) (p n : Nat) : c.Of (parts (h.mutePort p n)) := by
  simp [Hw.mutePort, hk]

@[simp] theorem kept_frameIn (hk : c.Of (parts h)) (p : Nat) (f : PortFrame) : c.Of (parts (h.frameIn p f)) := by
  unfold Hw.frameIn
  extract_lets old
  split
  · exact hk
  split
  extract_lets x set caused
  have hcaused : c.Of (parts caused) := by
    unfold caused
    split
    · exact kept_portCause (by simpa [set] using hk) _ _
    · simpa [set] using hk
  split
  · exact hcaused
  split
  · exact kept_foldl (fun _ _ hg => kept_mutePort hg _ _) _ hcaused
  · split
    · rwa [parts_modPort]
    · exact hcaused

@[simp] theorem kept_clockStop (hk : c.Of (parts h)) (p : Nat) : c.Of (parts (h.clockStop p)) := by
  simp [Hw.clockStop, hk]

@[simp] theorem kept_shorted (hk : c.Of (parts h)) (p : Nat) : c.Of (parts (h.shorted p)) := by
  simp [Hw.shorted, hk]

@[simp] theorem kept_openLineAt (hk : c.Of (parts h)) (p : Nat) (dataLine : Bool) : c.Of (parts (h.openLineAt p dataLine)) := by
  simp only [Hw.openLineAt]
  (repeat' split) <;> simp [hk]

/-! ### The Warden -/

@[simp] theorem kept_decideSafe (hk : c.Of (parts h)) : c.Of (parts h.decideSafe) := by
  simp only [Hw.decideSafe]
  split
  · split <;> exact hk
  split
  · exact hk
  · exact kept_setMode (by exact hk) _ _

@[simp] theorem kept_ruleActions (hk : c.Of (parts h)) (old : Nat → RuleRun) : c.Of (parts (h.ruleActions old)) := by
  unfold Hw.ruleActions
  dsimp only
  rw [parts_mk, parts_eta, parts_foldl (fun g a => by split <;> simp)]
  refine kept_foldl (fun g i hg => ?_) _ (by exact hk)
  split
  · exact kept_note hg _
  · exact hg

@[simp] theorem kept_rules (hk : c.Of (parts h)) : c.Of (parts h.rules) := by
  unfold Hw.rules
  extract_lets old _ ran
  have hran : parts ran = parts h := by simp only [ran, parts_mk, parts_eta]
  refine kept_ruleActions ?_ _
  rwa [hran]

@[simp] theorem kept_safeScan (hk : c.Of (parts h)) : c.Of (parts h.safeScan) := by
  unfold Hw.safeScan
  split
  · repeat' split
    · exact hk
    · exact kept_decideSafe hk
    · exact hk
  split
  · exact hk
  dsimp only
  split
  · exact hk
  split
  · exact kept_setMode (by exact hk) _ _
  · exact hk

@[simp] theorem kept_trip (hk : c.Of (parts h)) : c.Of (parts h.trip) := by
  simp [Hw.trip, hk]

@[simp] theorem kept_scan (hk : c.Of (parts h)) (codes : List W16) : c.Of (parts (h.scan codes)) := by
  unfold Hw.scan
  split
  · exact hk
  have hpolicy : c.Of (parts (if h.ex.running then h else h.latchPass isPolicy)) := by
    split
    · exact hk
    · exact kept_latchPass hk _
  dsimp only
  generalize (if h.ex.running then h else h.latchPass isPolicy) = g at hpolicy ⊢
  refine kept_safeScan ?_
  rw [parts_capScan, parts_inputScan]
  refine kept_rules ?_
  split
  · refine kept_trip ?_
    simpa using hpolicy
  · simpa using hpolicy

@[simp] theorem kept_enterSafe (hk : c.Of (parts h)) : c.Of (parts h.enterSafe) := by
  unfold Hw.enterSafe
  split
  · split
    · exact kept_boundary hk
    · exact hk
  split
  · exact kept_rest hk _
  · exact hk

@[simp] theorem kept_watchdog (hk : c.Of (parts h)) : c.Of (parts h.watchdog) := by
  simp [Hw.watchdog, hk]

/-! ### Boot, power and clocks -/

/-- A reset of the main rails leaves the memories and the log as they come up. -/
@[simp] theorem kept_mainReset (h : Hw) : c.Of (parts h.mainReset) := by
  have hparts : parts h.mainReset = ([], [], [], [], [], [], 1#14) := rfl
  rw [hparts]
  cases c
  · exact ⟨rfl, rfl, rfl, rfl, rfl, rfl⟩
  · exact (by decide : 1 ≤ (1#14).toNat)

@[simp] theorem kept_perst (hk : c.Of (parts h)) : c.Of (parts h.perst) := by
  simp [Hw.perst, hk]

@[simp] theorem kept_railsOff : c.Of (parts h.railsOff) := by
  simp [Hw.railsOff]

@[simp] theorem kept_phaseM (hk : c.Of (parts h)) (failed : Option (Nat × Nat)) : c.Of (parts (h.phaseM failed)) := by
  simp [Hw.phaseM, hk]

@[simp] theorem kept_auxFail (hk : c.Of (parts h)) : c.Of (parts h.auxFail) := by
  unfold Hw.auxFail
  split
  · exact hk
  · exact kept_mainReset h

@[simp] theorem kept_undervoltage (hk : c.Of (parts h)) : c.Of (parts h.undervoltage) := by
  simp [Hw.undervoltage, hk]

@[simp] theorem kept_overvoltage (hk : c.Of (parts h)) : c.Of (parts h.overvoltage) := by
  simp [Hw.overvoltage, hk]

@[simp] theorem kept_d3hot (hk : c.Of (parts h)) : c.Of (parts h.d3hot) := by
  simp [Hw.d3hot, hk]

@[simp] theorem kept_d3cold (hk : c.Of (parts h)) : c.Of (parts h.d3cold) := by
  simp [Hw.d3cold, hk]

@[simp] theorem kept_d0 (hk : c.Of (parts h)) : c.Of (parts h.d0) := by
  simp [Hw.d0, hk]

@[simp] theorem kept_loseLink (hk : c.Of (parts h)) : c.Of (parts h.loseLink) := by
  simp [Hw.loseLink, hk]

@[simp] theorem kept_tagChange (hk : c.Of (parts h)) (tags : BitVec 2) : c.Of (parts (h.tagChange tags)) := by
  unfold Hw.tagChange
  split
  · exact hk
  dsimp only
  rw [parts_issueReads]
  split
  · exact kept_refused (by exact hk) _
  · exact hk

@[simp] theorem kept_flr (hk : c.Of (parts h)) : c.Of (parts h.flr) := by
  simp only [Hw.flr]
  (repeat' split) <;> simp [hk]

@[simp] theorem kept_clockBack (hk : c.Of (parts h)) (linkUp : Bool) : c.Of (parts (h.clockBack linkUp)) := by
  unfold Hw.clockBack
  dsimp only
  split
  · exact hk
  have hself : c.Of (parts (if h.ex.mode == .asleep then { h with mem := { h.mem with nearSelf := true } } else h.exitSelfRefresh)) := by
    split
    · exact hk
    · rwa [parts_exitSelfRefresh]
  generalize (if h.ex.mode == .asleep then { h with mem := { h.mem with nearSelf := true } } else h.exitSelfRefresh) = g at hself ⊢
  split
  · exact hself
  split
  · refine kept_linkStop ?_
    exact hself
  split <;> exact hself

@[simp] theorem kept_measureEdge (hk : c.Of (parts h)) (e : Int) : c.Of (parts (h.measureEdge e)) := by
  simp only [Hw.measureEdge]
  split
  · simpa using hk
  split
  · exact hk
  split
  · exact kept_note (by exact hk) _
  · exact hk

@[simp] theorem kept_syncEdge (hk : c.Of (parts h)) (edge : Int) : c.Of (parts (h.syncEdge edge)) := by
  simp [Hw.syncEdge, hk]

/-! ### The register map -/

theorem kept_lone (hk : c.Of (parts h)) (o : Nat) (p : Part) (w : W64) {f : Hw → W32 → Hw} (hf : ∀ v, c.Of (parts (f h v))) :
    c.Of (parts (h.lone o p w f)) := by
  unfold Hw.lone
  split <;> simp [hf, hk]

@[simp] theorem kept_windowWrite (hk : c.Of (parts h)) (o : Nat) (p : Part) (w : W64) : c.Of (parts (h.windowWrite o p w)) :=
  of_window hk _ _

@[simp] theorem kept_write64 (hk : c.Of (parts h)) (o : Nat) (p : Part) (w : W64) : c.Of (parts (h.write64 o p w)) := by
  unfold Hw.write64
  simp only [parts_ite, of_ite]
  cases roReserved o <;> simp [hk]

@[simp] theorem kept_bar0Write (hk : c.Of (parts h)) (off size : Nat) (data : W64) :
    c.Of (parts (h.bar0Write off size data)) := by
  simp [Hw.bar0Write, hk]

@[simp] theorem kept_requestFault (hk : c.Of (parts h)) (a : TlpFault) : c.Of (parts (h.requestFault a).1) := by
  simp only [Hw.requestFault]
  (repeat' split) <;> simp [hk]

@[simp] theorem kept_configWrite (hk : c.Of (parts h)) (r : ConfigReg) (w : W32) : c.Of (parts (h.configWrite r w)) := by
  unfold Hw.configWrite
  dsimp only
  split
  case h_6 =>
    split
    · refine kept_flr ?_
      exact hk
    · exact hk
  case h_8 => simpa using hk
  all_goals exact hk

@[simp] theorem kept_viewWrite (hk : c.Of (parts h)) (v : View) (off size : Nat) (data : W64) :
    c.Of (parts (h.viewWrite v off size data)) := by
  unfold Hw.viewWrite
  split <;> simp [hk]

@[simp] theorem kept_registerWrite (hk : c.Of (parts h)) (v : View) (off size : Nat) (data : W64) (fault : TlpFault) :
    c.Of (parts (h.registerWrite v off size data fault)) := by
  simp [Hw.registerWrite, hk]

@[simp] theorem kept_smbusTake (hk : c.Of (parts h)) (t : SmbusFrame) {f : Hw → Hw} (hf : c.Of (parts (f h))) :
    c.Of (parts (h.smbusTake t f)) := by
  simp only [Hw.smbusTake]
  (repeat' split) <;> simp [hf, hk]

@[simp] theorem kept_smbusWrite (hk : c.Of (parts h)) (data : W32) : c.Of (parts (h.smbusWrite data)) := by
  simp [Hw.smbusWrite, hk]

/-! ### Every command -/

/-- Every command answers a next state, of which the claim holds where it held before. -/
theorem kept_exec (i : Instr) {s : State} (hk : c.Of (parts s.hw)) :
    ∃ g, exec i s = .next { s with hw := g } ∧ c.Of (parts g) := by
  cases i <;> refine ⟨_, rfl, ?_⟩
  case smbusSetPointer => exact kept_smbusTake hk _ hk
  case smbusStatus => exact kept_smbusTake hk _ hk
  case linkDown => exact kept_loseLink hk
  all_goals simp [hk]

theorem kept_step {s t : State} (hk : c.Of (parts s.hw)) (hs : step s = .next t) : c.Of (parts t.hw) := by
  unfold step at hs
  split at hs
  · cases hs
    exact hk
  · next i rest _ =>
    obtain ⟨g, hg, hkg⟩ := kept_exec i (s := { s with pending := rest }) hk
    rw [hg] at hs
    cases hs
    exact hkg

/-- Settles O5: no command takes the memories out of their canonical form. -/
theorem memoriesStayCanonical : Obligations.MemoriesStayCanonical :=
  fun _ _ hcanonical hstep => kept_step (c := .memories) hcanonical hstep

/-- Settles O7: an entry moves the next position on, or back to 1, and a clear sets it to 1. -/
theorem logNeverOverwritesHeader : Obligations.LogNeverOverwritesHeader :=
  fun _ _ hslot hstep => kept_step (c := .logHeader) hslot hstep

end Sys2Proof.Kept
end

section
/-!
PROOF. The queue of commands, reset, the byte memories, and the start-up tests: O1 to O4, O6, O36.
-/
namespace Sys2Proof.Basics
open Sys2Proof.Machine

/-! ### The queue of commands, reset, and the byte memories (O1 to O4, O6) -/

/-- Settles O1: `step` takes the front of the queue, by its own equation. -/
theorem stepRunsFrontCommand : Obligations.StepRunsFrontCommand := fun _ _ _ => rfl

/-- Settles O2: no command touches the queue that `step` hands it. -/
theorem stepAlwaysAnswers : Obligations.StepAlwaysAnswers := by
  rintro ⟨pending, h⟩
  cases pending with
  | nil => exact ⟨fun _ => rfl, _, rfl, rfl⟩
  | cons c rest =>
    refine ⟨fun he => absurd he (List.cons_ne_nil c rest), ?_⟩
    cases c <;> exact ⟨_, rfl, rfl⟩

/-- Settles O3: the reset state is a concrete value whose tables are empty, so each entry reads as its table's default. -/
theorem resetLeavesRegisterValues : Obligations.ResetLeavesRegisterValues := by
  refine ⟨rfl, fun _ => rfl, fun _ => rfl, fun _ => ⟨rfl, rfl, rfl, rfl⟩, ?_⟩
  exact ⟨rfl, rfl, rfl, rfl, rfl, rfl, rfl, rfl, rfl, rfl, fun _ => rfl, fun _ => rfl⟩

/-- Settles O4: a byte memory is a table, and a table reads what was put last under the key. -/
theorem memoryReadAfterWrite : Obligations.MemoryReadAfterWrite := by
  intro m a c b hwf
  refine ⟨?_, Memory.wf_write8 m a b hwf⟩
  simp only [read8_write8, eq_comm]

/-- Settles O6: every memory of the reset state is empty, and the empty table is canonical. -/
theorem resetMemoriesCanonical : Obligations.ResetMemoriesCanonical :=
  ⟨rfl, rfl, rfl, rfl, rfl, rfl⟩

/-! ### The start-up tests (O36) -/

/-- A booted block in the start-up tests: a follower by what software wrote last, not by the role in force. -/
def writtenFollower : Hw :=
  { Hw.reset with
    pwr := { Power.reset with auxUp := true, railsOn := true, pgood := true, perst := false, booted := true }
    ex := { Exec.reset with mode := .ready, start := .testing }
    ts := { Ticksync.reset with ctl := 2, ctlNow := 0 } }

/-- Refutes O36: the model reads the role at the end of the tests from the register as written, the statement from the role in
force. With a follower's role written and not yet in force, the start waits for its edge and is not scheduled. -/
theorem not_selfTestPasses : ¬ Obligations.SelfTestPasses := by
  intro h
  obtain ⟨hpass, -⟩ := h { pending := [], hw := writtenFollower } (by decide) rfl rfl
  have hstart := congrArg (fun t : State => t.hw.ex.start) (Host.Outcome.next.inj (hpass [] (by simp)))
  exact absurd hstart (by decide)

end Sys2Proof.Basics
end

section
/-!
PROOF. The resets, the supplies and sleep: O49, O50, O51.
-/
namespace Sys2Proof.Supply
open Sys2Proof.Machine

/-! ### What closing every stream leaves alone -/

/-- The block with its streams, groups, catalogue, rings and engines taken out: what no end of a stream touches. -/
def outer (h : Hw) : Hw :=
  { h with streams := [], groups := [], cat := Hw.reset.cat, rings := Hw.reset.rings, eng := Hw.reset.eng }

@[simp] theorem outer_setStream (h : Hw) (c : Nat) (s : Stream) : outer (h.setStream c s) = outer h := rfl
@[simp] theorem outer_setVslot (h : Hw) (trunk : Bool) (idx slot : Nat) (x : VSlot) : outer (h.setVslot trunk idx slot x) = outer h := by
  unfold Hw.setVslot
  split <;> rfl
@[simp] theorem outer_dropRef (h : Hw) (trunk : Bool) (idx slot : Nat) : outer (h.dropRef trunk idx slot) = outer h :=
  outer_setVslot ..

@[simp] theorem outer_dropSelection (h : Hw) (c : Nat) : outer (h.dropSelection c) = outer h := by
  unfold Hw.dropSelection
  split
  · rfl
  · simp only [outer_setStream]
    split <;> simp

@[simp] theorem outer_unbind (h : Hw) (c : Nat) : outer (h.unbind c) = outer h := by
  unfold Hw.unbind
  split
  · rfl
  · simp only [outer_setStream]
    (repeat' split) <;> simp

@[simp] theorem outer_freeVersion (h : Hw) (trunk : Bool) (idx slot : Nat) : outer (h.freeVersion trunk idx slot) = outer h := by
  simp only [Hw.freeVersion]
  split
  · exact outer_setVslot ..
  · rfl

@[simp] theorem outer_freeVersions (h : Hw) : outer h.freeVersions = outer h := by
  unfold Hw.freeVersions
  rw [foldl_keeps outer _ (by simp), foldl_keeps outer _ (by simp)]

@[simp] theorem outer_closeAll (h : Hw) : outer h.closeAll = outer h := by
  unfold Hw.closeAll
  rw [outer_freeVersions]
  exact foldl_keeps outer _ (by simp) _ _

theorem streams_freeVersion (h : Hw) (trunk : Bool) (idx slot : Nat) : (h.freeVersion trunk idx slot).streams = h.streams := by
  simp only [Hw.freeVersion]
  split <;> simp

theorem streams_freeVersions (h : Hw) : h.freeVersions.streams = h.streams := by
  unfold Hw.freeVersions
  rw [foldl_keeps Hw.streams _ (by simp [streams_freeVersion]), foldl_keeps Hw.streams _ (by simp [streams_freeVersion])]

@[simp] theorem streams_closeAll (h : Hw) : h.closeAll.streams = [] := streams_freeVersions _

/-- A block that agrees with another in `outer` is that block but for the five parts that `outer` takes out. -/
theorem eq_of_outer_eq {g h : Hw} (e : outer g = outer h) :
    g = { h with streams := g.streams, groups := g.groups, cat := g.cat, rings := g.rings, eng := g.eng } := by
  cases g
  cases h
  simp only [outer, Hw.mk.injEq] at e ⊢
  simp [e]

theorem closeAll_eq (h : Hw) : h.closeAll =
    { h with streams := [], groups := h.closeAll.groups, cat := h.closeAll.cat, rings := h.closeAll.rings, eng := h.closeAll.eng } := by
  have h1 := eq_of_outer_eq (outer_closeAll h)
  rwa [streams_closeAll] at h1

/-! ### The stop of a lost link -/

theorem rest_ex (h : Hw) (cause : Nat) : (h.rest cause).ex =
    match h.ex.safePlan with
    | some c => { h.ex with safePlan := none, safeTick := false, fault := c, mode := .safe }
    | none => { h.ex with mode := .ready } := by
  unfold Hw.rest
  split <;> next hp => simp [hp]

theorem link_raise (h : Hw) (v : Nat) : (h.raise v).link = { h.link with raise := (h.raise v).link.raise } := by
  unfold Hw.raise
  split <;> rfl

theorem link_note (h : Hw) (e : LogEntry) : (h.note e).link = { h.link with raise := (h.note e).link.raise } := by
  unfold Hw.note
  rw [link_raise]
  split <;> rfl

theorem link_setMode (h : Hw) (m : DevMode) (cause : Nat) :
    (h.setMode m cause).link = { h.link with raise := (h.setMode m cause).link.raise } := by
  unfold Hw.setMode
  split
  · rfl
  · exact link_note ..

theorem link_rest (h : Hw) (cause : Nat) : (h.rest cause).link = { h.link with raise := (h.rest cause).link.raise } := by
  unfold Hw.rest
  split <;> exact link_setMode ..

@[simp] theorem rest_pwr (h : Hw) (cause : Nat) : (h.rest cause).pwr = h.pwr := by unfold Hw.rest; split <;> simp
@[simp] theorem rest_qs (h : Hw) (cause : Nat) : (h.rest cause).qs = h.qs := by unfold Hw.rest; split <;> simp
@[simp] theorem rest_msix (h : Hw) (cause : Nat) : (h.rest cause).msix = h.msix := by unfold Hw.rest; split <;> simp
@[simp] theorem rest_streams (h : Hw) (cause : Nat) : (h.rest cause).streams = h.streams := by unfold Hw.rest; split <;> simp
@[simp] theorem rest_mem (h : Hw) (cause : Nat) : (h.rest cause).mem = h.mem := by unfold Hw.rest; split <;> simp
@[simp] theorem rest_running (h : Hw) (cause : Nat) : (h.rest cause).ex.running = h.ex.running := by
  rw [rest_ex]
  split <;> rfl

@[simp] theorem linkStop_pwr (h : Hw) : h.linkStop.pwr = h.pwr := by
  simp only [Hw.linkStop, Hw.note_pwr, rest_pwr]
  rw [closeAll_eq]
  rfl
@[simp] theorem linkStop_qs (h : Hw) : h.linkStop.qs = h.qs := by
  simp only [Hw.linkStop, Hw.note_qs, rest_qs]
  rw [closeAll_eq]
  rfl
@[simp] theorem linkStop_msix (h : Hw) : h.linkStop.msix = h.msix := by
  simp only [Hw.linkStop, Hw.note_msix, rest_msix]
  rw [closeAll_eq]
  rfl
@[simp] theorem linkStop_streams (h : Hw) : h.linkStop.streams = [] := by
  simp only [Hw.linkStop, Hw.note_streams, rest_streams]
  rw [closeAll_eq]
  rfl
@[simp] theorem linkStop_running (h : Hw) : h.linkStop.ex.running = false := by
  simp only [Hw.linkStop, Hw.note_ex, rest_running]
  rfl
theorem linkStop_link (h : Hw) : h.linkStop.link = { h.link with raise := h.linkStop.link.raise } := by
  unfold Hw.linkStop
  rw [link_note, link_rest]
  generalize hc : Hw.closeAll h = g
  rw [closeAll_eq] at hc
  rw [← hc]
  rfl

/-! ### Losing the link -/

theorem loseLink_stopped {h : Hw} (hr : h.ex.running = false) : h.loseLink = h := by
  simp [Hw.loseLink, hr]

theorem loseLink_latched {h : Hw} (hr : h.ex.running = true) (hw : h.ex.window ≠ .commit ∨ h.ex.rerun = true) :
    h.loseLink = { h with ex := { h.ex with linkLost := true } } := by
  have : ¬ (h.ex.window = .commit ∧ h.ex.rerun = false) := by
    rintro ⟨hc, hn⟩
    exact hw.elim (fun h => h hc) (fun h => by simp [hn] at h)
  simp [Hw.loseLink, hr, this]

theorem loseLink_commit {h : Hw} (hr : h.ex.running = true) (hw : h.ex.window = .commit) (hn : h.ex.rerun = false) :
    h.loseLink = h.linkStop := by
  simp [Hw.loseLink, hr, hw, hn]

theorem loseLink_cases (h : Hw) :
    h.loseLink = h ∨ h.loseLink = { h with ex := { h.ex with linkLost := true } } ∨ h.loseLink = h.linkStop := by
  unfold Hw.loseLink
  split
  · exact .inl rfl
  · split
    · exact .inr (.inr rfl)
    · exact .inr (.inl rfl)

@[simp] theorem loseLink_pwr (h : Hw) : h.loseLink.pwr = h.pwr := by
  rcases loseLink_cases h with e | e | e <;> simp [e]
@[simp] theorem loseLink_qs (h : Hw) : h.loseLink.qs = h.qs := by
  rcases loseLink_cases h with e | e | e <;> simp [e]
@[simp] theorem loseLink_msix (h : Hw) : h.loseLink.msix = h.msix := by
  rcases loseLink_cases h with e | e | e <;> simp [e]
theorem loseLink_link (h : Hw) : h.loseLink.link = { h.link with raise := h.loseLink.link.raise } := by
  rcases loseLink_cases h with e | e | e
  · rw [e]
  · rw [e]
  · rw [e]
    exact linkStop_link h

/-! ### The function-level reset -/

/-- The block as a function-level reset leaves it, before the link counts as lost. -/
def flrCleared (h : Hw) : Hw :=
  let h := h.cat.staging.foldl (fun a g =>
    a.setVslot g.trunk g.idx g.slot (if g.restore then { a.vslot g.trunk g.idx g.slot with restoring := false } else VSlot.reset)) h
  { h with
    qs := [], msix := [], rings := .reset, cat := { h.cat with staging := [] }
    latches := h.latches.filter (fun e => match e.2 with | .credit _ _ => false | _ => true)
    link := { h.link with legacy := false, tags := 0, msixOn := false, funcMask := false, raise := [], urgentWait := [], urgentOut := []
                          turn := LinkState.reset.turn, pci := h.link.pci.flr }
    mem := if h.mem.loadBusy then { h.mem with loadBusy := false, loadDone := true, loadErr := true } else h.mem }

theorem flr_of_up {h : Hw} (hb : h.pwr.booted = true) (hp : h.pwr.perst = false) : h.flr = (flrCleared h).loseLink := by
  simp only [Hw.flr, hb, hp]
  rfl

theorem flrCleared_pwr (h : Hw) : (flrCleared h).pwr = h.pwr := foldl_keeps Hw.pwr _ (by simp) _ _
theorem flrCleared_ex (h : Hw) : (flrCleared h).ex = h.ex := foldl_keeps Hw.ex _ (by simp) _ _
theorem flrCleared_streams (h : Hw) : (flrCleared h).streams = h.streams := foldl_keeps Hw.streams _ (by simp) _ _
theorem flrCleared_link (h : Hw) : (flrCleared h).link = { h.link with
    legacy := false, tags := 0, msixOn := false, funcMask := false, raise := [], urgentWait := [], urgentOut := []
    turn := LinkState.reset.turn, pci := h.link.pci.flr } := by
  unfold flrCleared
  simp only [foldl_keeps Hw.link (fun (a : Hw) (g : Staging) => a.setVslot g.trunk g.idx g.slot
    (if g.restore then { a.vslot g.trunk g.idx g.slot with restoring := false } else VSlot.reset)) (by simp)]

/-- Settles O49: PERST# is the main reset; a function-level reset clears its registers and then loses the link. -/
theorem resets : Obligations.Resets := by
  intro s
  refine ⟨?_, ?_, ?_, ?_⟩
  · intro hoff
    simp [exec, execPerstAssert, Hw.perst, hoff]
  · intro hon
    refine ⟨_, rfl, ?_⟩
    rw [Hw.perst, if_pos hon]
    exact ⟨rfl, rfl, hon, rfl, rfl, rfl, rfl, rfl, rfl, rfl, rfl, rfl, rfl, rfl, rfl, rfl, rfl⟩
  · intro hdown
    have : s.hw.flr = s.hw := by
      unfold Hw.flr
      exact if_pos (by simpa using hdown)
    simp [exec, execFunctionLevelReset, this]
  · intro hb hp
    refine ⟨_, rfl, ?_⟩
    dsimp only
    rw [flr_of_up hb hp, loseLink_link, flrCleared_link, loseLink_qs, loseLink_msix, loseLink_pwr, flrCleared_pwr]
    refine ⟨rfl, rfl, rfl, rfl, rfl, rfl, rfl, rfl, rfl, rfl, ?_, ?_, ?_⟩
    · intro hr
      rw [loseLink_stopped (by rwa [flrCleared_ex])]
      exact ⟨flrCleared_ex _, flrCleared_streams _⟩
    · intro hr hw
      rw [loseLink_latched (by rwa [flrCleared_ex]) (by rwa [flrCleared_ex])]
      exact ⟨by rw [flrCleared_ex], flrCleared_streams _⟩
    · intro hr hw hn
      rw [loseLink_commit (by rwa [flrCleared_ex]) (by rwa [flrCleared_ex]) (by rwa [flrCleared_ex])]
      exact ⟨linkStop_running _, linkStop_streams _⟩

/-! ### The supplies -/

theorem auxRises_eq (h : Hw) : h.auxRises =
    { h with pwr := { h.pwr with auxUp := true, smbAddr := if h.pwr.auxUp then h.pwr.smbAddr else Config.smbStraps } } := by
  unfold Hw.auxRises
  split
  · next hup => rw [← hup]
  · rfl

/-- Settles O50: the rails come on in one update, and each failure is the main reset with its own rails and flags taken off. -/
theorem supplies : Obligations.Supplies := by
  intro s
  refine ⟨?_, rfl, ?_, ?_, ?_, ?_, ?_, ?_⟩
  · simp [exec, execMainRailsStart, Hw.railsStart, auxRises_eq]
  · intro hon
    refine ⟨_, rfl, ?_⟩
    rw [Hw.undervoltage, if_pos hon]
    exact ⟨rfl, rfl, rfl, rfl, rfl, rfl, rfl⟩
  · intro hon
    refine ⟨_, rfl, ?_⟩
    rw [Hw.overvoltage, if_pos hon]
    exact ⟨rfl, rfl, rfl, rfl, rfl, rfl⟩
  · intro hon
    refine ⟨_, rfl, ?_⟩
    rw [Hw.d3cold, if_pos hon]
    exact ⟨rfl, rfl, rfl, rfl, rfl, rfl⟩
  · intro hoff
    simp [execInputUndervoltage, execD3coldEntry, execInputOvervoltage, exec, Hw.undervoltage, Hw.d3cold, Hw.overvoltage, hoff]
  · intro hon
    refine ⟨_, rfl, ?_⟩
    rw [Hw.auxFail, if_neg (by simp [hon])]
    exact ⟨rfl, rfl, rfl, rfl, rfl, rfl, rfl⟩
  · intro hoff
    simp [exec, execAuxPowerFail, Hw.auxFail, hoff]

/-! ### Sleep -/

/-- Counting each key of a list without repeats raises exactly those keys by one. -/
theorem tget_foldl_count {l : List Nat} (hl : l.Nodup) (t : Table Nat) (c : Nat) :
    tget 0 (l.foldl (fun t c => tput 0 t c (tget 0 t c + 1)) t) c = tget 0 t c + if c ∈ l then 1 else 0 := by
  induction l generalizing t with
  | nil => simp
  | cons a l ih =>
    obtain ⟨ha, hl⟩ := List.nodup_cons.1 hl
    rw [List.foldl_cons, ih hl, tget_tput]
    by_cases hc : a = c
    · subst hc
      simp [ha]
    · simp [hc, Ne.symm hc]

/-- The all-bank refresh counts after one refresh of each of the 48 channels. -/
def allBankRefreshed (t : Table Nat) : Table Nat := (List.range 48).foldl (fun t c => tput 0 t c (tget 0 t c + 1)) t

theorem tget_allBankRefreshed (t : Table Nat) {c : Nat} (hc : c < 48) : tget 0 (allBankRefreshed t) c = tget 0 t c + 1 := by
  rw [allBankRefreshed, tget_foldl_count List.nodup_range, if_pos (List.mem_range.2 hc)]

theorem farToSelf_eq (h : Hw) : h.farToSelf = { h with mem := { h.mem with
    farSelf := true, allBank := if h.mem.farSelf then h.mem.allBank else allBankRefreshed h.mem.allBank } } := by
  unfold Hw.farToSelf
  by_cases hf : h.mem.farSelf = true
  · rw [if_pos hf, if_pos hf, ← hf]
  · rw [if_neg hf, if_neg hf, allBankRefreshed]

@[simp] theorem portsOff_pwr (h : Hw) : h.portsOff.pwr = h.pwr := foldl_keeps Hw.pwr _ (by simp) _ _
@[simp] theorem portsOff_ex (h : Hw) : h.portsOff.ex = h.ex := foldl_keeps Hw.ex _ (by simp) _ _
@[simp] theorem portsOff_mem (h : Hw) : h.portsOff.mem = h.mem := foldl_keeps Hw.mem _ (by simp) _ _
@[simp] theorem portsOff_streams (h : Hw) : h.portsOff.streams = h.streams := foldl_keeps Hw.streams _ (by simp) _ _
@[simp] theorem portsOn_pwr (h : Hw) : h.portsOn.pwr = h.pwr := foldl_keeps Hw.pwr _ (by simp) _ _
@[simp] theorem portsOn_ex (h : Hw) : h.portsOn.ex = h.ex := foldl_keeps Hw.ex _ (by simp) _ _
@[simp] theorem portsOn_mem (h : Hw) : h.portsOn.mem = h.mem := foldl_keeps Hw.mem _ (by simp) _ _
@[simp] theorem portsOn_war (h : Hw) : h.portsOn.war = h.war := foldl_keeps Hw.war _ (by simp) _ _
@[simp] theorem portsOn_streams (h : Hw) : h.portsOn.streams = h.streams := foldl_keeps Hw.streams _ (by simp) _ _

/-- D3hot as it is entered: the block asleep with its ports off, then in self-refresh with its clocks off. -/
theorem d3hot_of_stopped {h : Hw} (ha : h.alive = true) (hr : h.ex.running = false) (hs : h.ex.start = .none) :
    h.d3hot = let g := ((h.setMode .asleep 0x0254).portsOff).enterSelfRefresh
      { g with pwr := { g.pwr with dstate := .d3hot, pllsLocked := false, masterBclk := false, tickPulse := false } } := by
  simp [Hw.d3hot, ha, hr, hs]

theorem d3hot_of_running {h : Hw} (ha : h.alive = true) (hr : h.ex.running = true ∨ h.ex.start ≠ .none) :
    h.d3hot = h.refused (Config.eventCode 0x0254).toNat := by
  rw [Hw.d3hot, if_neg (by simp [ha]), if_pos (by simpa using hr)]

theorem d0_of_d3hot {h : Hw} (hm : h.ex.mode = .asleep) (hd : h.pwr.dstate = .d3hot) (hon : h.pwr.railsOn = true)
    (hk : h.pwr.refclk = .running) :
    h.d0 = let g : Hw := { h.exitSelfRefresh with pwr := { h.pwr with dstate := .d0, pllsLocked := true, masterBclk := true }
                                                  war := { h.war with wake := false } }
      (g.setMode g.restMode 0x0340).portsOn := by
  simp [Hw.d0, hm, hd, hon, hk]

/-- Settles O51: sleep changes the device state, the ports, the self-refresh flags and the clocks one after the other. -/
theorem sleepKeepsMemory : Obligations.SleepKeepsMemory := by
  intro s
  refine ⟨?_, ?_, ?_⟩
  · intro ha hr hs
    refine ⟨_, rfl, ?_⟩
    dsimp only
    rw [d3hot_of_stopped ha hr hs, Hw.enterSelfRefresh, farToSelf_eq]
    refine ⟨?_, rfl, ?_, ?_, ?_, ?_, ?_⟩
    · simp
    · simp [Hw.alive]
    · simp
    · simp
    · simp
    · intro hf c hc
      simp only [portsOff_mem, Hw.setMode_mem, hf, Bool.false_eq_true, if_false]
      exact tget_allBankRefreshed _ hc
  · intro ha hr
    refine ⟨_, rfl, ?_⟩
    dsimp only
    rw [d3hot_of_running ha hr]
    exact ⟨by simp, by simp, by simp, MemorySetup.refused_log_ne_self _ _⟩
  · intro hm hd hon hk
    refine ⟨_, rfl, ?_⟩
    dsimp only
    rw [d0_of_d3hot hm hd hon hk]
    refine ⟨?_, ?_, ?_, ?_, ?_, ?_⟩ <;> simp [Hw.exitSelfRefresh]
    rfl

end Sys2Proof.Supply
end

section
/-!
PROOF. The frequency-measuring counter, attestation reports and the port registers: O46, O57, O60.
-/
namespace Sys2Proof.Registers
open Sys2Proof.Machine

/-! ### Words and bits of a register write -/

theorem bitOf_eq_testBit (x k : Nat) : bitOf x k = x.testBit k := by
  rw [bitOf, Nat.testBit_eq_decide_div_mod_eq]

theorem whenAlive_of_alive {h : Hw} (ha : h.alive = true) (f : Hw → Hw) : h.whenAlive f = f h := if_pos ha

/-- A register write of a command takes effect where registers answer. -/
theorem next_whenAlive {s : State} (ha : s.hw.alive = true) (f : Hw → Hw) :
    (Host.Outcome.next { s with hw := s.hw.whenAlive f } : Host.Outcome State Fault Refusal) = .next { s with hw := f s.hw } := by
  rw [whenAlive_of_alive ha]

@[simp] theorem carried_both (w : W64) : carried .both w = w := BitVec.and_allOnes

theorem bitOf_zero_of_and_one {w : W64} (hw : w &&& 1#64 = 1#64) : bitOf w.toNat 0 = true := by
  have h0 : (w &&& 1#64).getLsbD 0 = (1#64 : W64).getLsbD 0 := by rw [hw]
  rw [bitOf_eq_testBit]
  simpa [BitVec.getLsbD] using h0

/-! ### The frequency-measuring counter (R328 to R331) -/

/-- Settles O60: a start that sets no reserved bit and names two sources and a legal gate is one update of FMEAS, and so is
each event of the counter. -/
theorem frequencyCounter : Obligations.FrequencyCounter := by
  intro s w n
  refine ⟨?_, ?_⟩
  · intro ha hres hsrc href hlo hhi hstart
    have hlegal : ¬ (w.toNat / 65536 % 32 < 4 ∨ 30 < w.toNat / 65536 % 32) := by omega
    simp only [exec, execFmeasStart, whenAlive_of_alive ha, Hw.fmeasWrite, bitOf_eq_testBit, hstart, hres, hsrc, href]
    simp only [ne_eq, not_true, decide_false, Bool.not_true, Bool.or_false, Bool.or_eq_true, decide_eq_true_eq, Bool.false_or, if_neg hlegal,
      if_true]
  · intro hd
    refine ⟨?_, ?_, ?_, ?_⟩
    · intro hm
      simp [exec, execFmeasGateOpen, hd, hm]
    · intro hg hn
      have hmin : min n (2 ^ 40 - 1) = n := by omega
      simp only [exec, execFmeasGateClose, Hw.fmeasClose, hd, hg, Bool.and_self, if_true, bitOf_eq_testBit, hmin, decide_eq_false (Nat.not_le.2 hn)]
    · intro hg hn
      have hmin : min n (2 ^ 40 - 1) = 2 ^ 40 - 1 := by omega
      simp only [exec, execFmeasGateClose, Hw.fmeasClose, hd, hg, Bool.and_self, if_true, bitOf_eq_testBit, hmin, decide_eq_true hn]
      rfl
    · intro hm
      simp only [exec, execFmeasAbort, hd, if_true, Fmeas.abort, Bool.or_eq_true, if_pos hm, bitOf_eq_testBit]

/-! ### Attestation reports (R399, R403, R404) -/

/-- Settles O46: the control word and the end of a report are cases of the key, the signature and the report under way. -/
theorem attestationReports : Obligations.AttestationReports := by
  refine ⟨?_, ?_⟩
  · intro s w ha hres hgo
    have hsets := (MemorySetup.setsBits_both_eq_false_iff ..).mpr hres
    have hexec : exec (.attestGo w) s = .next { s with hw := s.hw.attestWrite .both w } :=
      next_whenAlive ha _
    rw [hexec, Hw.attestWrite, carried_both, bitOf_zero_of_and_one hgo, hsets]
    exact ⟨fun hb => by simp [hb], fun hb => by simp [hb]⟩
  · intro s r g hb hc
    refine ⟨?_, ?_⟩
    · intro hk
      simp [exec, execAttestReportDone, Hw.reportEnds, hb, hc, hk]
    · intro hk
      refine ⟨by simp [exec, execAttestReportDone, Hw.reportEnds, hb, hc, hk], ?_⟩
      by_cases hsig : verifySig (sha512 (reportBytes r)) (padTo 132 g) Config.identityKey = true <;>
        simp [exec, execAttestReportDone, Hw.reportEnds, hb, hc, hk, hsig]

/-! ### Port registers (R300 to R304) -/

theorem latch_eq (h : Hw) (x : LatchItem) (hx : isRetry x = false) :
    h.latch x = { h with latches := h.latches ++ [(if h.ex.running && decide (h.ex.window = .commit) then 2 else 1, x)] } := by
  simp [Hw.latch, hx]

theorem latch_retry (h : Hw) (p : Nat) : h.latch (.retry p) = { h with latches := h.latches ++ [(1, .retry p)] } := by
  simp [Hw.latch, isRetry]

theorem toNat_lt_of_and_eq_zero {w : W32} (hw : w &&& 0xFFFFFFC0#32 = 0) : w.toNat < 64 := by
  have hbound : w = w &&& 0x3F#32 := by
    calc w = w &&& (0xFFFFFFC0#32 ||| 0x3F#32) := BitVec.and_allOnes.symm
      _ = w &&& 0x3F#32 := by rw [BitVec.and_or_distrib_left, hw]; exact BitVec.zero_or
  rw [hbound, BitVec.toNat_and]
  exact lt_of_le_of_lt Nat.and_le_right (by decide)

/-- What the fields of a CTL word without reserved bits read, with and without retry. -/
theorem ctl_fields {w : W32} (hw : w &&& 0xFFFFFFC0#32 = 0) :
    w &&& 0xFFFFFEC0#32 = 0 ∧ w &&& 0x3F#32 = w ∧ bitOf w.toNat 8 = false
    ∧ (w ||| 0x100#32) &&& 0xFFFFFEC0#32 = 0 ∧ (w ||| 0x100#32) &&& 0x3F#32 = w ∧ bitOf (w ||| 0x100#32).toNat 8 = true
    ∧ (w ||| 0x100#32).toNat / 8 % 8 = w.toNat / 8 % 8 := by
  have hlt := toNat_lt_of_and_eq_zero hw
  have hsmall : ∀ k < 64, (BitVec.ofNat 32 k) &&& 0xFFFFFEC0#32 = 0 ∧ (BitVec.ofNat 32 k) &&& 0x3F#32 = BitVec.ofNat 32 k
      ∧ bitOf (BitVec.ofNat 32 k).toNat 8 = false
      ∧ (BitVec.ofNat 32 k ||| 0x100#32) &&& 0xFFFFFEC0#32 = 0 ∧ (BitVec.ofNat 32 k ||| 0x100#32) &&& 0x3F#32 = BitVec.ofNat 32 k
      ∧ bitOf (BitVec.ofNat 32 k ||| 0x100#32).toNat 8 = true
      ∧ (BitVec.ofNat 32 k ||| 0x100#32).toNat / 8 % 8 = (BitVec.ofNat 32 k).toNat / 8 % 8 := by decide
  simpa using hsmall w.toNat hlt

theorem aportCtlWrite_legal {h : Hw} {p : Nat} {w : W32} (hres : w &&& 0xFFFFFEC0#32 = 0) (hrate : w.toNat / 8 % 8 ≤ 4)
    (hm : badMaster (w &&& 0x3F#32) (h.port p).fmt = false) (hu : h.portUsed p = false) :
    h.aportCtlWrite p w =
      let g := (h.setPort p { h.port p with ctl := w &&& 0x3F#32 }).latch (.aportCtl p (w &&& 0x3F#32))
      if bitOf w.toNat 8 then g.latch (.retry p) else g := by
  rw [Hw.aportCtlWrite]
  refine if_neg ?_
  simp [hres, hm, hu]
  omega

theorem aportCtlWrite_used {h : Hw} {p : Nat} {w : W32} (hu : h.portUsed p = true)
    (hc : ((w &&& 0x3F#32) ^^^ (h.port p).ctl) &&& 0x3E#32 ≠ 0) : h.aportCtlWrite p w = h.dropWrite (portOff p 0) := by
  rw [Hw.aportCtlWrite]
  refine if_pos ?_
  rw [decide_eq_true hc, hu]
  exact Bool.or_true _

/-- Settles O57: each register stores its word and latches it; a word that changes how a port in use is directed, clocked or
framed is dropped. -/
theorem portRegisters : Obligations.PortRegisters := by
  intro s p w ha
  refine ⟨?_, ?_, ?_, ?_⟩
  · intro hres hrate hm hu
    obtain ⟨h1, h2, h3, h4, h5, h6, h7⟩ := ctl_fields hres
    refine ⟨?_, ?_⟩
    · simp only [exec, execAportCtlWrite, whenAlive_of_alive ha]
      rw [aportCtlWrite_legal h1 hrate (by rwa [h2]) hu, h2, h3, latch_eq _ _ rfl]
      rfl
    · simp only [exec, execAportRetry, whenAlive_of_alive ha]
      rw [aportCtlWrite_legal h4 (by rwa [h7]) (by rwa [h5]) hu, h5, h6, latch_eq _ _ rfl]
      simp only [if_true, latch_retry, List.append_assoc]
      rfl
  · intro hlt hmod hm hu
    have hlegal : ¬ (8 ≤ w.toNat) := by omega
    simp only [exec, execAportFmtWrite, whenAlive_of_alive ha, Hw.aportFmtWrite]
    rw [if_neg (by simp [hlegal, hmod, hm, hu]), latch_eq _ _ rfl]
    rfl
  · intro hlt hu
    have hlegal : ¬ (4 ≤ w.toNat) := by omega
    simp only [exec, execAportSlotmaskWrite, whenAlive_of_alive ha, Hw.aportMaskWrite]
    rw [if_neg (by simp [hlegal, hu]), latch_eq _ _ rfl]
    rfl
  · intro hu hc hres
    obtain ⟨-, h2, -⟩ := ctl_fields hres
    refine ⟨_, rfl, ?_⟩
    dsimp only
    rw [whenAlive_of_alive ha, aportCtlWrite_used hu (by rwa [h2])]
    exact ⟨by simp, by simp, PowerCap.dropWrite_dropCount_ne_zero _ _⟩

end Sys2Proof.Registers
end

section
/-!
PROOF. The reference clock and TICKSYNC: O52, O53.
-/
namespace Sys2Proof.Clocks
open Sys2Proof.Machine

/-! ### The reference clock (R332 to R338) -/

/-- REFCLK's return, after the memories have woken where the device is awake. -/
def relocked (h : Hw) (up : Bool) : Hw :=
  { h with
    mem := if h.ex.mode = .asleep then { h.mem with nearSelf := true }
           else { h.mem with nearSelf := false, farSelf := false, retrained := h.mem.retrained + b2n h.mem.farSelf }
    pwr := { h.pwr with refclk := .running, pllsLocked := h.pwr.booted && decide (h.ex.mode ≠ .asleep) }
    link := { h.link with up := h.link.up && up } }

theorem clockBack_eq {h : Hw} (hk : h.pwr.refclk ≠ .running) (up : Bool) :
    h.clockBack up =
      let g := relocked h up
      if !h.ex.running then g
      else if !(h.link.up && up) || h.ex.linkLost then g.linkStop
      else if h.ts.ctlNow.toNat % 4 = 2 then { g with pwr := { g.pwr with syncTimeout := true } }
      else g := by
  rw [Hw.clockBack, if_neg (by simpa using hk)]
  have hmode : (h.ex.mode != .asleep) = decide (h.ex.mode ≠ .asleep) := by cases h.ex.mode <;> rfl
  by_cases hm : h.ex.mode = .asleep <;> simp [hm, hmode, relocked, Hw.exitSelfRefresh]

theorem detector_of_running {h : Hw} (hk : h.pwr.refclk = .running) :
    h.detector = { h with
      war := { h.war with refEvents := h.war.refEvents + 1 }
      pwr := { h.pwr with refclk := .holdover, syncTimeout := false, tickPulse := false, masterBclk := false }
      ex := { h.ex with rerun := h.ex.rerun || h.ex.running, start := if h.ex.start == .none then .none else .testing }
      mem := { h.mem with nearSelf := true }
      fm := h.fm.abort
      ports := (h.ports.map (fun (e : Nat × Port) => (e.1, e.2.clockLoss))).filter (fun e => decide (e.2 ≠ Port.reset)) } := by
  simp [Hw.detector, hk]

/-- Settles O52: the detector, the end of holdover and the return of REFCLK, each by the clock's state. -/
theorem referenceClockLoss : Obligations.ReferenceClockLoss := by
  intro s
  refine ⟨?_, ?_, ?_, ?_, ?_, ?_, ?_, ?_⟩
  · intro hk
    refine ⟨_, rfl, ?_⟩
    dsimp only
    rw [detector_of_running hk]
    exact ⟨rfl, rfl, rfl, rfl, rfl, rfl, rfl, by simp [Hw.decodes]⟩
  · intro hk
    simp [exec, execRefclkDetectorFire, Hw.detector, hk]
  · intro hk
    refine ⟨_, rfl, ?_⟩
    dsimp only
    rw [if_pos (by simp [hk]), Supply.farToSelf_eq]
    refine ⟨rfl, ?_⟩
    intro hf c hc
    simp only [hf, Bool.false_eq_true, if_false]
    exact Supply.tget_allBankRefreshed _ hc
  · intro hk
    simp [exec, execHoldoverEnd, hk]
  · intro up hk
    refine ⟨?_, ?_, ?_⟩
    · intro hr
      simp only [exec, execRefclkReturn, clockBack_eq hk, hr, Bool.not_false, if_true]
      rfl
    · intro hr hl
      have hstop : (!(s.hw.link.up && up) || s.hw.ex.linkLost) = true := by
        rcases hl with hl | hl | hl <;> simp [hl]
      refine ⟨_, rfl, ?_⟩
      dsimp only
      simp only [clockBack_eq hk, hr, hstop, Bool.not_true, Bool.false_eq_true, if_false, if_true]
      exact ⟨Supply.linkStop_running _, by simp [relocked], Supply.linkStop_streams _⟩
    · intro hr hm hl hup hlost
      refine ⟨_, rfl, ?_⟩
      dsimp only
      simp only [clockBack_eq hk, hr, hl, hup, hlost, Bool.not_true, Bool.and_self, Bool.or_self, Bool.false_eq_true, if_false]
      by_cases hf : s.hw.ts.ctlNow.toNat % 4 = 2 <;> simp [hf, relocked, hm]
  · intro hk up
    simp [exec, execRefclkReturn, Hw.clockBack, hk]
  · intro ht
    refine ⟨_, rfl, ?_⟩
    dsimp only
    rw [if_pos ht]
    exact ⟨rfl, rfl, rfl, rfl, rfl, rfl⟩
  · intro ht
    simp [exec, execRefclkReturnSyncTimeout, ht]

/-! ### TICKSYNC (R187, R188) -/

theorem syncEdge_of_follows {h : Hw} (hf : h.follows = true) (hs : h.ex.start = .none) (ht : h.pwr.syncTimeout = false) (edge : Int) :
    h.syncEdge edge = h.measureEdge (edge + h.ts.delay) := by
  have hd : h.decodes = true := by
    simp only [Hw.follows, Bool.and_eq_true] at hf
    exact hf.1.1.1.1
  simp [Hw.syncEdge, hd, hs, ht, hf]

theorem measureEdge_far {h : Hw} {e : Int} (he : e < -8192 ∨ 8192 < e) : h.measureEdge e = h.syncMissing := by
  rw [Hw.measureEdge, if_pos (by simpa using he)]

theorem measureEdge_locked {h : Hw} {e : Int} (hlo : -2 ≤ e) (hhi : e ≤ 2) :
    h.measureEdge e = { h with ts := { h.ts with sync := 1, e := BitVec.ofInt 16 e, slips := [] } } := by
  rw [Hw.measureEdge, if_neg (by simp; omega), if_pos (by simp; omega)]

theorem measureEdge_slip {h : Hw} {e : Int} (hlo : -8192 ≤ e) (hhi : e ≤ 8192) (hs : e < -2 ∨ 2 < e) :
    h.measureEdge e =
      let slips := (e :: h.ts.slips).take 4
      let g : Hw := { h with ts := { h.ts with sync := 3, slip := true, e := BitVec.ofInt 16 e, slips := slips } }
      if decide (slips.length = 4) && agree slips then
        ({ g with ts := { g.ts with slips := [], rephase := e }, cnt := { g.cnt with rephases := g.cnt.rephases + 1 } }).note
          (entry 0x0040 0 0 moduleUnit (BitVec.ofInt 64 e).toNat 0)
      else g := by
  rw [Hw.measureEdge, if_neg (by simp; omega), if_neg (by simp; omega)]

/-- Settles O53: an edge is measured with the delay in force, and its distance decides between locked, slipped and missing. -/
theorem ticksyncEdges : Obligations.TicksyncEdges := by
  intro s e
  refine ⟨?_, ?_⟩
  · intro hd hs
    refine ⟨by simp [exec, execTicksyncInEdge, Hw.syncEdge, hd, hs], ?_⟩
    refine ⟨_, rfl, ?_⟩
    dsimp only
    rw [if_pos (by simp [hs, hd])]
    exact ⟨by simp, MemorySetup.note_log_ne_self _ _, by simp [Hw.takeFree]⟩
  · intro hf hs ht
    have hedge : exec (.ticksyncInEdge (e - (s.hw.ts.ctlNow.extractLsb' 16 11).toInt)) s = .next { s with hw := s.hw.measureEdge e } := by
      simp only [exec, execTicksyncInEdge, syncEdge_of_follows hf hs ht, Ticksync.delay, Int.sub_add_cancel]
    refine ⟨?_, ?_, ?_, ?_, ?_⟩
    · simp only [exec, execTicksyncMissing, hf, if_true]
      rfl
    · intro hfar
      rw [hedge, measureEdge_far hfar]
      rfl
    · intro hlo hhi
      rw [hedge, measureEdge_locked hlo hhi]
    · intro hlo hhi hslip hlen
      have htake : (e :: s.hw.ts.slips).take 4 = e :: s.hw.ts.slips := List.take_of_length_le (by simp; omega)
      have hfew : ¬ (e :: s.hw.ts.slips).length = 4 := by simp; omega
      rw [hedge, measureEdge_slip hlo hhi hslip]
      simp only [htake, decide_eq_false hfew, Bool.false_and, Bool.false_eq_true, if_false]
    · intro hlo hhi hslip hfour
      refine ⟨_, hedge, ?_⟩
      have hagree : agree [e, e, e, e] = true := by simp [agree]
      rw [measureEdge_slip hlo hhi hslip]
      simp [hfour, hagree]

end Sys2Proof.Clocks
end

section
/-!
PROOF. The triggers of TICK_CTL and the load checks: O34, O35.
-/
namespace Sys2Proof.StartStop
open Sys2Proof.Machine

/-! ### The triggers of TICK_CTL (R416 to R419) -/

theorem bitsAt_zero_three (w : W64) : bitsAt w 0 3 = (w &&& 7#64).toNat := by
  rw [bitsAt, BitVec.toNat_and, pow_zero, Nat.div_one]
  exact (Nat.and_two_pow_sub_one_eq_mod w.toNat 3).symm

section
variable {w : W64} (h : Hw) (hres : w &&& 0xFFFFFFFFFF00E0F8#64 = 0)
include hres

theorem tickCtlWrite_load (ht : w &&& 7#64 = 1#64) : h.tickCtlWrite .both w = h.loadRequest := by
  simp [Hw.tickCtlWrite, (MemorySetup.setsBits_both_eq_false_iff ..).mpr hres, bitsAt_zero_three, ht]

theorem tickCtlWrite_start (ht : w &&& 7#64 = 2#64) : h.tickCtlWrite .both w = h.startRequest := by
  simp [Hw.tickCtlWrite, (MemorySetup.setsBits_both_eq_false_iff ..).mpr hres, bitsAt_zero_three, ht]

theorem tickCtlWrite_stop (ht : w &&& 7#64 = 4#64) : h.tickCtlWrite .both w = h.stopRequest := by
  simp [Hw.tickCtlWrite, (MemorySetup.setsBits_both_eq_false_iff ..).mpr hres, bitsAt_zero_three, ht]

end

/-- Settles O34: one trigger in the word makes one request, and each request names its conditions. -/
theorem tickControl : Obligations.TickControl := by
  refine ⟨?_, ?_⟩
  · intro s w ha hres
    refine ⟨?_, ?_, ?_⟩
    · intro ht hm hr hs hb
      simp only [exec, execTickCtlLoad, Registers.whenAlive_of_alive ha, tickCtlWrite_load s.hw hres ht]
      rw [Hw.loadRequest, if_pos (by simp [hm, hr, hs, hb])]
    · intro ht hm hi hr hs hf
      simp only [exec, execTickCtlStart, Registers.whenAlive_of_alive ha, tickCtlWrite_start s.hw hres ht]
      rw [Hw.startRequest, if_pos (by simp [hm, hr, hs, hf, Option.isSome_iff_ne_none, hi])]
    · intro ht hr hs hn
      have hctxs : s.hw.ctxs = [] := by rw [Hw.ctxs, hs]; rfl
      simp only [exec, execTickCtlStop, Registers.whenAlive_of_alive ha, tickCtlWrite_stop s.hw hres ht]
      rw [Hw.stopRequest, if_pos (by simp [hr, hctxs]), if_neg (by simp [hn])]
      simp only [beq_iff_eq]
  · intro s w ha hres ht hm
    have hrefused : exec (.tickCtlStart w) s = .next { s with hw := s.hw.refused 0x100 } := by
      simp only [exec, execTickCtlStart, Registers.whenAlive_of_alive ha, tickCtlWrite_start s.hw hres ht]
      rw [Hw.startRequest, if_neg (by simp [hm])]
    exact ⟨_, hrefused, by simp, MemorySetup.refused_log_ne_self _ _, Hw.mem_raise _ _⟩

/-! ### The load checks (R160, R161, R417) -/

section
variable {h : Hw} (hon : h.memOn = true) (hl : h.ex.loadState = 1) (hm : h.ex.mode = .ready) (hr : h.ex.running = false)
  (hs : h.ex.start = .none)
include hon hl hm hr hs

theorem loadChecks_passed {i : ImageFile} (hc : h.checkRegion = 0) (hi : h.mem.region = some i) :
    h.loadChecks = ({ h with ex := { h.ex with image := some i, loadState := 2, failedCheck := 0 }
                             mem := { h.mem with se := writeN h.mem.se 0 (seWeights i) } }).extend 5 5 0 (imgHash i) := by
  rw [Hw.loadChecks, if_neg (by simp [hon, hl, hm, hr, hs])]
  simp only [hc, hi]

theorem loadChecks_failed (hc : h.checkRegion ≠ 0) :
    h.loadChecks = ({ h with ex := { h.ex with loadState := 3, failedCheck := BitVec.ofNat 8 h.checkRegion } }).note
      (entry 0x0020 0 0 moduleUnit h.checkRegion 0) := by
  rw [Hw.loadChecks, if_neg (by simp [hon, hl, hm, hr, hs])]
  split
  · next h0 _ => exact absurd h0 hc
  · rfl

end

theorem region_of_checkRegion_eq_zero {h : Hw} (hc : h.checkRegion = 0) : ∃ i, h.mem.region = some i := by
  unfold Hw.checkRegion at hc
  split at hc
  · exact absurd hc (by decide)
  · next i hi => exact ⟨i, hi⟩

/-- Settles O35: with every check passed the region's image comes into force, and otherwise the first failed one is recorded. -/
theorem loadChecksEnd : Obligations.LoadChecksEnd := by
  intro s hon hl hm hr hs
  refine ⟨_, rfl, ?_⟩
  dsimp only
  by_cases hc : s.hw.checkRegion = 0
  · obtain ⟨i, hi⟩ := region_of_checkRegion_eq_zero hc
    rw [loadChecks_passed hon hl hm hr hs hc hi]
    refine ⟨by simp [hc, hi], ?_, ?_, fun hne => absurd hc hne, by simp⟩
    · intro j _ hj
      obtain rfl : i = j := Option.some.inj (hi.symm.trans hj)
      exact ⟨by simp [Hw.extend], rfl⟩
    · intro k hk
      simp [Hw.extend, tget_tput, Ne.symm hk]
  · rw [loadChecks_failed hon hl hm hr hs hc]
    refine ⟨by simp [hc], fun i h0 => absurd h0 hc, fun k _ => by simp, fun _ => ⟨by simp, ?_, by simp⟩, by simp⟩
    exact MemorySetup.note_log_ne_self _ _

end Sys2Proof.StartStop
end

section
/-!
PROOF. Issuing reads and doorbells, and the writes that are dropped: O8, O9.
-/
namespace Sys2Proof.Reads
open Sys2Proof.Machine

/-! ### Issuing reads (R243 to R246) -/

theorem issueTurns_eq (k : Nat) (h : Hw) :
    issueTurns k h = { h with qs := (issueTurns k h).qs, link := { h.link with turn := (issueTurns k h).link.turn } } := by
  induction k generalizing h with
  | zero => rfl
  | succ k ih =>
    unfold issueTurns
    split
    · rfl
    · next q _ =>
      rw [ih]
      rfl

theorem queue_issueTurns (k : Nat) (h : Hw) (q : Nat) :
    (issueTurns k h).queue q = { h.queue q with outstanding := ((issueTurns k h).queue q).outstanding } := by
  induction k generalizing h with
  | zero => rfl
  | succ k ih =>
    unfold issueTurns
    split
    · rfl
    · next r _ =>
      rw [ih]
      have hr : ({ (h.modQueue r (fun p => { p with outstanding := p.outstanding + 1 })) with link := { h.link with turn := r } } : Hw).queue q
          = if r = q then { h.queue r with outstanding := (h.queue r).outstanding + 1 } else h.queue q := Hw.queue_setQueue ..
      rw [hr]
      split
      · next e => rw [e]
      · rfl

theorem issueReads_eq (h : Hw) : h.issueReads =
    { h with qs := h.issueReads.qs, rings := { h.rings with admitted := h.issueReads.rings.admitted }
             link := { h.link with urgentOut := h.issueReads.link.urgentOut, urgentWait := h.issueReads.link.urgentWait
                                   turn := h.issueReads.link.turn } } := by
  unfold Hw.issueReads
  rw [issueTurns_eq]
  rfl

theorem issueReads_admitted (h : Hw) :
    h.issueReads.rings.admitted = h.rings.admitted.map (fun a => { a with unread := a.unread && !h.mayRead a.q }) := by
  unfold Hw.issueReads
  rw [issueTurns_eq]
  rfl

theorem issueReads_urgentOut (h : Hw) :
    h.issueReads.link.urgentOut = h.link.urgentOut ++ h.link.urgentWait.take (64 - h.link.urgentOut.length) := by
  unfold Hw.issueReads
  rw [issueTurns_eq]
  rfl

theorem issueReads_urgentWait (h : Hw) :
    h.issueReads.link.urgentWait = h.link.urgentWait.drop (64 - h.link.urgentOut.length) := by
  unfold Hw.issueReads
  rw [issueTurns_eq]
  rfl

theorem queue_issueReads (h : Hw) (q : Nat) :
    h.issueReads.queue q = { h.queue q with outstanding := (h.issueReads.queue q).outstanding } := queue_issueTurns ..

@[simp] theorem issueReads_dropCount (h : Hw) : h.issueReads.link.dropCount = h.link.dropCount := by rw [issueReads_eq]

/-! ### Doorbells (R258 to R262) -/

/-- A write through BAR2 that drops nothing counts nothing. -/
theorem viaBar2_of_kept {h : Hw} {f : Hw → Hw} (hf : (f { h with link := { h.link with dropCount := 0 } }).link.dropCount = 0) :
    h.viaBar2 f = f h := if_pos hf

theorem exec_doorbellSqTail {s : State} (ha : s.hw.alive = true) (q : Fin 256) (w : W32) :
    exec (.doorbellSqTail q w) s = .next { s with hw := s.hw.viaBar2 (fun h => h.sqTailWrite q (q * 0x1000) w) } := by
  simp only [exec, execDoorbellSqTail, ha, if_true]

theorem exec_doorbellUrgent {s : State} (ha : s.hw.alive = true) (q : Fin 256) (w : W32) :
    exec (.doorbellUrgent q w) s =
      .next { s with hw := s.hw.viaBar2 (fun h => h.sqTailWrite q (q * 0x1000) (w ||| 0x10000#32)) } := by
  simp only [exec, execDoorbellUrgent, ha, if_true]

theorem sqTailWrite_same {h : Hw} {q off : Nat} {w : W32} (hb : h.sqTailBad q w = false) (ht : w.toNat % 65536 = (h.queue q).tail.toNat) :
    h.sqTailWrite q off w = h := by
  simp [Hw.sqTailWrite, hb, ht]

theorem sqTailWrite_moved {h : Hw} {q off : Nat} {w : W32} (hb : h.sqTailBad q w = false) (ht : w.toNat % 65536 ≠ (h.queue q).tail.toNat) :
    h.sqTailWrite q off w =
      let p := h.queue q
      let n := ringSub (ringSize p.sqLog) (w.toNat % 65536) p.fetch.toNat
      let urgent := if w.toNat.testBit 16 then max p.urgent (min 8 n) else p.urgent
      let reads := if p.fault then [] else urgentReads q (ringSize p.sqLog) (p.fetch.toNat + p.urgent) (urgent - p.urgent)
      Hw.issueReads { h.setQueue q { p with tail := BitVec.ofNat 16 (w.toNat % 65536), urgent := urgent } with
        link := { h.link with urgentWait := h.link.urgentWait ++ reads } } := by
  simp only [Hw.sqTailWrite, hb, ht, Bool.false_eq_true, if_false, Registers.bitOf_eq_testBit]
  rfl

/-- A word of 17 bits with the urgent bit set keeps its index and sets no reserved bit. -/
theorem urgent_word {w : W32} (hw : w.toNat < 131072) :
    (w ||| 0x10000#32).toNat < 131072 ∧ (w ||| 0x10000#32).toNat % 65536 = w.toNat % 65536
    ∧ (w ||| 0x10000#32).toNat.testBit 16 = true := by
  have hor : (w ||| 0x10000#32).toNat = w.toNat ||| 2 ^ 16 := BitVec.toNat_or ..
  have hlow : (w.toNat ||| 2 ^ 16) % 2 ^ 16 = w.toNat % 2 ^ 16 := by
    rw [Nat.or_mod_two_pow, Nat.mod_self, Nat.or_zero]
  rw [hor]
  refine ⟨Nat.or_lt_two_pow (n := 17) hw (by decide), hlow, ?_⟩
  rw [Nat.testBit_or, Nat.testBit_two_pow_self, Bool.or_true]

theorem sqTailWrite_dropCount {h : Hw} {q off : Nat} {w : W32} (hb : h.sqTailBad q w = false) :
    (h.sqTailWrite q off w).link.dropCount = h.link.dropCount := by
  by_cases ht : w.toNat % 65536 = (h.queue q).tail.toNat
  · rw [sqTailWrite_same hb ht]
  · rw [sqTailWrite_moved hb ht, issueReads_dropCount]

theorem viaBar2_sqTailWrite {h : Hw} {q : Nat} {w : W32} (off : Nat) (hb : h.sqTailBad q w = false) :
    h.viaBar2 (fun h => h.sqTailWrite q off w) = h.sqTailWrite q off w :=
  viaBar2_of_kept (sqTailWrite_dropCount (h := { h with link := { h.link with dropCount := 0 } }) hb)

theorem sqTailBad_eq_false {h : Hw} {q : Nat} {w : W32} (hon : (h.queue q).sqOn = true) (hw : w.toNat < 131072)
    (hi : w.toNat % 65536 < 2 ^ (h.queue q).sqLog.toNat) : h.sqTailBad q w = false := by
  have hres : w.toNat / 131072 = 0 := Nat.div_eq_of_lt hw
  simp only [Hw.sqTailBad, Bool.or_eq_false_iff, decide_eq_false_iff_not]
  exact ⟨⟨by simp [hres], by simp [hon]⟩, Nat.not_le.2 hi⟩

theorem cqHeadWrite_admitted {h : Hw} {q : Nat} {w : W32} (hon : (h.queue q).cqOn = true) (hw : w.toNat < 65536)
    (hi : w.toNat < 2 ^ (h.queue q).cqLog.toNat) (off : Nat) :
    h.cqHeadWrite q off w = h.setQueue q { h.queue q with cqHead := w.setWidth 16 } := by
  refine if_neg ?_
  simp only [Hw.cqHeadBad, Bool.or_eq_true, decide_eq_true_eq, not_or]
  exact ⟨⟨Nat.not_le.2 hw, by simp [hon]⟩, Nat.not_le.2 hi⟩

/-- Settles O8: an admitted tail is set and its urgent reads are asked for; issuing reads only moves what is under way. -/
theorem doorbellsAreTaken : Obligations.DoorbellsAreTaken := by
  refine ⟨?_, ?_, ?_⟩
  · intro s q w ha hon hw hi
    obtain ⟨hw', hmod, hbit⟩ := urgent_word hw
    have hb := sqTailBad_eq_false hon hw hi
    have hb' := sqTailBad_eq_false (w := w ||| 0x10000#32) hon hw' (by rwa [hmod])
    refine ⟨?_, ?_⟩
    · intro ht
      rw [exec_doorbellSqTail ha, exec_doorbellUrgent ha, viaBar2_sqTailWrite _ hb, viaBar2_sqTailWrite _ hb', sqTailWrite_same hb ht,
        sqTailWrite_same hb' (by rwa [hmod])]
      exact ⟨rfl, rfl⟩
    · intro ht
      rw [exec_doorbellSqTail ha, exec_doorbellUrgent ha, viaBar2_sqTailWrite _ hb, viaBar2_sqTailWrite _ hb', sqTailWrite_moved hb ht,
        sqTailWrite_moved hb' (by rwa [hmod]), hmod, hbit]
      exact ⟨rfl, rfl⟩
  · intro s q w ha hon hi hw
    have hset := cqHeadWrite_admitted (h := { s.hw with link := { s.hw.link with dropCount := 0 } }) hon hw hi (q * 0x1000 + 4)
    simp only [exec, execDoorbellCqHead, ha, if_true]
    rw [viaBar2_of_kept (by rw [hset]; rfl), cqHeadWrite_admitted hon hw hi]
    rfl
  · intro h
    exact ⟨issueReads_eq h, issueReads_admitted h, queue_issueReads h, by
      rw [issueReads_urgentOut, issueReads_urgentWait, List.append_assoc, List.take_append_drop], by
      intro hle
      rw [issueReads_urgentOut, List.length_append, List.length_take]
      omega⟩

/-! ### Writes that are dropped, and errors on the link (R236, R252, R259) -/

/-- A block whose function answers at rest, with the link up. -/
def answering : Hw :=
  { Hw.reset with
    pwr := { Power.reset with auxUp := true, railsOn := true, pgood := true, perst := false, booted := true }
    ex := { Exec.reset with mode := .ready } }

/-- Refutes O9: the model lets a write whose error the link corrected act, and does not note that error. A three-byte write with a
corrected receiver error leaves the correctable status 0, where the statement has bit 0 set. -/
theorem not_badWritesAreDropped : ¬ Obligations.BadWritesAreDropped := by
  intro h
  obtain ⟨-, -, -, hcorrected, -⟩ := h
  obtain ⟨hbar0, -⟩ := hcorrected { pending := [], hw := answering } 0 3 0 .receiver (by decide)
  have hstatus := congrArg (fun t : State => t.hw.link.pci.corStatus) (Host.Outcome.next.inj hbar0)
  exact absurd hstatus (by decide)

end Sys2Proof.Reads
end

section
/-!
PROOF. Settings that a boundary brings into force, and the queue registers: O39, O40.
-/
namespace Sys2Proof.Settings
open Sys2Proof.Machine

/-! ### Words and parts of a register -/

theorem setsBits_eq_false {p : Part} {w reserved : W64} (h : carried p w &&& reserved = 0) : setsBits p w reserved = false := by
  simp [setsBits, h]

theorem coversLo_of_ne_hi {p : Part} (hp : p ≠ .hi) : coversLo p = true := by
  cases p
  case hi => exact absurd rfl hp
  all_goals rfl

theorem bitOf_zero_eq (w : W64) : bitOf w.toNat 0 = decide (w &&& 1#64 = 1#64) := by
  have hmod : (w &&& 1#64).toNat = w.toNat % 2 := by rw [BitVec.toNat_and]; exact Nat.and_one_is_mod _
  have hiff : w &&& 1#64 = 1#64 ↔ w.toNat % 2 = 1 := by
    rw [← BitVec.toNat_inj, hmod]
    rfl
  simp [bitOf, hiff]

/-! ### XFER_MODE (R245, R421) -/

theorem xferWrite_changes {h : Hw} {p : Part} {w : W64} (hp : p ≠ .hi) (hres : carried p w &&& 0xFFFF00000000FCFE#64 = 0)
    (hr : h.ex.running = false) (ht : w &&& 1#64 = 1#64 → h.link.tags ≠ 0) :
    h.xferWrite p w = Hw.issueReads { h with link := { h.link with legacy := decide (w &&& 1#64 = 1#64) } } := by
  have hok : (h.ex.running || (bitOf w.toNat 0 && decide (h.link.tags = 0))) = false := by
    rw [hr, bitOf_zero_eq]
    simpa using ht
  simp only [Hw.xferWrite, setsBits_eq_false hres, coversLo_of_ne_hi hp, hok, Bool.not_true, Bool.false_eq_true, if_false]
  rw [bitOf_zero_eq]

theorem xferWrite_refused {h : Hw} {p : Part} {w : W64} (hp : p ≠ .hi) (hres : carried p w &&& 0xFFFF00000000FCFE#64 = 0)
    (hno : h.ex.running = true ∨ w &&& 1#64 = 1#64 ∧ h.link.tags = 0) : h.xferWrite p w = h.refused 0x18 := by
  have hbad : (h.ex.running || (bitOf w.toNat 0 && decide (h.link.tags = 0))) = true := by
    rw [bitOf_zero_eq]
    simpa using hno
  simp only [Hw.xferWrite, setsBits_eq_false hres, coversLo_of_ne_hi hp, hbad, Bool.not_true, Bool.false_eq_true, if_false, if_true]

/-! ### TICKSYNC_CTL (R420) -/

theorem carried_lo_setWidth (w : W32) : carried .lo (w.setWidth 64) = w.setWidth 64 := by
  apply BitVec.eq_of_toNat_eq
  have hw := w.isLt
  rw [carried, partMask, BitVec.toNat_and, BitVec.toNat_setWidth]
  change w.toNat % 2 ^ 64 &&& 2 ^ 32 - 1 = _
  rw [Nat.and_two_pow_sub_one_eq_mod]
  omega

theorem ticksyncWrite_role {h : Hw} {w : W32} (hres : w &&& 0xF800FFFC#32 = 0) (hrole : w.toNat % 4 ≠ 3) :
    h.ticksyncWrite .lo (w.setWidth 64) = ({ h with ts := { h.ts with ctl := w } }).latch (.ticksync w) := by
  have hw := w.isLt
  have hnat : (w.setWidth 64).toNat = w.toNat := by rw [BitVec.toNat_setWidth]; omega
  have hsets : setsBits .lo (w.setWidth 64) 0x0000FFF0F800FFFC#64 = false := by
    refine setsBits_eq_false ?_
    calc carried .lo (w.setWidth 64) &&& 0x0000FFF0F800FFFC#64
        = w.setWidth 64 &&& (0xFFFFFFFF#64 &&& 0x0000FFF0F800FFFC#64) := BitVec.and_assoc ..
      _ = (w &&& 0xF800FFFC#32).setWidth 64 := (BitVec.setWidth_and (y := 0xF800FFFC#32)).symm
      _ = 0 := by rw [hres]; rfl
  have hbits : bitsAt (w.setWidth 64) 0 2 ≠ 3 := by simpa [bitsAt, hnat] using hrole
  have hhigh : ∀ k, 32 ≤ k → bitOf w.toNat k = false := by
    intro k hk
    rw [Registers.bitOf_eq_testBit]
    exact Nat.testBit_lt_two_pow (lt_of_lt_of_le hw (Nat.pow_le_pow_right (by decide) hk))
  have hback : (w.setWidth 64).setWidth 32 = w := by simp
  simp only [Hw.ticksyncWrite, hsets, decide_eq_false hbits, coversLo, carried_lo_setWidth, hnat, hhigh 34 (by decide), hhigh 35 (by decide), hback]
  simp

/-! ### WARDEN_POLICY filter entries (R349) -/

theorem policyWrite_filter {h : Hw} {off : Nat} {w : W32} (bar : Nat) (ho : off < 0x280) (h4 : off % 4 = 0)
    (hres : w &&& 0xFFFFFE0C#32 = 0) (hs : w.toNat.testBit 8 = true → w.toNat / 16 % 16 ≤ 12) :
    h.policyWrite bar [(off, w)] = ({ h with war := { h.war with policy := tput 0 h.war.policy (off / 4) w } }).latch (.policy off w) := by
  have hoff : off / 4 * 4 = off := by omega
  have hentry : policyEntry off = some off := by rw [policyEntry, if_pos ho, hoff]
  have hand : w.toNat &&& 0xFFFFFE0C = 0 := by simpa using congrArg BitVec.toNat hres
  have hget : tget 0 (policyAfter h.war.policy [(off, w)]) (off / 4 + 0) = w := tget_tput_same ..
  have hfits : policyFits h.war.policy [(off, w)] off = true := by
    rw [policyFits]
    simp only [if_pos ho, hget, Registers.bitOf_eq_testBit]
    cases hb : w.toNat.testBit 8 <;> simp [hand, hs, hb]
  simp [Hw.policyWrite, hentry, hfits, policyAfter]

/-! ### Clears (R229, R381) -/

theorem eccClearWrite_one (h : Hw) : h.eccClearWrite .both 1 = h.latch .eccClear := rfl

theorem logClearWrite_one (h : Hw) : h.logClearWrite .both 1 = if h.ex.running then h.latch .logClear else h.force .logClear := rfl

/-- Settles O39: each of these writes sets no reserved bit, so it stores, latches or acts in one update. -/
theorem settingsAtABoundary : Obligations.SettingsAtABoundary := by
  refine ⟨?_, ?_, ?_⟩
  · intro s p w ha hp hres hr ht
    simp only [exec, execXferModeWrite, Registers.whenAlive_of_alive ha, xferWrite_changes hp hres hr ht]
  · intro s p w ha hp hres hno
    refine ⟨_, rfl, ?_⟩
    dsimp only
    rw [Registers.whenAlive_of_alive ha, xferWrite_refused hp hres hno]
    exact ⟨MemorySetup.refused_log_ne_self _ _, Hw.mem_raise _ _, by simp, Supply.link_note _ _⟩
  · intro s w off ha
    refine ⟨?_, ?_, ?_, ?_, ?_⟩
    · intro hres hrole
      simp only [exec, execTicksyncCtlWrite, Registers.whenAlive_of_alive ha, ticksyncWrite_role hres hrole]
      rw [Registers.latch_eq _ _ rfl]
    · intro ho h4 hres hs
      simp only [exec, execWardenPolicyWrite, Registers.whenAlive_of_alive ha, policyWrite_filter _ ho h4 hres hs]
      rw [Registers.latch_eq _ _ rfl]
    · simp only [exec, execEccStatClear, Registers.whenAlive_of_alive ha, eccClearWrite_one]
      rw [Registers.latch_eq _ _ rfl]
    · intro hr
      simp only [exec, execErrLogClear, Registers.whenAlive_of_alive ha, logClearWrite_one, if_pos hr]
      rw [Registers.latch_eq _ _ rfl]
    · intro hr
      simp only [exec, execErrLogClear, Registers.whenAlive_of_alive ha, logClearWrite_one, hr, Bool.false_eq_true, if_false]
      rfl

/-! ### Queue registers (R423, R424) -/

section
variable {h : Hw} (hq : h.sequencerOn = true) (q : Nat) (p : Part) (w : W64)
include hq

theorem queueWrite_sqBase : h.queueWrite q 0x00 p w = h.sqBaseWrite q p w := by simp [Hw.queueWrite, hq]
theorem queueWrite_sqSize : h.queueWrite q 0x08 p w = h.sqSizeWrite q p w := by simp [Hw.queueWrite, hq]
theorem queueWrite_sqCredit : h.queueWrite q 0x10 p w = h.sqCreditWrite q p w := by simp [Hw.queueWrite, hq]
theorem queueWrite_cqSize : h.queueWrite q 0x28 p w = h.cqSizeWrite q p w := by simp [Hw.queueWrite, hq]
theorem queueWrite_cqVector : h.queueWrite q 0x30 p w = h.cqVectorWrite q p w := by simp [Hw.queueWrite, hq]

end

theorem bitsAt_zero (w : W64) (n : Nat) : bitsAt w 0 n = w.toNat % 2 ^ n := by rw [bitsAt, pow_zero, Nat.div_one]

theorem sizeRefused_eq_false {on : Bool} {old : BitVec 5} {w : W64} (hlo : 4 ≤ w.toNat % 32) (hhi : w.toNat % 32 ≤ 16)
    (hsame : on = true → w.toNat % 32 = old.toNat) : sizeRefused on old w = false := by
  have hb : bitsAt w 0 5 = w.toNat % 32 := bitsAt_zero w 5
  have h1 : ¬ w.toNat % 32 < 4 := by omega
  have h2 : ¬ 16 < w.toNat % 32 := by omega
  cases on <;> simp_all [sizeRefused]

/-! #### Submission queues -/

section
variable {h : Hw} {q : Nat} {g : Part} {w : W64} (hg : g ≠ .hi) (hres : carried g w &&& 0xFFFF00000000FCE0#64 = 0)
  (hlo : 4 ≤ w.toNat % 32) (hhi : w.toNat % 32 ≤ 16)
include hg hres hlo hhi

theorem sqSizeWrite_enable (hbit : w.toNat.testBit 8 = true) (hoff : (h.queue q).sqOn = false) (hcq : (h.queue q).cqOn = true)
    (hsum : h.creditSum + (h.queue q).credit.toNat ≤ h.ordinaryPool) :
    h.sqSizeWrite q g w = (h.setQueue q { h.queue q with
      sqLog := BitVec.ofNat 5 (w.toNat % 32), sqOn := true, fetch := 0, tail := 0, head := 0, fault := false, retried := false }).dropReads q := by
  have hsize := sizeRefused_eq_false (on := false) (old := (h.queue q).sqLog) hlo hhi (by simp)
  simp only [Hw.sqSizeWrite, setsBits_eq_false hres, coversLo_of_ne_hi hg, hsize, Registers.bitOf_eq_testBit, hbit, hoff, hcq, bitsAt_zero,
    decide_eq_false (Nat.not_lt.2 hsum)]
  rfl

theorem sqSizeWrite_disable (hbit : w.toNat.testBit 8 = false) (hon : (h.queue q).sqOn = true)
    (hsame : w.toNat % 32 = (h.queue q).sqLog.toNat) :
    h.sqSizeWrite q g w = ((h.setQueue q { h.queue q with sqOn := false }).dropReads q).issueReads := by
  have hsize := sizeRefused_eq_false (on := true) hlo hhi (fun _ => hsame)
  simp only [Hw.sqSizeWrite, setsBits_eq_false hres, coversLo_of_ne_hi hg, hsize, Registers.bitOf_eq_testBit, hbit, hon]
  rfl

end

theorem dropReads_eq (h : Hw) (q : Nat) : h.dropReads q =
    { h.setQueue q { h.queue q with outstanding := 0, urgent := 0 } with link := { h.link with
      urgentWait := h.link.urgentWait.filter (fun x => x.1 != q), urgentOut := h.link.urgentOut.filter (fun x => x.1 != q) } } := rfl

theorem sqCreditWrite_within {h : Hw} {q : Nat} {g : Part} {w : W64} (hg : g ≠ .hi) (hres : carried g w &&& 0xFFFFFFFF00000000#64 = 0)
    (hon : (h.queue q).sqOn = true) (hc : w.toNat % 65536 ≤ h.ordinaryPool)
    (hsum : h.creditSum - (h.queue q).credit.toNat + w.toNat % 65536 ≤ h.ordinaryPool) :
    h.sqCreditWrite q g w =
      (h.setQueue q { h.queue q with credit := BitVec.ofNat 16 (w.toNat % 65536) }).latch (.credit q (BitVec.ofNat 16 (w.toNat % 65536))) := by
  have hb : bitsAt w 0 16 = w.toNat % 65536 := bitsAt_zero w 16
  simp only [Hw.sqCreditWrite, setsBits_eq_false hres, coversLo_of_ne_hi hg, hon, hb, decide_eq_false (Nat.not_lt.2 hc), if_true,
    decide_eq_false (Nat.not_lt.2 hsum), Bool.and_false]
  rfl

/-! #### Completion queues -/

section
variable {h : Hw} {q : Nat} {g : Part} {w : W64} (hg : g ≠ .hi) (hres : carried g w &&& 0xFCE0#64 = 0)
  (hlo : 4 ≤ w.toNat % 32) (hhi : w.toNat % 32 ≤ 16) (h9 : w.toNat.testBit 9 = false)
include hg hres hlo hhi h9

theorem cqSizeWrite_enable (hbit : w.toNat.testBit 8 = true) (hoff : (h.queue q).cqOn = false) :
    h.cqSizeWrite q g w = h.setQueue q { h.queue q with
      cqLog := BitVec.ofNat 5 (w.toNat % 32), cqOn := true, cqTail := 0, cqHead := 0, dropped := 0 } := by
  have hsize := sizeRefused_eq_false (on := false) (old := (h.queue q).cqLog) hlo hhi (by simp)
  simp only [Hw.cqSizeWrite, setsBits_eq_false hres, coversLo_of_ne_hi hg, hsize, Registers.bitOf_eq_testBit, hbit, h9, hoff, bitsAt_zero]
  simp

theorem cqSizeWrite_disable (hbit : w.toNat.testBit 8 = false) (hon : (h.queue q).cqOn = true)
    (hsame : w.toNat % 32 = (h.queue q).cqLog.toNat) (hidle : h.cqIdle q = true) :
    h.cqSizeWrite q g w = h.setQueue q { h.queue q with cqOn := false } := by
  have hsize := sizeRefused_eq_false (on := true) hlo hhi (fun _ => hsame)
  have hlog : BitVec.ofNat 5 (w.toNat % 2 ^ 5) = (h.queue q).cqLog := by
    rw [show w.toNat % 2 ^ 5 = (h.queue q).cqLog.toNat from hsame, BitVec.ofNat_toNat, BitVec.setWidth_eq]
  simp only [Hw.cqSizeWrite, setsBits_eq_false hres, coversLo_of_ne_hi hg, hsize, Registers.bitOf_eq_testBit, hbit, h9, hon, hidle, bitsAt_zero,
    hlog]
  simp

end

theorem bitsAt_zero_nine (w : W64) : bitsAt w 0 9 = w.toNat % 512 := bitsAt_zero w 9

theorem cqVectorWrite_sets {h : Hw} {q : Nat} {g : Part} {w : W64} (hg : g ≠ .hi) (hres : carried g w &&& 0xFFFFFFFFFFFFFE00#64 = 0)
    (hv : w.toNat % 512 ≠ 511) : h.cqVectorWrite q g w = h.setQueue q { h.queue q with vector := BitVec.ofNat 9 w.toNat } := by
  simp only [Hw.cqVectorWrite, setsBits_eq_false hres, coversLo_of_ne_hi hg, bitsAt_zero_nine, decide_eq_false hv]
  rfl

theorem cqVectorWrite_reserved {h : Hw} {q : Nat} {g : Part} {w : W64} (hg : g ≠ .hi) (hv : w.toNat % 512 = 511) :
    h.cqVectorWrite q g w = h.dropWrite (partOff g (queueOff q 0x30)) := by
  simp only [Hw.cqVectorWrite, coversLo_of_ne_hi hg, bitsAt_zero_nine, decide_eq_true hv, Bool.and_true, Bool.or_true, if_true]

/-! #### A queue that has stopped is issued no read -/

theorem mem_of_mem_tdel {α : Type} {t : Table α} {k : Nat} {e : Nat × α} (he : e ∈ tdel t k) : e ∈ t := by
  induction t with
  | nil => exact he
  | cons a r ih =>
    rw [tdel] at he
    split at he
    · exact List.mem_cons_of_mem _ (ih he)
    · rcases List.mem_cons.1 he with rfl | he
      · exact List.mem_cons_self
      · exact List.mem_cons_of_mem _ (ih he)

theorem mem_tins {α : Type} {t : Table α} {k : Nat} {v : α} {e : Nat × α} (he : e ∈ tins t k v) : e = (k, v) ∨ e ∈ t := by
  induction t with
  | nil => simpa [tins] using he
  | cons a r ih =>
    rw [tins] at he
    split at he
    · simpa using he
    · rcases List.mem_cons.1 he with rfl | he
      · exact .inr List.mem_cons_self
      · exact (ih he).imp id (List.mem_cons_of_mem _)

theorem mem_tput {α : Type} [DecidableEq α] {d v : α} {t : Table α} {k : Nat} {e : Nat × α} (he : e ∈ tput d t k v) :
    e = (k, v) ∨ e ∈ t ∧ e.1 ≠ k := by
  have hdel : ∀ e ∈ tdel t k, e ∈ t ∧ e.1 ≠ k := fun e he => ⟨mem_of_mem_tdel he, tdel_ne t k e he⟩
  rw [tput_eq] at he
  split at he
  · exact .inr (hdel e he)
  · exact (mem_tins he).imp id (hdel e)

/-- Every entry of the queue's number is of a disabled queue. -/
def QueueOff (h : Hw) (q : Nat) : Prop := ∀ e ∈ h.qs, e.1 = q → e.2.sqOn = false

theorem queueOff_setQueue {h : Hw} {q : Nat} {p : QueuePair} (hp : p.sqOn = false) : QueueOff (h.setQueue q p) q := by
  intro e he hq
  rcases mem_tput he with rfl | ⟨-, hne⟩
  · exact hp
  · exact absurd hq hne

theorem nextReader_ne {h : Hw} {q r : Nat} (hq : QueueOff h q) (hr : h.nextReader = some r) : r ≠ q := by
  rintro rfl
  rw [Hw.nextReader] at hr
  split at hr
  · cases hr
  · have hmem := List.mem_of_mem_head? hr
    simp only [List.mem_append, List.mem_filter, List.mem_map, Prod.exists] at hmem
    obtain ⟨a, p, ⟨hp, hw⟩, rfl⟩ := hmem.elim And.left And.left
    have hoff : p.sqOn = false := hq _ hp rfl
    simp [Hw.wantsRead, hoff] at hw

theorem queue_issueTurns_off (k : Nat) {h : Hw} {q : Nat} (hq : QueueOff h q) : (issueTurns k h).queue q = h.queue q := by
  induction k generalizing h with
  | zero => rfl
  | succ k ih =>
    unfold issueTurns
    split
    · rfl
    · next r hr =>
      have hne := nextReader_ne hq hr
      rw [ih]
      · exact (Hw.queue_setQueue ..).trans (if_neg hne)
      · intro e he heq
        rcases mem_tput he with rfl | ⟨hin, -⟩
        · exact absurd heq hne
        · exact hq e hin heq

theorem queue_issueReads_off {h : Hw} {q : Nat} (hq : QueueOff h q) : h.issueReads.queue q = h.queue q :=
  queue_issueTurns_off _ hq

/-- Settles O40: each queue register's write is one update of its queue pair; a disabled queue is issued no further read. -/
theorem queueSetup : Obligations.QueueSetup := by
  refine ⟨?_, ?_⟩
  · intro s q g w ha hseq hg
    refine ⟨?_, ?_⟩
    · intro hres hlo hhi
      refine ⟨?_, ?_⟩
      · intro hbit hoff hcq hsum
        refine ⟨_, rfl, ?_⟩
        dsimp only
        rw [Registers.whenAlive_of_alive ha, queueWrite_sqSize hseq]
        rw [sqSizeWrite_enable hg hres hlo hhi hbit hoff hcq hsum, dropReads_eq]
        refine ⟨rfl, ?_, ?_⟩
        · refine (Hw.queue_setQueue ..).trans ?_
          simp
        · intro k hk
          refine (Hw.queue_setQueue ..).trans ?_
          simp [Ne.symm hk]
      · intro hbit hon hsame
        refine ⟨_, rfl, ?_⟩
        dsimp only
        rw [Registers.whenAlive_of_alive ha, queueWrite_sqSize hseq]
        rw [sqSizeWrite_disable hg hres hlo hhi hbit hon hsame]
        generalize hn : (s.hw.setQueue q { s.hw.queue q with sqOn := false }).dropReads q = n
        have hn' := hn
        rw [dropReads_eq] at hn'
        have hqoff : QueueOff n q := by
          rw [← hn']
          exact queueOff_setQueue (by simp)
        have hother : ∀ k, n.queue k = if q.val = k then { s.hw.queue q with sqOn := false, outstanding := 0, urgent := 0 } else s.hw.queue k := by
          intro k
          rw [← hn']
          refine (Hw.queue_setQueue ..).trans ?_
          by_cases hk : q.val = k <;> simp [hk]
        refine ⟨?_, ?_, ?_, ?_, ?_⟩
        · rw [Reads.issueReads_eq, ← hn']
          rfl
        · rw [queue_issueReads_off hqoff, hother, if_pos rfl]
        · rw [Reads.issueReads_admitted, List.map_map, ← hn']
          rfl
        · intro e he
          rw [Reads.issueReads_urgentOut, Reads.issueReads_urgentWait, List.append_assoc, List.take_append_drop, ← hn'] at he
          simp only [List.mem_append, List.mem_filter, bne_iff_ne] at he
          exact he.elim And.right And.right
        · intro k hk
          rw [Reads.queue_issueReads, hother, if_neg (Ne.symm hk)]
    · intro hres hon hc hsum
      simp only [exec, execSqCreditWrite, Registers.whenAlive_of_alive ha, queueWrite_sqCredit hseq,
        sqCreditWrite_within hg hres hon hc hsum]
      rw [Registers.latch_eq _ _ rfl]
      rfl
  · intro s q g w ha hseq hg
    refine ⟨?_, ?_⟩
    · intro hres hlo hhi h9
      refine ⟨?_, ?_⟩
      · intro hbit hoff
        simp only [exec, execCqEnable, Registers.whenAlive_of_alive ha, queueWrite_cqSize hseq,
          cqSizeWrite_enable hg hres hlo hhi h9 hbit hoff]
      · intro hbit hon hsame hidle
        simp only [exec, execCqDisable, Registers.whenAlive_of_alive ha, queueWrite_cqSize hseq,
          cqSizeWrite_disable hg hres hlo hhi h9 hbit hon hsame hidle]
    · intro hres
      refine ⟨?_, ?_⟩
      · intro hv
        simp only [exec, execCqVectorWrite, Registers.whenAlive_of_alive ha, queueWrite_cqVector hseq, cqVectorWrite_sets hg hres hv]
      · intro hv
        refine ⟨_, rfl, ?_⟩
        dsimp only
        rw [Registers.whenAlive_of_alive ha, queueWrite_cqVector hseq]
        rw [cqVectorWrite_reserved hg hv]
        exact ⟨by simp, PowerCap.dropWrite_dropCount_ne_zero _ _⟩

end Sys2Proof.Settings
end

section
/-!
PROOF. Sizes of register accesses, and SMBus: O42, O43.
-/
namespace Sys2Proof.Access
open Sys2Proof.Machine

/-! ### Little-endian bytes -/

theorem bytesToNat_foldl (l : List Byte) (a : Nat) :
    l.foldl (fun acc b => acc * 256 + b.toNat) a = a * 256 ^ l.length + l.foldl (fun acc b => acc * 256 + b.toNat) 0 := by
  induction l generalizing a with
  | nil => simp
  | cons b l ih =>
    rw [List.foldl_cons, List.foldl_cons, ih, ih (0 * 256 + b.toNat), List.length_cons, pow_succ]
    ring

theorem bytesToNat_cons (b : Byte) (l : List Byte) : bytesToNat (b :: l) = b.toNat * 256 ^ l.length + bytesToNat l := by
  simpa [bytesToNat] using bytesToNat_foldl l b.toNat

theorem bytesToNatLE_natBytesLE (n z : Nat) : bytesToNatLE (natBytesLE n z) = z % 256 ^ n := by
  induction n with
  | zero => simp [natBytesLE, bytesToNatLE, bytesToNat, Nat.mod_one]
  | succ n ih =>
    have hpow : 2 ^ (8 * n) = 256 ^ n := by rw [pow_mul]; rfl
    have hsplit : natBytesLE (n + 1) z = natBytesLE n z ++ [BitVec.ofNat 8 (z / 2 ^ (8 * n))] := by
      simp [natBytesLE, List.range_succ]
    have hlen : (natBytesLE n z).reverse.length = n := by simp [natBytesLE]
    have ih' : bytesToNat (natBytesLE n z).reverse = z % 256 ^ n := ih
    rw [bytesToNatLE, hsplit, List.reverse_append, List.reverse_singleton, List.singleton_append, bytesToNat_cons, hlen,
      BitVec.toNat_ofNat, hpow, ih', show 256 ^ (n + 1) = 256 ^ n * 256 from pow_succ .., Nat.mod_mul, add_comm, mul_comm]

theorem readN_writeN_same (m : Memory) (a : Nat) {n : Nat} {bs : List Byte} (hn : bs.length = n) : readN (writeN m a bs) a n = bs := by
  subst hn
  apply List.ext_getElem
  · simp [readN]
  · intro i h1 h2
    simp [readN, read8_writeN, h2, List.getD_eq_getElem?_getD]

/-! ### Sizes of register writes (R408 to R411) -/

theorem exec_registerWrite_bar0 {s : State} (ha : s.hw.alive = true) (off size : Nat) (d : W64) :
    exec (.registerWrite .bar0 off size d .none) s = .next { s with hw := s.hw.bar0Write off size d } := by
  rw [PowerCap.exec_registerWrite]
  simp only [Hw.answers, ha, if_true]
  rfl

theorem write64_window (h : Hw) {o : Nat} (ho : o + 8 ≤ 0x1000000) (d : W64) :
    h.write64 (0x1000000 + o) .both d =
      { h with sec := { h.sec with window := writeN h.sec.window o (natBytesLE 8 d.toNat) } } := by
  simp (disch := omega) only [Hw.write64, if_neg, if_pos, Nat.add_sub_cancel_left]
  rfl

theorem bar0Word_window (h : Hw) {o : Nat} (ho : o + 8 ≤ 0x1000000) :
    h.bar0Word (0x1000000 + o) = bytesToNatLE (readN h.sec.window o 8) := by
  simp (disch := omega) only [Hw.bar0Word, if_neg, if_pos, Nat.add_sub_cancel_left]

theorem write64_sqBase (h : Hw) (hq : h.sequencerOn = true) (q : Fin 256) (p : Part) (w : W64) :
    h.write64 (0x10000 + q.val * 0x80) p w = h.sqBaseWrite q p w := by
  have hlt := q.isLt
  have hidx : (0x10000 + q.val * 0x80 - 0x10000) / 0x80 = q := by omega
  have hreg : (0x10000 + q.val * 0x80) % 0x80 = 0 := by omega
  simp (disch := omega) only [Hw.write64, if_neg, if_pos, hidx, hreg, Settings.queueWrite_sqBase hq]

/-- The low half of a word. -/
abbrev lowHalf (d : W64) : W64 := d &&& 0xFFFFFFFF#64

theorem sqBaseWrite_off {h : Hw} {q : Nat} {p : Part} {w : W64} (hoff : (h.queue q).sqOn = false) (hres : carried p w &&& 0xFFF#64 = 0) :
    h.sqBaseWrite q p w = h.setQueue q { h.queue q with sqBase := merge p (h.queue q).sqBase w } := by
  rw [Hw.sqBaseWrite, Settings.setsBits_eq_false hres, hoff]
  rfl

/-- The bits of the masks of a register's halves. -/
theorem getLsbD_lowMask (i : Nat) : (0xFFFFFFFF#64).getLsbD i = decide (i < 32) := by
  rw [show 0xFFFFFFFF#64 = (BitVec.allOnes 32).setWidth 64 by decide, BitVec.getLsbD_setWidth, BitVec.getLsbD_allOnes]
  by_cases hi : i < 32
  · simp [hi, show i < 64 by omega]
  · simp [hi]

theorem getLsbD_highMask {i : Nat} (hi : i < 64) : (0xFFFFFFFF00000000#64).getLsbD i = decide (32 ≤ i) := by
  rw [show 0xFFFFFFFF00000000#64 = ~~~0xFFFFFFFF#64 by decide, BitVec.getLsbD_not, getLsbD_lowMask]
  by_cases h : i < 32
  · simp [h]
  · simp [h, hi]
    omega

theorem merge_both (old w : W64) : merge .both old w = w := by
  apply BitVec.eq_of_getLsbD_eq
  intro i hi
  rw [merge, partMask, show ~~~0xFFFFFFFFFFFFFFFF#64 = 0#64 by decide, BitVec.and_zero, BitVec.zero_or]
  exact congrArg (BitVec.getLsbD · i) BitVec.and_allOnes

theorem merge_lo (old d : W64) : merge .lo old (lowHalf d) = (old >>> 32 <<< 32) ||| lowHalf d := by
  apply BitVec.eq_of_getLsbD_eq
  intro i hi
  simp only [merge, partMask, BitVec.getLsbD_or, BitVec.getLsbD_and, BitVec.getLsbD_not, BitVec.getLsbD_shiftLeft, BitVec.getLsbD_ushiftRight,
    getLsbD_lowMask]
  by_cases h : i < 32
  · simp [h]
  · simp [h, hi, show 32 + (i - 32) = i by omega]

theorem merge_hi (old d : W64) : merge .hi old (d <<< 32) = (d <<< 32) ||| lowHalf old := by
  apply BitVec.eq_of_getLsbD_eq
  intro i hi
  simp only [merge, partMask, BitVec.getLsbD_or, BitVec.getLsbD_and, BitVec.getLsbD_not, BitVec.getLsbD_shiftLeft, getLsbD_lowMask,
    getLsbD_highMask hi]
  by_cases h : i < 32
  · simp [h, hi, show ¬ 32 ≤ i by omega]
  · simp [h, hi, show 32 ≤ i by omega]

/-- The low twelve bits of SQ_BASE are reserved in the low half, and in the high half there are none. -/
theorem carried_lo_reserved {d : W64} (hd : d &&& 0xFFF#64 = 0) : carried .lo (lowHalf d) &&& 0xFFF#64 = 0 := by
  calc carried .lo (lowHalf d) &&& 0xFFF#64
      = d &&& (0xFFFFFFFF#64 &&& (0xFFFFFFFF#64 &&& 0xFFF#64)) := by rw [carried, partMask, BitVec.and_assoc, BitVec.and_assoc]
    _ = 0 := hd

theorem carried_hi_reserved (w : W64) : carried .hi w &&& 0xFFF#64 = 0 := by
  rw [carried, partMask, BitVec.and_assoc]
  exact BitVec.and_zero

/-- Settles O42: the window takes the eight bytes, and SQ_BASE the half or the whole that the access carries. -/
theorem registerWriteSizes : Obligations.RegisterWriteSizes := by
  refine ⟨?_, ?_⟩
  · intro s o d ha ho hlt
    have hsize : sizeOk (0x1000000 + o) 8 = true := by simp [sizeOk]; omega
    have hbar0 : s.hw.bar0Write (0x1000000 + o) 8 d = s.hw.write64 (0x1000000 + o) .both d := by
      simp (disch := omega) only [Hw.bar0Write, hsize, Bool.not_true, if_neg, if_pos]
      rfl
    refine ⟨_, exec_registerWrite_bar0 ha _ _ _, ?_⟩
    dsimp only
    rw [hbar0, write64_window _ hlt]
    refine ⟨?_, ?_, rfl, rfl, rfl, rfl⟩
    · have hlen : (natBytesLE 8 d.toNat).length = 8 := rfl
      rw [Hw.bar0Read, sizedRead, if_pos (by omega), bar0Word_window _ hlt]
      dsimp only
      rw [readN_writeN_same _ _ hlen, bytesToNatLE_natBytesLE, show 256 ^ 8 = 2 ^ 64 by decide, Nat.mod_eq_of_lt d.isLt, BitVec.ofNat_toNat, BitVec.setWidth_eq]
    · intro a hout
      rw [read8_writeN, if_neg]
      change ¬ (o ≤ a ∧ a < o + 8)
      omega
  · intro s q d ha hseq hoff hres
    have hlt := q.isLt
    refine ⟨?_, ?_, ?_⟩
    · have hsize : sizeOk (0x10000 + q.val * 0x80) 8 = true := by simp [sizeOk]; omega
      have hbar0 : s.hw.bar0Write (0x10000 + q.val * 0x80) 8 d = s.hw.write64 (0x10000 + q.val * 0x80) .both d := by
        simp (disch := omega) only [Hw.bar0Write, hsize, Bool.not_true, if_neg, if_pos]
        rfl
      rw [exec_registerWrite_bar0 ha, hbar0, write64_sqBase _ hseq, sqBaseWrite_off hoff (by rwa [Registers.carried_both]), merge_both]
    · have hsize : sizeOk (0x10000 + q.val * 0x80) 4 = true := by simp [sizeOk]; omega
      have hbar0 : s.hw.bar0Write (0x10000 + q.val * 0x80) 4 d = s.hw.write64 (0x10000 + q.val * 0x80) .lo (lowHalf d) := by
        simp (disch := omega) only [Hw.bar0Write, hsize, Bool.not_true, if_neg, if_pos]
        rfl
      rw [exec_registerWrite_bar0 ha, hbar0, write64_sqBase _ hseq, sqBaseWrite_off hoff (carried_lo_reserved hres), merge_lo]
    · have hsize : sizeOk (0x10000 + q.val * 0x80 + 4) 4 = true := by simp [sizeOk]; omega
      have hbar0 : s.hw.bar0Write (0x10000 + q.val * 0x80 + 4) 4 d = s.hw.write64 (0x10000 + q.val * 0x80) .hi (d <<< 32) := by
        simp (disch := omega) only [Hw.bar0Write, hsize, Bool.not_true, if_neg, Nat.add_sub_cancel]
        rfl
      rw [exec_registerWrite_bar0 ha, hbar0, write64_sqBase _ hseq, sqBaseWrite_off hoff (carried_hi_reserved _), merge_hi]

/-! ### SMBus (R237, R240, R442) -/

section
variable {h : Hw} {f : SmbusFrame} (hup : h.pwr.auxUp = true) (g : Hw → Hw)
include hup

theorem smbusTake_good (haddr : f.addr.toNat = 0x5C + h.pwr.smbAddr.toNat) (hpec : f.pec = true) :
    h.smbusTake f g = { g h with link := { (g h).link with smNack := false } } := by
  simp [Hw.smbusTake, hup, haddr, hpec]

theorem smbusTake_badPec (haddr : f.addr.toNat = 0x5C + h.pwr.smbAddr.toNat) (hpec : f.pec = false) :
    h.smbusTake f g = { h with link := { h.link with smNack := true } } := by
  simp [Hw.smbusTake, hup, haddr, hpec]

omit hup in
theorem smbusTake_other (haddr : f.addr.toNat ≠ 0x5C + h.pwr.smbAddr.toNat) : h.smbusTake f g = h := by
  simp [Hw.smbusTake, haddr]

end

theorem smbusRead_reached {h : Hw} (h4 : h.link.smPtr.toNat % 4 = 0) (hon : h.pwr.railsOn = true)
    (hr : smbusReads h.link.smPtr.toNat = true) :
    h.smbusRead = { h with link := { h.link with
      smPtr := h.link.smPtr + 4, smStat := 0, smData := (h.bar0Read h.link.smPtr.toNat 4).setWidth 32 } } := by
  simp [Hw.smbusRead, Hw.mainOff, Hw.smbusDone, h4, hon, hr]

theorem smbusRead_railsOff {h : Hw} (h4 : h.link.smPtr.toNat % 4 = 0) (hoff : h.pwr.railsOn = false)
    (hw : wardenReach h.link.smPtr.toNat = false) :
    h.smbusRead = { h.takeFree.2 with link := { h.link with
      smPtr := h.link.smPtr + 4, smStat := 2, smData := h.takeFree.1.setWidth 32 } } := by
  simp [Hw.smbusRead, Hw.mainOff, Hw.smbusDone, Hw.takeFree, h4, hoff, hw]

theorem smbusWrite_beyond {h : Hw} (d : W32) (hon : h.pwr.railsOn = true) (hw : smbusWrites h.link.smPtr.toNat = false) :
    h.smbusWrite d = h.smbusDone 1 := by
  simp [Hw.smbusWrite, Hw.mainOff, hon, hw]

theorem smbusWrite_railsOff {h : Hw} (d : W32) (hoff : h.pwr.railsOn = false) (h4 : h.link.smPtr.toNat % 4 = 0)
    (hout : h.link.smPtr.toNat < 0x2000 ∨ 0x2800 ≤ h.link.smPtr.toNat) : h.smbusWrite d = h.smbusDone 2 := by
  have hrange : (decide (0x2000 ≤ h.link.smPtr.toNat) && decide (h.link.smPtr.toNat < 0x2800)) = false := by
    simp only [Bool.and_eq_false_iff, decide_eq_false_iff_not]
    omega
  simp only [Hw.smbusWrite, Hw.mainOff, hoff, h4, hrange]
  rfl

theorem smbusWrite_pwrCap {h : Hw} {d : W32} (hp : h.link.smPtr = 0x28) (hon : h.pwr.railsOn = true) (hd : d.toNat < 3) :
    h.smbusWrite d = (({ h with pwrCap := d }).latch (.pwrCap d)).smbusDone 0 := by
  have hword : (lowHalf (d.setWidth 64)).setWidth 32 = d := by
    rw [lowHalf, show d.setWidth 64 &&& 0xFFFFFFFF#64 = d.setWidth 64 from Settings.carried_lo_setWidth d]
    simp
  have hres : setsBits .lo (lowHalf (d.setWidth 64)) 0xFFFFFFFF00000000#64 = false := by
    refine Settings.setsBits_eq_false ?_
    rw [carried, partMask, BitVec.and_assoc]
    exact BitVec.and_zero
  have hbar0 : h.bar0Write 0x28 4 (d.setWidth 64) = h.pwrCapWrite d := by
    have hwrite : h.bar0Write 0x28 4 (d.setWidth 64) = h.lone 0x28 .lo (lowHalf (d.setWidth 64)) (fun a v => a.pwrCapWrite v) := rfl
    rw [hwrite, Hw.lone, hres, hword]
    rfl
  have hreach : h.smbusWrite d = (h.bar0Write 0x28 4 (d.setWidth 64)).smbusDone 0 := by
    simp [Hw.smbusWrite, Hw.mainOff, smbusWrites, hp, hon]
  rw [hreach, hbar0, PowerCap.pwrCapWrite_of_lt h hd]

/-- Settles O43: the address and the PEC decide whether a command acts, and the pointer and the rails what it reaches. -/
theorem smbusCommands : Obligations.SmbusCommands := by
  intro s p d f hup
  refine ⟨?_, ?_, ?_⟩
  · intro haddr hpec
    have take := fun g => smbusTake_good hup g haddr hpec
    refine ⟨?_, ?_, ?_, ?_, ?_, ?_, ?_⟩
    · simp only [exec, execSmbusSetPointer, take]
    · simp only [exec, execSmbusStatus, take]
    · intro h4 hon hr
      simp only [exec, execSmbusRead, take, smbusRead_reached h4 hon hr]
    · intro hp hon hd
      refine ⟨_, rfl, ?_⟩
      dsimp only
      rw [take, smbusWrite_pwrCap hp hon hd]
      refine ⟨rfl, rfl, ?_, rfl⟩
      change s.hw.link.smPtr + 4 = 0x2C
      rw [hp]
      rfl
    · intro hon hw
      simp only [exec, execSmbusWrite, take, smbusWrite_beyond d hon hw]
      rfl
    · intro hoff h4 hout
      simp only [exec, execSmbusWrite, take, smbusWrite_railsOff d hoff h4 hout]
      rfl
    · intro hoff h4 hw
      refine ⟨_, rfl, ?_⟩
      dsimp only
      rw [take, smbusRead_railsOff h4 hoff hw]
  · intro haddr hpec
    simp only [exec, execSmbusSetPointer, execSmbusWrite, execSmbusRead, execSmbusStatus, smbusTake_badPec hup _ haddr hpec, and_self]
  · intro haddr
    simp only [exec, execSmbusSetPointer, execSmbusWrite, execSmbusRead, execSmbusStatus, smbusTake_other _ haddr, and_self]

end Sys2Proof.Access
end

section
/-!
PROOF. Firmware: staging, activation, the live switch and the trial: O44, O45.
-/
namespace Sys2Proof.Firmware
open Sys2Proof.Machine

/-! ### The command word (R405) -/

/-- The block with the length that a command's upper half writes. -/
def withLength (h : Hw) (w : W64) : Hw := { h with sec := { h.sec with fwLength := BitVec.ofNat 32 (w.toNat / 2 ^ 32) } }

theorem bitsAt_kind (w : W64) : bitsAt w 3 2 = w.toNat / 8 % 4 := rfl

section
variable {h : Hw} {w : W64} (hres : w &&& 0x00000000FFFFFFE0#64 = 0) (hbusy : h.fwBusy = false)
include hres hbusy

theorem fwCommand_stage (hop : w.toNat % 8 = 1) :
    h.fwCommand .both w = (withLength h w).stageFw (w.toNat / 8 % 4) (w.toNat / 2 ^ 32) := by
  have hbusy' : ∀ n, ({ h with sec := { h.sec with fwLength := n } } : Hw).fwBusy = false := fun _ => hbusy
  simp [Hw.fwCommand, (MemorySetup.setsBits_both_eq_false_iff ..).mpr hres, Settings.bitsAt_zero, bitsAt_kind, hop, coversLo, hbusy',
    withLength]

theorem fwCommand_activate (hop : w.toNat % 8 = 2) : h.fwCommand .both w = (withLength h w).activate (w.toNat / 8 % 4) := by
  have hbusy' : ∀ n, ({ h with sec := { h.sec with fwLength := n } } : Hw).fwBusy = false := fun _ => hbusy
  simp [Hw.fwCommand, (MemorySetup.setsBits_both_eq_false_iff ..).mpr hres, Settings.bitsAt_zero, bitsAt_kind, hop, coversLo, hbusy',
    withLength]

theorem fwCommand_abandon (hop : w.toNat % 8 = 3) : h.fwCommand .both w = (withLength h w).abandonFw (w.toNat / 8 % 4) := by
  have hbusy' : ∀ n, ({ h with sec := { h.sec with fwLength := n } } : Hw).fwBusy = false := fun _ => hbusy
  simp [Hw.fwCommand, (MemorySetup.setsBits_both_eq_false_iff ..).mpr hres, Settings.bitsAt_zero, bitsAt_kind, hop, coversLo, hbusy',
    withLength]

end

/-! ### STAGE (R395, R405) -/

/-- The error of the object that a STAGE of `len` bytes finds in the window, 0 where it verifies. -/
def stageError (h : Hw) (k len : Nat) : Nat :=
  let o := readN h.sec.window 0 len
  let e := objError k h.sec.revoked (h.fwSlot k).floor o
  if e ≠ 0 then e else if leField o 0x10 4 + 1024 ≠ len then 0x06 else 0

/-- A refused STAGE leaves its error. -/
def stageRefused (h : Hw) (k e : Nat) : Hw :=
  h.setFw k { h.fwSlot k with err := BitVec.ofNat 8 e, update := if (h.fwSlot k).staged then 4 else 0 }

theorem stageFw_length {h : Hw} {k len : Nat} (hlen : len < 1024 ∨ 1024 + payloadLimit k < len) : h.stageFw k len = stageRefused h k 0x06 := by
  rw [Hw.stageFw]
  refine if_pos ?_
  simp only [Bool.or_eq_true, decide_eq_true_eq]
  exact hlen

theorem stageFw_fits {h : Hw} {k len : Nat} (hlo : 1024 ≤ len) (hhi : len ≤ 1024 + payloadLimit k) :
    h.stageFw k len =
      if stageError h k len ≠ 0 then stageRefused h k (stageError h k len)
      else
        let g := h.setFw k { (h.fwSlot k).setInactive [] false with staged := false, update := 2, err := 0 }
        { g with sec := { g.sec with pendingKind := some k, pendingObj := readN h.sec.window 0 len } } := by
  have hok : ¬ (decide (len < headerLen) || decide (headerLen + payloadLimit k < len)) = true := by
    simp only [Bool.or_eq_true, decide_eq_true_eq]
    exact not_or.2 ⟨Nat.not_lt.2 hlo, Nat.not_lt.2 hhi⟩
  rw [Hw.stageFw, if_neg hok, stageError]
  by_cases he : objError k h.sec.revoked (h.fwSlot k).floor (readN h.sec.window 0 len) = 0
  · by_cases hl : leField (readN h.sec.window 0 len) 0x10 4 + 1024 = len <;> simp [he, hl, headerLen, stageRefused]
  · simp [he, stageRefused]

/-- Settles O44: STAGE by its length and by the object's error, ABANDON and the end of a STAGE by the slot they write. -/
theorem firmwareStagingAndAbandon : Obligations.FirmwareStagingAndAbandon := by
  refine ⟨?_, ?_⟩
  · intro s w k ha hres hk hbusy
    refine ⟨?_, ?_, ?_⟩
    · intro hop hlo hhi
      refine ⟨_, rfl, ?_⟩
      dsimp only
      rw [Registers.whenAlive_of_alive ha, fwCommand_stage hres hbusy hop, hk, stageFw_fits hlo hhi]
      have hother : ∀ (x : FwSlot) (j : Nat), j ≠ k → ((withLength s.hw w).setFw k x).fwSlot j = s.hw.fwSlot j := by
        intro x j hj
        rw [Hw.fwSlot_setFw, if_neg (Ne.symm hj)]
        rfl
      by_cases he : stageError (withLength s.hw w) k (w.toNat / 2 ^ 32) = 0
      · rw [if_neg (not_not.2 he)]
        refine ⟨fun hne => absurd he hne, fun _ => ⟨rfl, rfl, ?_⟩, rfl, hother _⟩
        exact (Hw.fwSlot_setFw ..).trans (if_pos rfl)
      · rw [if_pos he]
        exact ⟨fun _ => rfl, fun h0 => absurd h0 he, rfl, hother _⟩
    · intro hop hlen
      simp only [exec, execFwStage, Registers.whenAlive_of_alive ha, fwCommand_stage hres hbusy hop, hk, stageFw_length hlen]
      rfl
    · intro hop
      simp only [exec, execFwAbandon, Registers.whenAlive_of_alive ha, fwCommand_abandon hres hbusy hop, hk]
      rfl
  · intro s k hp
    simp only [exec, execFwStageComplete, Hw.stageEnds, hp]
    exact ⟨rfl, rfl⟩

/-! ### The boot record (R390) -/

/-- The record that a save writes. -/
def savedRecord (h : Hw) : FwRecord :=
  { counter := (match h.sec.record with | some c => c.counter | none => 0) + 1
    active := (List.range 4).map (fun k => (h.fwSlot k).activeB), trial := (List.range 4).map (fun k => (h.fwSlot k).trial), sound := true }

theorem saveRecord_eq (h : Hw) : h.saveRecord =
    { h with sec := if h.sec.record == some h.sec.recA then { h.sec with recB := savedRecord h } else { h.sec with recA := savedRecord h } } := rfl

/-- A saved record is in force: its copy is sound and counts above the other. -/
theorem saveRecord_record (h : Hw) : h.saveRecord.sec.record = some (savedRecord h) := by
  rw [saveRecord_eq]
  have hcount : ∀ c, h.sec.record = some c → (savedRecord h).counter = c.counter + 1 := fun c hc => by simp [savedRecord, hc]
  have hsound : (savedRecord h).sound = true := rfl
  generalize savedRecord h = r at hcount hsound ⊢
  dsimp only
  split
  · next heq =>
    have hc := hcount h.sec.recA (by simpa using heq)
    cases hA : h.sec.recA.sound <;> simp [Security.record, hA, hsound, hc]
  · next hne =>
    cases hA : h.sec.recA.sound <;> cases hB : h.sec.recB.sound
    · simp [Security.record, hB, hsound]
    · have hc := hcount h.sec.recB (by simp [Security.record, hA, hB])
      simp [Security.record, hB, hsound, hc]
    · simp [Security.record, hB, hsound]
    · have hne' := hne
      simp only [Security.record, hA, hB, beq_iff_eq, Option.some.injEq] at hne'
      by_cases hlt : h.sec.recA.counter < h.sec.recB.counter
      · have hc := hcount h.sec.recB (by simp [Security.record, hA, hB, hlt])
        simp [Security.record, hB, hsound, hc]
      · exact absurd (if_neg hlt) hne'

theorem fwSlot_saveRecord (h : Hw) (k : Nat) : h.saveRecord.fwSlot k = h.fwSlot k := by
  rw [saveRecord_eq]
  simp only [Hw.fwSlot]
  split <;> rfl

theorem nth_savedRecord_active (h : Hw) {k : Nat} (hk : k < 4) : nth false (savedRecord h).active k = (h.fwSlot k).activeB := by
  simp [nth, savedRecord, hk]

theorem nth_savedRecord_trial (h : Hw) {k : Nat} (hk : k < 4) : nth false (savedRecord h).trial k = (h.fwSlot k).trial := by
  simp [nth, savedRecord, hk]

/-- A save changes the two copies of the record alone. -/
theorem saveRecord_frame (h : Hw) :
    h.saveRecord = { h with sec := { h.sec with recA := h.saveRecord.sec.recA, recB := h.saveRecord.sec.recB } } := by
  rw [saveRecord_eq]
  dsimp only
  split <;> rfl

/-! ### The end of a trial (R387, R396) -/

theorem trialEnds_passed {h : Hw} {k : Nat} (hb : h.pwr.booted = true) (ht : (h.fwSlot k).trial = true)
    (hdue : 65536 ≤ (h.fwSlot k).trialTicks ∨ h.ex.running = false) :
    h.trialEnds k = (h.setFw k { h.fwSlot k with
      trial := false, trialTicks := 0
      floor := BitVec.ofNat 32 (max (h.fwSlot k).floor.toNat (objSecurity (h.fwSlot k).active)) }).saveRecord := by
  rw [Hw.trialEnds]
  exact if_pos (by simpa [hb, ht] using hdue)

/-! ### ACTIVATE (R396, R397, R405) -/

theorem activate_of_error {h : Hw} {k e : Nat} (he : h.activateError k = e + 1) :
    h.activate k = h.setFw k { h.fwSlot k with err := BitVec.ofNat 8 (e + 1) } := by
  simp only [Hw.activate, he]

theorem activateError_unstaged {h : Hw} {k : Nat} (hs : (h.fwSlot k).staged = false) : h.activateError k = 0x0B := by
  rw [Hw.activateError, hs]
  rfl

theorem activateError_blob {h : Hw} (hs : (h.fwSlot 3).staged = true) : h.activateError 3 = if h.ex.running then 0x09 else 0 := by
  rw [Hw.activateError, hs]
  rfl

theorem activateError_warden {h : Hw} (hs : (h.fwSlot 1).staged = true) (hr : h.ex.running = false) (hrow : (h.stagedRow 1).isSome = true) :
    h.activateError 1 = 0 := by
  obtain ⟨r, hr'⟩ := Option.isSome_iff_exists.1 hrow
  simp [Hw.activateError, hs, hr, hr']

theorem activate_blob {h : Hw} (hs : (h.fwSlot 3).staged = true) (hr : h.ex.running = false) : h.activate 3 = h.installBlob := by
  rw [Hw.activate, activateError_blob hs, hr]
  rfl

theorem activate_warden {h : Hw} (hs : (h.fwSlot 1).staged = true) (hr : h.ex.running = false) (hon : h.war.on = true)
    (hrow : (h.stagedRow 1).isSome = true) :
    h.activate 1 =
      let g := h.setFw 1 { h.fwSlot 1 with update := 5, err := 0 }
      { g with sec := { g.sec with live := some (1, h.ex.tick) } } := by
  rw [Hw.activate, activateError_warden hs hr hrow]
  simp [hr, hon, Hw.copyStandby]

theorem fwSlot_takeStaged (h : Hw) (k : Nat) (trial : Bool) (j : Nat) :
    (h.takeStaged k trial).fwSlot j = if k = j then { h.fwSlot k with
      activeB := !(h.fwSlot k).activeB, staged := false, update := 0, err := 0, trial := trial, trialTicks := 0 } else h.fwSlot j := by
  rw [Hw.takeStaged, fwSlot_saveRecord, Hw.fwSlot_setFw]

/-- The slots after a staged object of kind `k` + 1 has become the active one. -/
def stagedTaken (h : Hw) (k : Nat) (trial : Bool) : Table FwSlot := tput FwSlot.reset h.sec.fw k { h.fwSlot k with
  activeB := !(h.fwSlot k).activeB, staged := false, update := 0, err := 0, trial := trial, trialTicks := 0 }

theorem takeStaged_frame (h : Hw) (k : Nat) (trial : Bool) : ∃ a b, h.takeStaged k trial =
    { h with sec := { h.sec with fw := stagedTaken h k trial, recA := a, recB := b } } :=
  ⟨_, _, saveRecord_frame _⟩

/-! ### The live switch (R397, R400) -/

theorem liveSwitch_before {h : Hw} {k : Nat} {n : W64} (hl : h.sec.live = some (k, n)) (hr : h.ex.running = true) (hn : h.ex.tick < n) :
    h.liveSwitch = h := by
  have hlt : ¬ n ≤ h.ex.tick := BitVec.not_le.2 hn
  simp [Hw.liveSwitch, hl, hr, hlt]

theorem liveSwitch_due {h : Hw} {k : Nat} {n : W64} (hb : h.pwr.booted = true) (hl : h.sec.live = some (k, n)) (hn : n ≤ h.ex.tick) :
    h.liveSwitch = h.install k := by
  simp [Hw.liveSwitch, hl, hb, hn]

theorem relist_eq (h : Hw) : h.relist =
    { h with sec := { h.sec with listed := h.currentRow.isSome, abi := (h.currentRow.map CompatRow.abi).getD 0 } } := by
  unfold Hw.relist
  split <;> next hc => rw [hc]; rfl

/-- The combination that runs depends on the slots alone. -/
theorem currentRow_congr {g g' : Hw} (he : g.sec.fw = g'.sec.fw) : g.currentRow = g'.currentRow := by
  simp only [Hw.currentRow, Hw.running?, Hw.fwSlot, he]

/-- A switch's slots are set and COMPAT_VEC follows. -/
def relisted (h : Hw) (k : Nat) : Hw :=
  ((h.takeStaged k true).setFw k { (h.takeStaged k true).fwSlot k with runs := some (h.fwSlot k).inactive }).relist

/-- Then M6 is extended. -/
def measured (h : Hw) (k : Nat) : Hw :=
  (relisted h k).extend 6 (k + 1) (objVersion (h.fwSlot k).inactive) (signedHash (h.fwSlot k).inactive)

/-- Then the Sequencer runs from the other half of control SRAM, or the Warden runs, and no switch is planned any more: what a
switch installs while the executive runs. -/
def switched (h : Hw) (k : Nat) : Hw :=
  let g := if k = 0 then { measured h k with sec := { (measured h k).sec with ctlHigh := !(measured h k).sec.ctlHigh } }
           else { measured h k with war := { (measured h k).war with on := true } }
  { g with sec := { g.sec with live := none } }

theorem relisted_frame (h : Hw) (k : Nat) : (relisted h k).ex = h.ex ∧ (relisted h k).sec.meas = h.sec.meas
    ∧ (relisted h k).sec.ctlHigh = h.sec.ctlHigh ∧ (relisted h k).sec.listed = (relisted h k).currentRow.isSome := by
  obtain ⟨a, b, e⟩ := takeStaged_frame h k true
  rw [relisted, relist_eq]
  refine ⟨?_, ?_, ?_, congrArg Option.isSome (currentRow_congr rfl)⟩ <;> rw [e] <;> rfl

theorem fw_relisted (h : Hw) (k : Nat) : (relisted h k).sec.fw =
    ((h.takeStaged k true).setFw k { (h.takeStaged k true).fwSlot k with runs := some (h.fwSlot k).inactive }).sec.fw := by
  rw [relisted, relist_eq]

theorem switched_sec (h : Hw) (k : Nat) : (switched h k).sec =
    { (measured h k).sec with live := none, ctlHigh := if k = 0 then !(measured h k).sec.ctlHigh else (measured h k).sec.ctlHigh } := by
  unfold switched
  split <;> next hk => simp [hk]

theorem switched_ex (h : Hw) (k : Nat) : (switched h k).ex = h.ex := by
  refine Eq.trans ?_ (relisted_frame h k).1
  unfold switched
  split <;> rfl

theorem switched_meas (h : Hw) (k : Nat) : (switched h k).sec.meas = tput (0 : Hash) h.sec.meas 6
    (sha512 (hashBytes (tget (0 : Hash) h.sec.meas 6) ++ hashBytes (signedHash (h.fwSlot k).inactive))) := by
  rw [switched_sec, ← (relisted_frame h k).2.1]
  rfl

theorem switched_ctlHigh (h : Hw) (k : Nat) : (switched h k).sec.ctlHigh = if k = 0 then !h.sec.ctlHigh else h.sec.ctlHigh := by
  rw [switched_sec, ← (relisted_frame h k).2.2.1]
  rfl

theorem switched_listed (h : Hw) (k : Nat) : (switched h k).sec.listed = (switched h k).currentRow.isSome := by
  have hfw : (switched h k).sec.fw = (relisted h k).sec.fw := by
    rw [switched_sec]
    rfl
  rw [currentRow_congr hfw, ← (relisted_frame h k).2.2.2, switched_sec]
  rfl

theorem switched_warden (h : Hw) : (switched h 1).war.on = true := rfl

theorem install_running {h : Hw} {k : Nat} (hr : h.ex.running = true) : h.install k = switched h k := by
  have hrun : (switched h k).ex.running = true := by rw [switched_ex, hr]
  exact if_pos hrun

theorem fwSlot_switched (h : Hw) (k j : Nat) : (switched h k).fwSlot j = if k = j then { h.fwSlot k with
      activeB := !(h.fwSlot k).activeB, staged := false, update := 0, err := 0, trial := true, trialTicks := 0
      runs := some (h.fwSlot k).inactive } else h.fwSlot j := by
  have hfw : (switched h k).sec.fw = (relisted h k).sec.fw := by
    rw [switched_sec]
    rfl
  rw [Hw.fwSlot, hfw, fw_relisted]
  refine (Hw.fwSlot_setFw ..).trans ?_
  by_cases hj : k = j <;> simp [hj, fwSlot_takeStaged]

/-! ### The activation of a blob (R387, R396) -/

/-- A blob's activation changes its slot and the boot record. -/
theorem installBlob_slot (h : Hw) (j : Nat) : h.installBlob.fwSlot j = if 3 = j then { h.fwSlot 3 with
      activeB := !(h.fwSlot 3).activeB, staged := false, update := 0, err := 0, trial := false, trialTicks := 0
      floor := BitVec.ofNat 32 (max (h.fwSlot 3).floor.toNat (objSecurity (h.fwSlot 3).inactive)) } else h.fwSlot j := by
  rw [Hw.installBlob]
  refine (Hw.fwSlot_setFw ..).trans ?_
  by_cases hj : 3 = j <;> simp [hj, fwSlot_takeStaged]

theorem installBlob_record (h : Hw) : h.installBlob.sec.record.map (fun r => nth false r.active 3) = some (!(h.fwSlot 3).activeB) := by
  have hrec : h.installBlob.sec.record = (h.takeStaged 3 false).sec.record := rfl
  rw [hrec, Hw.takeStaged, saveRecord_record, Option.map_some, nth_savedRecord_active _ (by decide), Hw.fwSlot_setFw, if_pos rfl]

theorem installBlob_keeps (h : Hw) : h.installBlob.sec.meas = h.sec.meas ∧ h.installBlob.ex = h.ex := by
  obtain ⟨a, b, e⟩ := takeStaged_frame h 3 false
  rw [Hw.installBlob, e]
  exact ⟨rfl, rfl⟩

/-- Settles O45: each outcome of ACTIVATE, the planned switch at its boundary, and the end of a trial, slot by slot. -/
theorem firmwareActivation : Obligations.FirmwareActivation := by
  refine ⟨?_, ?_, ?_⟩
  · intro s w k ha hres hop hk hbusy
    have hexec : exec (.fwActivate w) s = .next { s with hw := (withLength s.hw w).activate k } := by
      simp only [exec, execFwActivate, Registers.whenAlive_of_alive ha, fwCommand_activate hres hbusy hop, hk]
    refine ⟨?_, ?_, ?_, ?_⟩
    · intro hs
      rw [hexec, activate_of_error (h := withLength s.hw w) (activateError_unstaged hs)]
      rfl
    · rintro hs rfl hr
      have he : (withLength s.hw w).activateError 3 = 0x09 := (activateError_blob hs).trans (if_pos hr)
      rw [hexec, activate_of_error he]
      rfl
    · rintro hs rfl hr
      rw [activate_blob (h := withLength s.hw w) hs hr] at hexec
      refine ⟨_, _, hexec, installBlob_slot _ _, rfl, rfl, rfl, rfl, rfl, rfl, installBlob_record _, ?_, installBlob_keeps _⟩
      intro j hj
      exact (installBlob_slot ..).trans (if_neg (Ne.symm hj))
    · rintro hs rfl hr hon hrow
      rw [hexec, activate_warden (h := withLength s.hw w) hs hr hon hrow]
      rfl
  · intro s k n hb hl hr
    refine ⟨?_, ?_⟩
    · intro hn
      simp only [exec, execFwLiveSwitch, liveSwitch_before hl hr hn]
    · intro hn
      refine ⟨_, rfl, ?_⟩
      dsimp only
      rw [liveSwitch_due hb hl hn, install_running hr]
      simp only [fwSlot_switched, if_true, switched_meas]
      refine ⟨trivial, trivial, trivial, by rw [switched_sec], switched_ctlHigh _ _, ?_, switched_listed _ _, ?_, ?_, ?_, switched_ex _ _⟩
      · rintro rfl
        exact switched_warden _
      · intro j hj
        rw [if_neg (Ne.symm hj)]
      · rw [tget_tput_same]
      · intro j hj
        rw [tget_tput_ne _ _ _ (Ne.symm hj)]
  · intro s k hb ht hdue
    refine ⟨_, rfl, ?_⟩
    dsimp only
    rw [trialEnds_passed hb ht hdue]
    refine ⟨?_, ?_, ?_, ?_⟩
    · rw [fwSlot_saveRecord, Hw.fwSlot_setFw, if_pos rfl]
    · intro j hj
      rw [fwSlot_saveRecord, Hw.fwSlot_setFw, if_neg (Ne.symm hj)]
    · rw [saveRecord_record, Option.map_some, nth_savedRecord_active _ k.isLt, nth_savedRecord_trial _ k.isLt, Hw.fwSlot_setFw, if_pos rfl]
    · rw [saveRecord_frame]
      rfl

end Sys2Proof.Firmware
end

section
/-!
PROOF. The boot phases: O48.
-/
namespace Sys2Proof.Boot
open Sys2Proof.Machine

/-! ### What the parts of a boot leave alone -/

/-- The block with its slots and the two copies of the boot record taken out. -/
def unslotted (h : Hw) : Hw := { h with sec := { h.sec with fw := [], recA := Hw.reset.sec.recA, recB := Hw.reset.sec.recB } }

@[simp] theorem unslotted_setFw (h : Hw) (k : Nat) (x : FwSlot) : unslotted (h.setFw k x) = unslotted h := rfl

@[simp] theorem unslotted_saveRecord (h : Hw) : unslotted h.saveRecord = unslotted h := by
  rw [Firmware.saveRecord_frame]
  rfl

@[simp] theorem unslotted_bootKind (h : Hw) (k : Nat) : unslotted (h.bootKind k) = unslotted h := by
  simp only [Hw.bootKind]
  (repeat' split) <;> simp

@[simp] theorem unslotted_loadRecord (h : Hw) : unslotted h.loadRecord = unslotted h := by
  unfold Hw.loadRecord
  split
  · rfl
  · refine foldl_keeps unslotted _ ?_ _ _
    exact fun _ _ => rfl

/-- A block that agrees with another but for slots and boot record is that block with those put in. -/
theorem eq_of_unslotted_eq {g h : Hw} (e : unslotted g = unslotted h) :
    g = { h with sec := { h.sec with fw := g.sec.fw, recA := g.sec.recA, recB := g.sec.recB } } := by
  cases g with | mk
  rename_i gsec _ _
  cases h with | mk
  rename_i hsec _ _
  cases gsec
  cases hsec
  simp only [unslotted, Hw.mk.injEq, Security.mk.injEq] at e ⊢
  simp [e]

theorem bootKind_eq (h : Hw) (k : Nat) :
    ∃ t a b, h.bootKind k = { h with sec := { h.sec with fw := t, recA := a, recB := b } } :=
  ⟨_, _, _, eq_of_unslotted_eq (unslotted_bootKind h k)⟩

/-! ### Phase W (R388) -/

theorem phaseW_again {h : Hw} (hd : h.pwr.wDone = true) : h.phaseW = h := by simp [Hw.phaseW, hd]

/-- The slots as phase W verifies them. -/
def verifiedW (h : Hw) : Hw := ((h.auxRises.loadRecord.bootKind 2).bootKind 3).bootKind 1

theorem verifiedW_eq (h : Hw) : ∃ t a b, verifiedW h =
    { h.auxRises with sec := { h.auxRises.sec with fw := t, recA := a, recB := b } } := by
  refine ⟨_, _, _, eq_of_unslotted_eq ?_⟩
  simp [verifiedW]

/-- The objects of phase W verify, and the table names the Warden. -/
def startsWarden (h : Hw) : Bool :=
  match (verifiedW h).running? 2, (verifiedW h).running? 3, (verifiedW h).running? 1 with
  | some t, some _, some w => namesWarden (objPayload t) (objVersion w)
  | _, _, _ => false

theorem phaseW_runs {h : Hw} (hd : h.pwr.wDone = false) (hk : h.pwr.refclk = .running) : ∃ policy fw hashes,
    h.phaseW = { verifiedW h with
      pwr := { (verifiedW h).pwr with wDone := true }
      war := { Warden.reset with on := startsWarden h, policy := policy, policyNow := policy }
      sec := { (verifiedW h).sec with fw := fw, wFailed := !startsWarden h, wHashes := hashes } } := by
  rw [Hw.phaseW, if_neg (by simp [hd, hk])]
  exact ⟨_, _, _, rfl⟩

/-! ### Phase M (R389, R400) -/

/-- What the measurements and the copy of the Sequencer leave alone and a boot's outcome reads. -/
def bootPart (h : Hw) : Power × Warden × Exec × Table FwSlot × (Bool × Bool × Nat) × Nat :=
  (h.pwr, h.war, h.ex, h.sec.fw, (h.sec.listed, h.sec.wFailed, h.sec.boots), h.mem.zq)

@[simp] theorem bootPart_extend (h : Hw) (i kind : Nat) (version : W32) (v : Hash) : bootPart (h.extend i kind version v) = bootPart h := rfl

@[simp] theorem bootPart_extendObject (h : Hw) (reg k : Nat) : bootPart (h.extendObject reg k) = bootPart h := by
  unfold Hw.extendObject
  split <;> rfl

@[simp] theorem bootPart_extendWarden (h : Hw) : bootPart h.extendWarden = bootPart h := by
  unfold Hw.extendWarden
  split <;> rfl

@[simp] theorem bootPart_measureBoot (h : Hw) : bootPart h.measureBoot = bootPart h := by
  simp only [Hw.measureBoot, bootPart_extendObject, bootPart_extendWarden, bootPart_extend]
  rfl

@[simp] theorem bootPart_copySequencer (h : Hw) : bootPart h.copySequencer = bootPart h := by
  unfold Hw.copySequencer
  split <;> rfl

theorem meas_extend_ne (h : Hw) {i k : Nat} (kind : Nat) (version : W32) (v : Hash) (hk : i ≠ k) :
    tget (0 : Hash) (h.extend i kind version v).sec.meas k = tget (0 : Hash) h.sec.meas k := tget_tput_ne _ _ _ hk

theorem meas_extendObject_ne (h : Hw) {i k : Nat} (o : Nat) (hk : i ≠ k) :
    tget (0 : Hash) (h.extendObject i o).sec.meas k = tget (0 : Hash) h.sec.meas k := by
  unfold Hw.extendObject
  split
  · exact meas_extend_ne h _ _ _ hk
  · rfl

theorem meas_extendWarden_ne (h : Hw) {k : Nat} (hk : 3 ≠ k) :
    tget (0 : Hash) h.extendWarden.sec.meas k = tget (0 : Hash) h.sec.meas k := by
  unfold Hw.extendWarden
  split
  · exact meas_extend_ne h _ _ _ hk
  · rfl

/-- The measurements of a boot touch M0 to M4; with an empty table, the registers above them are zero. -/
theorem meas_measureBoot {h : Hw} (hm : h.sec.meas = []) {k : Nat} (hk : 5 ≤ k) : tget (0 : Hash) h.measureBoot.sec.meas k = 0 := by
  simp only [Hw.measureBoot]
  rw [meas_extendObject_ne _ _ (by omega), meas_extendWarden_ne _ (by omega), meas_extendObject_ne _ _ (by omega),
    meas_extendObject_ne _ _ (by omega), meas_extend_ne _ _ _ _ (by omega), meas_extend_ne _ _ _ _ (by omega)]
  simp [hm]

theorem meas_copySequencer (h : Hw) : h.copySequencer.sec.meas = h.sec.meas := by
  unfold Hw.copySequencer
  split <;> rfl

/-- The block of a boot with its Sequencer verified, measured and copied, and both memories initialised. -/
def bootedM3 (h : Hw) (f : Option (Nat × Nat)) : Hw := ((h.bootKind 0).relist.measureBoot.copySequencer).initMemories f

/-- The device state that a boot ends in. -/
def bootMode (h : Hw) : DevMode :=
  if h.war.safe || h.war.stuckSafe then .safe else if h.sec.listed && h.sequencerOn && !h.sec.wFailed then .ready else .holding

theorem raise_frame (h : Hw) (v : Nat) : ∃ r, h.raise v = { h with link := { h.link with raise := r } } := by
  unfold Hw.raise
  split
  · exact ⟨_, rfl⟩
  · exact ⟨_, rfl⟩

/-- An entry changes the log and the vectors to raise. -/
theorem note_frame (h : Hw) (e : LogEntry) : ∃ l r, h.note e = { h with log := l, link := { h.link with raise := r } } := by
  simp only [Hw.note]
  split
  · obtain ⟨r, hr⟩ := raise_frame { h with log := { h.log with pending := h.log.pending ++ [{ e with epoch := h.epoch }] } } 511
    exact ⟨_, _, hr⟩
  · obtain ⟨r, hr⟩ := raise_frame { h with log := appendLog h.log { e with epoch := h.epoch } } 511
    exact ⟨_, _, hr⟩

/-- The end of a boot: a failed channel is recorded, and the outcome becomes the device state. -/
def finishBoot (old : DevMode) (f : Option (Nat × Nat)) (h : Hw) : Hw :=
  let h := match f with
    | some (c, k) => h.note (entry 0x0011 2 0 { kind := .farChannel, index := c } c k)
    | none => h
  ({ h with ex := { h.ex with mode := bootMode h } }).note (entry 0x0070 (if bootMode h == DevMode.safe then 3 else 0) 0 moduleUnit
    old.code (bootMode h).code (Config.causeCode 0x0389).toNat)

theorem bootFromM3_eq_finishBoot (h : Hw) (f : Option (Nat × Nat)) : h.bootFromM3 f = finishBoot h.ex.mode f (bootedM3 h f) := by
  unfold Hw.bootFromM3 finishBoot bootedM3 bootMode
  rfl

theorem finishBoot_eq (old : DevMode) (f : Option (Nat × Nat)) (h : Hw) : ∃ l r,
    finishBoot old f h = { h with ex := { h.ex with mode := bootMode h }, log := l, link := { h.link with raise := r } } := by
  cases f with
  | none => exact note_frame { h with ex := { h.ex with mode := bootMode h } } _
  | some c =>
    obtain ⟨l₁, r₁, e₁⟩ := note_frame h (entry 0x0011 2 0 { kind := .farChannel, index := c.1 } c.1 c.2)
    simp only [finishBoot, e₁]
    exact note_frame { h with ex := { h.ex with mode := bootMode h }, log := l₁, link := { h.link with raise := r₁ } } _

theorem bootedM3_part (h : Hw) (f : Option (Nat × Nat)) : ∃ g : Hw, bootedM3 h f = g.initMemories f
    ∧ bootPart g = bootPart (h.bootKind 0).relist ∧ g.sec.meas = (h.bootKind 0).relist.measureBoot.sec.meas :=
  ⟨_, rfl, by simp, meas_copySequencer _⟩

/-- What a boot from M3 leaves: the parts of the state that it started from, and its own outcome. -/
theorem bootFromM3_spec (h : Hw) (f : Option (Nat × Nat)) (hm : h.sec.meas = []) :
    (h.bootFromM3 f).pwr = h.pwr ∧ (h.bootFromM3 f).war = h.war ∧ (h.bootFromM3 f).sec.boots = h.sec.boots
    ∧ (h.bootFromM3 f).mem.trainFail = f ∧ (h.bootFromM3 f).mem.trained = f.isNone ∧ (h.bootFromM3 f).mem.zq = h.mem.zq + 1
    ∧ (h.bootFromM3 f).ex.mode = (if h.war.safe || h.war.stuckSafe then .safe
        else if (h.bootFromM3 f).currentRow.isSome && (h.bootFromM3 f).sequencerOn && !h.sec.wFailed then .ready else .holding)
    ∧ ∀ k, 5 ≤ k → tget (0 : Hash) (h.bootFromM3 f).sec.meas k = 0 := by
  obtain ⟨l, r, e⟩ := finishBoot_eq h.ex.mode f (bootedM3 h f)
  rw [← bootFromM3_eq_finishBoot] at e
  obtain ⟨t, a, b, eb⟩ := bootKind_eq h 0
  obtain ⟨g, eg, hpart, hmeas⟩ := bootedM3_part h f
  have hstart : (h.bootKind 0).relist.sec.meas = [] := by rw [Firmware.relist_eq, eb]; exact hm
  have hzero : ∀ k, 5 ≤ k → tget (0 : Hash) g.sec.meas k = 0 := by
    intro k hk
    rw [hmeas, meas_measureBoot hstart hk]
  rw [Firmware.relist_eq] at hpart
  simp only [bootPart, Prod.mk.injEq] at hpart
  obtain ⟨hpwr, hwar, -, hfw, ⟨hlisted, hfailed, hboots⟩, hzq⟩ := hpart
  have hrow : g.sec.listed = g.currentRow.isSome := hlisted.trans (congrArg Option.isSome (Firmware.currentRow_congr hfw).symm)
  rw [eb] at hpwr hwar hfailed hboots hzq
  rw [eg] at e
  rw [e]
  refine ⟨hpwr, hwar, hboots, rfl, rfl, congrArg (· + 1) hzq, ?_, hzero⟩
  change bootMode g = if h.war.safe || h.war.stuckSafe then .safe
    else if g.currentRow.isSome && g.sequencerOn && !h.sec.wFailed then .ready else .holding
  rw [bootMode, hwar, hrow, hfailed]

/-- The function's clocks and power state at the start of phase M, with no measurement made. -/
def powered (h : Hw) : Hw :=
  { h with pwr := { h.pwr with perst := false, booted := true, pllsLocked := true, masterBclk := true, dstate := .d0 }
           sec := { h.sec with meas := [], mlog := [], mseq := 0, mover := false }
           war := { h.war with wake := false } }

/-- Phase M before its step M3: then the secrets, the boot record and the blob's slot. -/
def phaseMStart (h : Hw) : Hw := (powered h).unseal.loadRecord.bootKind 3

theorem phaseM_runs {h : Hw} {f : Option (Nat × Nat)} (hr : h.pwr.railsOn = true) (hg : h.pwr.pgood = true) (hb : h.pwr.booted = false)
    (hk : h.pwr.refclk = .running) (hf : ∀ e, f = some e → e.1 < 48) : h.phaseM f = (phaseMStart h).bootFromM3 f := by
  have hfilter : f.filter (fun e => decide (e.1 < 48)) = f := by
    cases f with
    | none => rfl
    | some e => exact Option.filter_eq_some_iff.2 ⟨rfl, by simpa using hf e rfl⟩
  rw [Hw.phaseM, if_neg (by simp [hr, hg, hb, hk]), hfilter]
  rfl

theorem phaseMStart_eq (h : Hw) : ∃ t a b, phaseMStart h =
    { (powered h).unseal with sec := { (powered h).unseal.sec with fw := t, recA := a, recB := b } } := by
  refine ⟨_, _, _, eq_of_unslotted_eq ?_⟩
  simp [phaseMStart]

/-- Settles O48: phase W sets what the Warden starts with; phase M is a boot from M3 after its first steps. -/
theorem bootPhases : Obligations.BootPhases := by
  refine ⟨?_, ?_, ?_⟩
  · intro s hd
    simp [exec, execPhaseW, phaseW_again hd]
  · intro s hd hk
    refine ⟨_, rfl, ?_⟩
    dsimp only
    obtain ⟨policy, fw, hashes, e⟩ := phaseW_runs hd hk
    obtain ⟨t, a, b, ev⟩ := verifiedW_eq s.hw
    rw [e, ev, Supply.auxRises_eq]
    exact ⟨rfl, rfl, (Bool.not_not _).symm, rfl, rfl, rfl, rfl⟩
  · intro s f hr hg hb hk hf
    refine ⟨_, rfl, ?_⟩
    dsimp only
    rw [phaseM_runs hr hg hb hk hf]
    obtain ⟨t, a, b, e⟩ := phaseMStart_eq s.hw
    have hm : (phaseMStart s.hw).sec.meas = [] := by rw [e]; rfl
    obtain ⟨hpwr, hwar, hboots, hfail, htrained, hzq, hmode, hmeas⟩ := bootFromM3_spec (phaseMStart s.hw) f hm
    have hstart : (phaseMStart s.hw).pwr = (powered s.hw).pwr ∧ (phaseMStart s.hw).war = (powered s.hw).war
        ∧ (phaseMStart s.hw).sec.wFailed = s.hw.sec.wFailed ∧ (phaseMStart s.hw).sec.boots = s.hw.sec.boots + 1
        ∧ (phaseMStart s.hw).mem.zq = s.hw.mem.zq := by
      rw [e]
      exact ⟨rfl, rfl, rfl, rfl, rfl⟩
    obtain ⟨hpwr', hwar', hfailed', hboots', hzq'⟩ := hstart
    generalize hfinal : (phaseMStart s.hw).bootFromM3 f = g at *
    rw [hwar', hfailed'] at hmode
    have hawake : g.ex.mode ≠ .asleep := by
      rw [hmode]
      split_ifs <;> decide
    refine ⟨?_, hfail, htrained, by rw [hzq, hzq'], hmode, hmeas, by rw [hboots, hboots'], by rw [hwar, hwar']; rfl⟩
    rw [Hw.alive, hpwr, hpwr', bne_iff_ne.2 hawake]
    simp [powered, hr]

end Sys2Proof.Boot
end

section
/-!
PROOF. The link, its tag space and its messages: O47.
-/
namespace Sys2Proof.Link
open Sys2Proof.Machine

/-! ### The tag pool (R244, R422) -/

/-- The block with a change of the tag space. -/
def withTags (h : Hw) (g : BitVec 2) : Hw := { h with link := { h.link with tags := g } }

theorem tagChange_eq {h : Hw} {g : BitVec 2} (hb : h.pwr.booted = true) (hg : g ≠ 3) :
    h.tagChange g =
      (if (withTags h g).ordinaryPool < h.ordinaryPool && decide ((withTags h g).ordinaryPool < (withTags h g).creditSum) then
        (withTags h g).refused 0x18 else withTags h g).issueReads := by
  rw [Hw.tagChange, if_neg (by simpa [hb] using hg)]
  rfl

/-! ### Pending messages (R242) -/

/-- The entry waits with a message that nothing holds back. -/
def sendable (h : Hw) (e : Nat × MsixEntry) : Bool := e.2.pending && !e.2.masked && h.link.msixOn && !h.link.funcMask

/-- One message is sent. -/
def sendOne (h : Hw) (e : Nat × MsixEntry) : Hw :=
  ({ h with msix := tput MsixEntry.reset h.msix e.1 { e.2 with pending := false } }).post (.msix e.1 e.2.addr e.2.data)

theorem sendPending_eq (h : Hw) : h.sendPending = (h.msix.filter (sendable h)).foldl sendOne h := rfl

theorem sendPending_none {h : Hw} (hn : ∀ e ∈ h.msix, sendable h e = false) : h.sendPending = h := by
  rw [sendPending_eq, List.filter_eq_nil_iff.2 (fun e he => by simp [hn e he])]
  rfl

/-- The block with its MSI-X entries and the writes posted to the host taken out. -/
def unsent (h : Hw) : Hw := { h with msix := [], link := { h.link with posted := [] } }

@[simp] theorem unsent_sendOne (h : Hw) (e : Nat × MsixEntry) : unsent (sendOne h e) = unsent h := by
  unfold sendOne Hw.post
  split <;> rfl

theorem unsent_sendPending (h : Hw) : unsent h.sendPending = unsent h := foldl_keeps unsent _ unsent_sendOne _ _

/-- Of the entries after one was put, those that satisfy a property that no other entry has: the one. -/
theorem filter_tins {α : Type} (p : Nat × α → Bool) {t : Table α} {k : Nat} {v : α} (ht : ∀ e ∈ t, p e = false) (hv : p (k, v) = true) :
    (tins t k v).filter p = [(k, v)] := by
  induction t with
  | nil => simp [tins, hv]
  | cons a r ih =>
    have hr := ih (fun e he => ht e (List.mem_cons_of_mem _ he))
    have ha := ht a List.mem_cons_self
    have hnil : r.filter p = [] := List.filter_eq_nil_iff.2 (fun e he => by simp [ht e (List.mem_cons_of_mem _ he)])
    obtain ⟨i, w⟩ := a
    rw [tins]
    split
    · simp [hv, ha, hnil]
    · simp [ha, hr]

theorem filter_tput {α : Type} [DecidableEq α] (p : Nat × α → Bool) {d v : α} {t : Table α} {k : Nat}
    (ht : ∀ e ∈ t, e.1 ≠ k → p e = false) (hd : v ≠ d) (hv : p (k, v) = true) : (tput d t k v).filter p = [(k, v)] := by
  rw [tput_eq, if_neg hd]
  exact filter_tins p (fun e he => ht e (Settings.mem_of_mem_tdel he) (tdel_ne t k e he)) hv

/-- The table's other entries wait with no message, or are masked. -/
theorem sendable_of_quiet {h : Hw} {e : Nat × MsixEntry} (he : e.2.pending = false ∨ e.2.masked = true) : sendable h e = false := by
  rcases he with he | he <;> simp [sendable, he]

/-- The block with the link down. -/
def down (h : Hw) : Hw := { h with link := { h.link with up := false } }

/-- The block with one entry unmasked. -/
def unmasked (h : Hw) (v : Nat) : Hw :=
  { h with msix := tput MsixEntry.reset h.msix v { tget MsixEntry.reset h.msix v with masked := false } }

theorem exec_msixUnmask {s : State} (ha : s.hw.alive = true) (v : Fin 512) :
    exec (.msixUnmask (some v)) s = .next { s with hw := (unmasked s.hw v).sendPending } := by
  simp only [exec, execMsixUnmask, Hw.unmask, ha, if_true]
  rfl

theorem unmasked_quiet {h : Hw} {v : Nat} (hquiet : ∀ e ∈ h.msix, e.1 ≠ v → e.2.pending = false ∨ e.2.masked = true)
    (hp : (tget MsixEntry.reset h.msix v).pending = false) : (unmasked h v).sendPending = unmasked h v := by
  refine sendPending_none fun e he => ?_
  rcases Settings.mem_tput he with rfl | ⟨hin, hne⟩
  · exact sendable_of_quiet (.inl hp)
  · exact sendable_of_quiet (hquiet e hin hne)

theorem unmasked_sends {h : Hw} {v : Nat} (hquiet : ∀ e ∈ h.msix, e.1 ≠ v → e.2.pending = false ∨ e.2.masked = true)
    (hon : h.link.msixOn = true) (hmask : h.link.funcMask = false) (hp : (tget MsixEntry.reset h.msix v).pending = true) :
    (unmasked h v).sendPending = sendOne (unmasked h v) (v, { tget MsixEntry.reset h.msix v with masked := false }) := by
  have hone : (unmasked h v).msix.filter (sendable (unmasked h v)) = [(v, { tget MsixEntry.reset h.msix v with masked := false })] := by
    refine filter_tput _ (fun e he hne => sendable_of_quiet (hquiet e he hne)) ?_ ?_
    · intro heq
      have hpending : (tget MsixEntry.reset h.msix v).pending = false := congrArg MsixEntry.pending heq
      simp [hp] at hpending
    · simp [sendable, unmasked, hp, hon, hmask]
  rw [sendPending_eq, hone]
  rfl

/-- The block with a word in Message Control. -/
def controlled (h : Hw) (d : W64) : Hw :=
  { h with link := { h.link with funcMask := d.toNat.testBit 14, msixOn := d.toNat.testBit 15 } }

theorem exec_msixControl {s : State} (hr : s.hw.pwr.railsOn = true) (hb : s.hw.pwr.booted = true) (hp : s.hw.pwr.perst = false)
    (off size : Nat) (d : W64) :
    exec (.registerWrite (.config .msixControl) off size d .none) s = .next { s with hw := (controlled s.hw d).sendPending } := by
  have hup : s.hw.configUp = true := by simp [Hw.configUp, hr, hb, hp]
  have hbit : ∀ k < 32, bitOf (d.setWidth 32).toNat k = d.toNat.testBit k := by
    intro k hk
    rw [Registers.bitOf_eq_testBit, BitVec.toNat_setWidth, Nat.testBit_mod_two_pow]
    simp [hk]
  rw [PowerCap.exec_registerWrite]
  simp only [Hw.answers, hup, if_true]
  rw [controlled, ← hbit 14 (by decide), ← hbit 15 (by decide)]
  rfl

/-- Settles O47: the link's events are those of a lost link, a tag change may be recorded and issues reads, and the messages sent are
those of the entries that nothing holds back. -/
theorem linkAndMessages : Obligations.LinkAndMessages := by
  refine ⟨?_, ?_, ?_⟩
  · intro s
    refine ⟨?_, ?_, ?_, ?_, ?_⟩
    · intro r wd hon hp hr hw
      simp [exec, execLinkTrained, Hw.trained, hon, hp, hr, hw]
    · intro hr
      exact congrArg (fun g => Host.Outcome.next { s with hw := g }) (Supply.loseLink_stopped (h := down s.hw) hr)
    · intro hr hw
      exact congrArg (fun g => Host.Outcome.next { s with hw := g }) (Supply.loseLink_latched (h := down s.hw) hr hw)
    · intro hr hw hn
      refine ⟨_, rfl, ?_⟩
      change (down s.hw).loseLink.ex.running = false ∧ (down s.hw).loseLink.link.up = false ∧ (down s.hw).loseLink.streams = []
        ∧ (down s.hw).loseLink.qs = (down s.hw).qs
      rw [Supply.loseLink_commit (h := down s.hw) hr hw hn, Supply.linkStop_link]
      exact ⟨Supply.linkStop_running _, rfl, Supply.linkStop_streams _, Supply.linkStop_qs _⟩
    · intro g hb hg
      have hexec : exec (.tagSpaceChange g) s = .next { s with hw :=
          (if (withTags s.hw g).ordinaryPool < s.hw.ordinaryPool && decide ((withTags s.hw g).ordinaryPool < (withTags s.hw g).creditSum) then
            (withTags s.hw g).refused 0x18 else withTags s.hw g).issueReads } :=
        congrArg (fun n : Hw => (Host.Outcome.next { s with hw := n } : Host.Outcome State Fault Refusal)) (tagChange_eq hb hg)
      refine ⟨?_, ?_⟩
      · intro hok
        have hno : (decide ((withTags s.hw g).ordinaryPool < s.hw.ordinaryPool)
            && decide ((withTags s.hw g).ordinaryPool < (withTags s.hw g).creditSum)) = false := by
          simp only [Bool.and_eq_false_iff, decide_eq_false_iff_not, not_lt]
          exact hok
        rw [hexec, hno]
        rfl
      · intro hpool hsum
        have hyes : (decide ((withTags s.hw g).ordinaryPool < s.hw.ordinaryPool)
            && decide ((withTags s.hw g).ordinaryPool < (withTags s.hw g).creditSum)) = true := by
          simp only [Bool.and_eq_true, decide_eq_true_eq]
          exact ⟨hpool, hsum⟩
        rw [hyes, if_pos rfl] at hexec
        refine ⟨_, hexec, ?_, ?_, ?_, ?_⟩
        · rw [Reads.issueReads_eq]
          change ((withTags s.hw g).refused 0x18).link.tags = g
          rw [show ((withTags s.hw g).refused 0x18).link = _ from Supply.link_note _ _]
          rfl
        · intro k
          refine (Reads.queue_issueReads ..).trans ?_
          simp [Hw.queue, withTags]
        · rw [Reads.issueReads_eq]
          exact MemorySetup.refused_log_ne_self (withTags s.hw g) 0x18
        · rw [Reads.issueReads_eq]
          exact Hw.mem_raise _ _
  · intro s v ha hon hmask hup hlost hquiet
    refine ⟨?_, ?_⟩
    · intro hp
      rw [exec_msixUnmask ha, unmasked_quiet hquiet hp]
      rfl
    · intro hp
      refine ⟨_, exec_msixUnmask ha v, ?_⟩
      dsimp only
      rw [unmasked_sends hquiet hon hmask hp, sendOne, Hw.post, if_pos (by simp [unmasked, hup, hlost])]
      refine ⟨tget_tput_same .., rfl, rfl, rfl, ?_⟩
      intro k hk
      refine (tget_tput_ne _ _ _ (Ne.symm hk)).trans ?_
      exact tget_tput_ne _ _ _ (Ne.symm hk)
  · intro s off size d hr hb hp
    refine ⟨_, exec_msixControl hr hb hp off size d, ?_⟩
    dsimp only
    have hunsent := unsent_sendPending (controlled s.hw d)
    refine ⟨congrArg (fun g => g.link.funcMask) hunsent, congrArg (fun g => g.link.msixOn) hunsent,
      congrArg (fun g => g.ex) hunsent, congrArg (fun g => g.streams) hunsent, ?_⟩
    intro hheld
    rw [sendPending_none]
    · exact ⟨rfl, rfl⟩
    · intro e _
      rcases hheld with hh | hh <;> simp [sendable, controlled, hh]

end Sys2Proof.Link
end

section
/-!
PROOF. Refetches, scrub reads and the far-memory controller (O28).
-/
namespace Sys2Proof.FarMemory
open Sys2Proof.Machine

/-! ### Version slots -/

theorem vslot_setVslot_same (h : Hw) {trunk : Bool} {idx slot : Nat} (x : VSlot) (hs : slot < if trunk then 3 else 2) :
    (h.setVslot trunk idx slot x).vslot trunk idx slot = x := by
  cases trunk with
  | true =>
    have hs : slot < 3 := hs
    interval_cases slot <;> rfl
  | false =>
    have hs : slot < 2 := hs
    simp only [Hw.setVslot, Hw.vslot, Bool.false_eq_true, if_false, Hw.voice_setVoice, if_true]
    interval_cases slot <;> rfl

/-! ### DAMAGED versions (R227, R456) -/

theorem damage_of_intact {h : Hw} {trunk : Bool} {idx slot : Nat} (hd : (h.vslot trunk idx slot).damaged = false)
    (hs : (h.vslot trunk idx slot).state = .staged ∨ (h.vslot trunk idx slot).state = .current ∨ (h.vslot trunk idx slot).state = .retiring) :
    ∃ p, h.damage trunk idx slot = Hw.setVslot { h with cat := { h.cat with pageIns := p } } trunk idx slot
      { h.vslot trunk idx slot with
        damaged := true, nearGranules := if (h.vslot trunk idx slot).resident then (h.vslot trunk idx slot).nearGranules else [] } := by
  rw [Hw.damage, if_neg (by rcases hs with hs | hs | hs <;> simp [hd, hs])]
  exact ⟨_, rfl⟩

/-! ### Uncorrectable lines (R227, R229) -/

@[simp] theorem countUncorrectable_ecc_lastSpace (h : Hw) (unit addr : Nat) : (h.countUncorrectable false unit addr).mem.ecc.lastSpace = 1 := rfl

theorem noteEcc_frame (h : Hw) (near : Bool) (unit addr owner cls : Nat) : ∃ l r,
    h.noteEcc near unit addr owner cls = { h with log := l, link := { h.link with raise := r } } := Boot.note_frame h _

theorem noteEcc_log_ne (h : Hw) (near : Bool) (unit addr owner cls : Nat) : (h.noteEcc near unit addr owner cls).log ≠ h.log :=
  MemorySetup.note_log_ne_self h _

theorem permanent_frame (h : Hw) : ∃ r, h.permanent = { h with ex := { h.ex with perm := true }, rings := r } := by
  unfold Hw.permanent
  dsimp only
  split
  · exact ⟨_, rfl⟩
  · exact ⟨_, rfl⟩

/-! ### The end of a refetch (R227) -/

/-- The replays after one that waited for a refetch leaves the wait: a line that no unit's work reads is done with. -/
def refetchLeft (h : Hw) (r : Replay) (f : Replay → Replay) : List Replay :=
  if r.who.kind = .nearStack then h.eng.replays.filter (fun x => x != r) else h.eng.replays.map (fun x => if x = r then f x else x)

section
variable {h : Hw} {r : Replay} {unit : Nat} (hon : h.memOn = true)
  (hr : h.eng.replays.find? (fun x => x.refetch && x.unit == unit && x.owner.isSome) = some r)
include hon hr

theorem refetchDone_ok : h.refetchDone unit true = { h with
    mem := { h.mem with ecc := { h.mem.ecc with refetch := satAdd h.mem.ecc.refetch 1 } }
    eng := { h.eng with replays := refetchLeft h r (fun x => { x with refetch := false }) } } := by
  simp [Hw.refetchDone, hon, hr, refetchLeft]

/-- The line that a failed refetch names. -/
def failedLine (h : Hw) (tr : Bool) (i k : Nat) : Nat × Hw := h.lostLine (h.vslot tr i k)

theorem refetchDone_failed {tr : Bool} {i k : Nat} (ho : r.owner = some (tr, i, k)) : h.refetchDone unit false =
    let g : Hw := { h.damage tr i k with
      eng := { (h.damage tr i k).eng with replays := refetchLeft (h.damage tr i k) r (fun x => { x with owner := none }) } }
    let a := failedLine g tr i k
    let g := (a.2.countUncorrectable false (channelOf a.1) a.1).noteEcc false (channelOf a.1) a.1
      (ownerCode (if tr then .farTrunk k else .farExpert i k)) (if tr then 0x07 else 0)
    if tr then g.permanent else g := by
  simp [Hw.refetchDone, hon, hr, ho, refetchLeft, failedLine]

end

theorem refetchDone_none {h : Hw} {unit : Nat} (ok : Bool)
    (hn : ∀ x ∈ h.eng.replays, x.refetch = true → x.unit = unit → x.owner = none) : h.refetchDone unit ok = h := by
  have hfind : h.eng.replays.find? (fun x => x.refetch && x.unit == unit && x.owner.isSome) = none := by
    rw [List.find?_eq_none]
    intro x hx
    have := hn x hx
    simp only [Bool.and_eq_true, beq_iff_eq, not_and, Bool.not_eq_true]
    intro ⟨h1, h2⟩
    simp [this h1 h2]
  unfold Hw.refetchDone
  rw [hfind]
  split <;> rfl

/-! ### Scrub reads (R228) -/

section
variable {h : Hw} {near : Bool} {a : Nat} (hon : h.memOn = true) (hin : h.inSpace (if near then 0 else 1) a = true)
include hon hin

theorem scrub_clean : h.scrub near (if near then stackOf a else channelOf a) a .clean = h := by
  simp [Hw.scrub, hon, hin]

theorem scrub_corrected (n : Nat) : h.scrub near (if near then stackOf a else channelOf a) a (.corrected n) =
    h.correctedRead near (if near then stackOf a else channelOf a) := by
  simp [Hw.scrub, hon, hin]

theorem scrub_uncorrectable (n : Nat) (o : LineOwner) :
    h.scrub near (if near then stackOf a else channelOf a) a (.uncorrectable n o) =
      h.uncorrectable near (if near then stackOf a else channelOf a) a ⟨.nearStack, if near then stackOf a else channelOf a⟩
        scrubUnit o (BitVec.ofNat 256 a) := by
  simp [Hw.scrub, hon, hin]

end

theorem inSpace_near (h : Hw) {a : Nat} (ha : a < 0x2000000000) : h.inSpace 0 a = true := by
  simp [Hw.inSpace, Hw.spaceRange, ha]

theorem inSpace_far {h : Hw} {a : Nat} (hlo : 0x100000000000 ≤ a) (hhi : a < 0x100000000000 + h.farBytes) :
    h.inSpace 1 a = true := by
  rw [Hw.inSpace, Bool.and_eq_true, decide_eq_true_eq, decide_eq_true_eq]
  exact ⟨hlo, hhi⟩

theorem uncorrectable_other (h : Hw) (near : Bool) (unit addr : Nat) (reader : UnitId) (runit : Nat) (op : BitVec 256) :
    h.uncorrectable near unit addr reader runit .other op = (h.countUncorrectable near unit addr).noteEcc near unit addr 0 0 := rfl

/-- A line that no owner claims: it is counted, named and recorded, and no stream, version or work changes. -/
theorem uncorrectable_other_frame (h : Hw) (near : Bool) (unit addr : Nat) (reader : UnitId) (op : BitVec 256) :
    let g := h.uncorrectable near unit addr reader scrubUnit .other op
    g.mem = (h.countUncorrectable near unit addr).mem ∧ g.log ≠ h.log ∧ g.streams = h.streams ∧ g.eng = h.eng ∧ g.cat = h.cat := by
  dsimp only
  rw [uncorrectable_other]
  refine ⟨?_, noteEcc_log_ne _ _ _ _ _ _, ?_⟩
  · obtain ⟨l, r, e⟩ := noteEcc_frame (h.countUncorrectable near unit addr) near unit addr 0 0
    rw [e]
  · obtain ⟨l, r, e⟩ := noteEcc_frame (h.countUncorrectable near unit addr) near unit addr 0 0
    rw [e]
    exact ⟨rfl, rfl, rfl⟩

theorem exec_granuleRefetchComplete (s : State) (unit : Nat) (ok : Bool) :
    exec (.granuleRefetchComplete unit ok) s = .next { s with hw := s.hw.refetchDone unit ok } := rfl

theorem exec_patrolScrub (s : State) (near : Bool) (unit a : Nat) (e : EccOutcome) :
    exec (.patrolScrub near unit a e) s = .next { s with hw := s.hw.scrub near unit a e } := rfl

theorem takeFree_frame (h : Hw) : ∃ f, h.takeFree.2 = { h with free := f } := by
  exact ⟨h.free + 1, rfl⟩

/-- A refetch that fails: the version is DAMAGED, its line is counted and recorded, and the replays wait for no version. -/
theorem refetchDone_failed_spec {h : Hw} {r : Replay} {unit : Nat} (hon : h.memOn = true)
    (hr : h.eng.replays.find? (fun x => x.refetch && x.unit == unit && x.owner.isSome) = some r)
    {tr : Bool} {i k : Nat} (ho : r.owner = some (tr, i, k)) (hk : k < if tr then 3 else 2)
    (hd : (h.vslot tr i k).damaged = false)
    (hs : (h.vslot tr i k).state = .staged ∨ (h.vslot tr i k).state = .current ∨ (h.vslot tr i k).state = .retiring) :
    ∃ ch a, let g := h.refetchDone unit false
      g.vslot tr i k = { h.vslot tr i k with
        damaged := true, nearGranules := if (h.vslot tr i k).resident then (h.vslot tr i k).nearGranules else [] }
      ∧ g.eng.replays = refetchLeft h r (fun x => { x with owner := none })
      ∧ g.mem = (h.countUncorrectable false ch a).mem ∧ g.log ≠ h.log ∧ (tr = true → g.ex.perm = true) ∧ g.streams = h.streams := by
  obtain ⟨p, hdam⟩ := damage_of_intact hd hs
  rw [refetchDone_failed hon hr ho]
  set v := { h.vslot tr i k with
    damaged := true, nearGranules := if (h.vslot tr i k).resident then (h.vslot tr i k).nearGranules else [] } with hv
  rw [hdam]
  generalize hg : ({ Hw.setVslot { h with cat := { h.cat with pageIns := p } } tr i k v with
    eng := { (Hw.setVslot { h with cat := { h.cat with pageIns := p } } tr i k v).eng with
      replays := refetchLeft (Hw.setVslot { h with cat := { h.cat with pageIns := p } } tr i k v) r
        (fun x => { x with owner := none }) } } : Hw) = g
  have hgv : g.vslot tr i k = v := by
    rw [← hg]
    exact vslot_setVslot_same _ v hk
  obtain ⟨e1, e2, e3, e4⟩ : g.eng.replays = refetchLeft h r (fun x => { x with owner := none }) ∧ g.mem = h.mem
      ∧ g.log = h.log ∧ g.streams = h.streams := by
    rw [← hg]
    cases tr <;> exact ⟨rfl, rfl, rfl, rfl⟩
  obtain ⟨f, hf⟩ : ∃ f, (failedLine g tr i k).2 = { g with free := f } := takeFree_frame g
  dsimp only
  rw [hf]
  generalize (failedLine g tr i k).1 = a
  refine ⟨channelOf a, a, ?_⟩
  generalize hcls : ownerCode (if tr then .farTrunk k else .farExpert i k) = oc
  generalize (if tr then (0x07 : Nat) else 0) = cls
  have hlog := noteEcc_log_ne (Hw.countUncorrectable { g with free := f } false (channelOf a) a) false (channelOf a) a oc cls
  obtain ⟨l, r1, e⟩ := noteEcc_frame (Hw.countUncorrectable { g with free := f } false (channelOf a) a) false (channelOf a) a oc cls
  rw [e] at hlog ⊢
  have hlog : l ≠ h.log := e3 ▸ hlog
  cases tr with
  | false =>
    simp only [Bool.false_eq_true, if_false]
    refine ⟨hgv, e1, ?_, hlog, fun h => absurd h (by decide), e4⟩
    simp only [Hw.countUncorrectable, e2]
  | true =>
    simp only [if_true]
    generalize hq : ({ Hw.countUncorrectable { g with free := f } false (channelOf a) a with log := l, link := _ } : Hw) = q
    obtain ⟨r2, ep⟩ := permanent_frame q
    rw [ep, ← hq]
    refine ⟨hgv, e1, ?_, hlog, fun _ => rfl, e4⟩
    simp only [Hw.countUncorrectable, e2]

section
variable {s : State} (hon : s.hw.memOn = true)
include hon

/-- What a scrub read of a line in `space` does, by its outcome (R228). -/
theorem exec_scrub (near : Bool) {a : Nat} (hin : s.hw.inSpace (if near then 0 else 1) a = true) (n : Nat) (o : LineOwner) :
    let unit := if near then stackOf a else channelOf a
    exec (.patrolScrub near unit a .clean) s = .next s
    ∧ exec (.patrolScrub near unit a (.corrected n)) s = .next { s with hw := s.hw.correctedRead near unit }
    ∧ exec (.patrolScrub near unit a (.uncorrectable n o)) s =
        .next { s with hw := s.hw.uncorrectable near unit a ⟨.nearStack, unit⟩ scrubUnit o (BitVec.ofNat 256 a) }
    ∧ ∃ t, exec (.patrolScrub near unit a (.uncorrectable n .other)) s = .next t
        ∧ t.hw.mem = (s.hw.countUncorrectable near unit a).mem ∧ t.hw.log ≠ s.hw.log ∧ t.hw.streams = s.hw.streams
        ∧ t.hw.eng = s.hw.eng ∧ t.hw.cat = s.hw.cat := by
  dsimp only
  simp only [exec_patrolScrub, scrub_clean hon hin, scrub_corrected hon hin, scrub_uncorrectable hon hin]
  exact ⟨trivial, trivial, trivial, _, rfl,
    uncorrectable_other_frame s.hw near _ a ⟨.nearStack, if near then stackOf a else channelOf a⟩ (BitVec.ofNat 256 a)⟩

end

/-- Settles O28: each refetch and scrub read by its outcome, and each duty of the controller in one update. -/
theorem farMemoryAndScrub : Obligations.FarMemoryAndScrub := by
  refine ⟨?_, ?_, ?_, ?_⟩
  · intro s r unit hon hr
    refine ⟨?_, ?_⟩
    · rw [exec_granuleRefetchComplete, refetchDone_ok hon hr]
      rfl
    · intro tr idx k ho hk v hd hs
      obtain ⟨ch, a, hv, hreps, hmem, hlog, hperm, hstr⟩ := refetchDone_failed_spec hon hr ho hk hd hs
      refine ⟨_, ch, exec_granuleRefetchComplete s unit false, hv, hreps, ?_, ?_, ?_, hlog, hperm, hstr, ?_⟩
      · exact congrArg (fun m : MemState => m.ecc.lastSpace) hmem
      · dsimp only
        rw [hmem]
        exact tget_tput_same ..
      · intro j hj
        dsimp only
        rw [hmem]
        exact tget_tput_ne _ _ _ hj.symm
      · dsimp only
        rw [hmem]
        rfl
  · intro s unit ok hn
    rw [exec_granuleRefetchComplete, refetchDone_none ok hn]
  · intro s a n o hon
    refine ⟨fun ha => ?_, fun hlo hhi => ?_⟩
    · exact exec_scrub hon true (inSpace_near s.hw ha) n o
    · have h := exec_scrub hon false (inSpace_far hlo hhi) n o
      simp only [Bool.false_eq_true, if_false] at h
      exact h
  · intro s ch bank m x hon hch hbank
    have hch' : ¬ 48 ≤ ch := by omega
    have hbank' : ¬ 64 ≤ bank := by omega
    refine ⟨?_, ?_, ?_, ?_⟩
    · simp [exec, execLpddrRefresh, Hw.refreshBank, hon, hch', hbank']
    · simp [exec, execRefreshRatePoll, Hw.pollRefresh, hon]
    · simp [exec, execZqCalibration, Hw.calibrate, hon]
    · simp [exec, execRefreshManagement, Hw.manageRefresh, hon, hch']

end Sys2Proof.FarMemory
end

section
/-!
PROOF. What leaves the executive's registers and the snapshot as they are; boundaries and commits (O14, O15, O56).
-/
namespace Sys2Proof.ExecKept
open Sys2Proof.Machine

/-! The executive's registers and the snapshot change in few places: this layer says of every other operation of a tick that it
leaves them. -/

/-- The executive's registers and the published snapshot. -/
def core (h : Hw) : Exec × Snapshot := (h.ex, h.snap)

/-- `simp` reads the core of a built block off its fields, and folds the core of one block back. -/
@[simp] theorem core_mk
    (pwr ex latches pwrCap pwrCapNow qs msix link rings streams incs groups cat mem eng ports war log snap cnt
    fm ts sec free picks) :
    core ⟨pwr, ex, latches, pwrCap, pwrCapNow, qs, msix, link, rings, streams, incs, groups, cat, mem, eng, ports, war, log, snap,
      cnt, fm, ts, sec, free, picks⟩ = (ex, snap) := rfl

@[simp] theorem core_eta (h : Hw) : (h.ex, h.snap) = core h := by rfl

@[simp] theorem core_ite (p : Prop) [Decidable p] (a b : Hw) : core (if p then a else b) = if p then core a else core b :=
  apply_ite ..

@[simp] theorem core_foldl {α : Type} {f : Hw → α → Hw} (hf : ∀ g a, core (f g a) = core g) (l : List α) (h : Hw) :
    core (l.foldl f h) = core h := foldl_keeps core f hf l h

@[simp] theorem core_setQueue (h : Hw) (q : Nat) (p : QueuePair) : core (h.setQueue q p) = core h := by rfl

@[simp] theorem core_modQueue (h : Hw) (q : Nat) (f : QueuePair → QueuePair) : core (h.modQueue q f) = core h := by rfl

@[simp] theorem core_setPort (h : Hw) (p : Nat) (x : Port) : core (h.setPort p x) = core h := by rfl

@[simp] theorem core_modPort (h : Hw) (p : Nat) (f : Port → Port) : core (h.modPort p f) = core h := by rfl

@[simp] theorem core_setStream (h : Hw) (n : Nat) (s : Stream) : core (h.setStream n s) = core h := by rfl

@[simp] theorem core_dropStream (h : Hw) (n : Nat) : core (h.dropStream n) = core h := by rfl

@[simp] theorem core_modStream (h : Hw) (n : Nat) (f : Stream → Stream) : core (h.modStream n f) = core h := by
  unfold Hw.modStream
  split <;> simp

@[simp] theorem core_mapStreams (h : Hw) (f : Nat → Stream → Stream) : core (h.mapStreams f) = core h := by
  simp [Hw.mapStreams]

@[simp] theorem core_setGroup (h : Hw) (g : Nat) (x : Option Machine.Group) : core (h.setGroup g x) = core h := by rfl

@[simp] theorem core_setVoice (h : Hw) (i : Nat) (v : Variant) : core (h.setVoice i v) = core h := by rfl

@[simp] theorem core_picked (h : Hw) : core h.picked = core h := by rfl

@[simp] theorem core_takeFree (h : Hw) : core h.takeFree.2 = core h := by rfl

@[simp] theorem core_raise (h : Hw) (v : Nat) : core (h.raise v) = core h := by
  simp [Hw.raise]

@[simp] theorem core_post (h : Hw) (w : HostWrite) : core (h.post w) = core h := by
  simp [Hw.post]

@[simp] theorem core_complete (h : Hw) (q seq kind : Nat) (tag handle : W32) (status d0 : Nat) (d1 : W64) :
    core (h.complete q seq kind tag handle status d0 d1) = core h := by rfl

@[simp] theorem core_markApplied (h : Hw) (seq cls : Nat) : core (h.markApplied seq cls) = core h := by rfl

@[simp] theorem core_event (h : Hw) (n : Nat) (s : Stream) (code status d0 : Nat) (d1 : W64) :
    core (h.event n s code status d0 d1) = core h := by rfl

@[simp] theorem core_moduleEvent (h : Hw) (code status : Nat) (d1 : W64) : core
    (h.moduleEvent code status d1) = core h := by rfl

@[simp] theorem core_miss (h : Hw) (n : Nat) (s : Stream) (reason count : Nat) (offset : Int) (index : W64) :
    core (h.miss n s reason count offset index) = core h := by
  simp [Hw.miss]

@[simp] theorem core_setTrunk (h : Hw) (i : Nat) (x : VSlot) : core (h.setTrunk i x) = core h := by rfl

@[simp] theorem core_setVslot (h : Hw) (trunk : Bool) (idx slot : Nat) (x : VSlot) :
    core (h.setVslot trunk idx slot x) = core h := by
  simp [Hw.setVslot]

@[simp] theorem core_addRef (h : Hw) (trunk : Bool) (idx slot : Nat) : core (h.addRef trunk idx slot) = core h := by
  simp [Hw.addRef]

@[simp] theorem core_dropRef (h : Hw) (trunk : Bool) (idx slot : Nat) : core (h.dropRef trunk idx slot) = core h := by
  simp [Hw.dropRef]

@[simp] theorem core_extend (h : Hw) (i kind : Nat) (version : W32) (v : Hash) :
    core (h.extend i kind version v) = core h := by rfl

@[simp] theorem core_issueTurns (k : Nat) (h : Hw) : core (issueTurns k h) = core h := by
  induction k generalizing h with
  | zero => rfl
  | succ k ih =>
    rw [issueTurns]
    split
    · rfl
    · exact ih _

@[simp] theorem core_readBlocks (h : Hw) : core h.readBlocks = core h := by rfl

@[simp] theorem core_issueReads (h : Hw) : core h.issueReads = core h := by
  simp [Hw.issueReads]

@[simp] theorem core_requestPage (h : Hw) (idx slot : Nat) : core (h.requestPage idx slot) = core h := by
  simp [Hw.requestPage]

@[simp] theorem core_dropSelection (h : Hw) (n : Nat) : core (h.dropSelection n) = core h := by
  simp only [Hw.dropSelection]
  (repeat' split) <;> simp

@[simp] theorem core_reselect (h : Hw) (n : Nat) : core (h.reselect n) = core h := by
  simp only [Hw.reselect]
  (repeat' split) <;> simp

@[simp] theorem core_freeVersion (h : Hw) (trunk : Bool) (idx slot : Nat) : core (h.freeVersion trunk idx slot) = core h := by
  simp [Hw.freeVersion]

@[simp] theorem core_freeVersions (h : Hw) : core h.freeVersions = core h := by
  simp [Hw.freeVersions]

@[simp] theorem core_unbind (h : Hw) (n : Nat) : core (h.unbind n) = core h := by
  simp only [Hw.unbind]
  (repeat' split) <;> simp

@[simp] theorem core_finishRing (h : Hw) (n : Nat) (s : Stream) (d : RingDesc) : core (h.finishRing n s d) = core h := by rfl

@[simp] theorem core_closeBlock (h : Hw) (n : Nat) (closed : Bool) : core (h.closeBlock n closed) = core h := by
  simp only [Hw.closeBlock]
  (repeat' split) <;> simp

@[simp] theorem core_endRing (h : Hw) (n : Nat) : core (h.endRing n) = core h := by
  simp only [Hw.endRing]
  (repeat' split) <;> simp

@[simp] theorem core_closeGate (h : Hw) (n : Nat) (flush : Bool) : core (h.closeGate n flush) = core h := by
  unfold Hw.closeGate
  split <;> simp

@[simp] theorem core_finish0 (h : Hw) (a : Admitted) (status : Nat) : core (h.finish0 a status) = core h := by rfl

@[simp] theorem core_finish (h : Hw) (a : Admitted) (handle : W32) (d0 : Nat) (d1 : W64) :
    core (h.finish a handle d0 d1) = core h := by rfl

@[simp] theorem core_abortFeeds (h : Hw) (n seq : Nat) : core (h.abortFeeds n seq) = core h := by
  unfold Hw.abortFeeds
  split <;> simp

@[simp] theorem core_endUtterance (h : Hw) (n : Nat) (aborted : Bool) : core (h.endUtterance n aborted) = core h := by
  unfold Hw.endUtterance
  split <;> simp

@[simp] theorem core_leaveGroup (h : Hw) (n : Nat) : core (h.leaveGroup n) = core h := by
  simp only [Hw.leaveGroup]
  (repeat' split) <;> simp

@[simp] theorem core_leaveLane (h : Hw) (n : Nat) : core (h.leaveLane n) = core h := by
  simp only [Hw.leaveLane]
  (repeat' split) <;> simp

@[simp] theorem core_abortAudio (h : Hw) (n : Nat) : core (h.abortAudio n) = core h := by
  unfold Hw.abortAudio
  split <;> simp

@[simp] theorem core_waitLane (h : Hw) (a : Admitted) : core (h.waitLane a) = core h := by rfl

@[simp] theorem core_nextInc (h : Hw) (n : Nat) : core (h.nextInc n).2 = core h := by rfl

@[simp] theorem core_applyOpen (h : Hw) (a : Admitted) : core (h.applyOpen a) = core h := by
  simp only [Hw.applyOpen]
  (repeat' split) <;> simp

@[simp] theorem core_cancelPlan (h : Hw) (n : Nat) (s : Stream) (r : StateRecord) : core (h.cancelPlan n s r) = core h := by
  unfold Hw.cancelPlan
  split <;> simp

@[simp] theorem core_stopAct (h : Hw) (n seq : Nat) (flush : Bool) : core (h.stopAct n seq flush) = core h := by
  simp only [Hw.stopAct]
  (repeat' split) <;> simp

@[simp] theorem core_stopOutcome (h : Hw) (a : Admitted) (n : Nat) (s : Stream) : core (h.stopOutcome a n s) = core h := by
  simp only [Hw.stopOutcome]
  (repeat' split) <;> simp

@[simp] theorem core_applyStop (h : Hw) (a : Admitted) : core (h.applyStop a) = core h := by
  simp only [Hw.applyStop]
  (repeat' split) <;> simp

@[simp] theorem core_abortImport (h : Hw) (n : Nat) : core (h.abortImport n) = core h := by
  simp only [Hw.abortImport]
  (repeat' split) <;> simp

@[simp] theorem core_release (h : Hw) (n : Nat) : core (h.release n) = core h := by
  simp only [Hw.release]
  (repeat' split) <;> simp

@[simp] theorem core_applyClose (h : Hw) (a : Admitted) : core (h.applyClose a) = core h := by
  simp only [Hw.applyClose]
  (repeat' split) <;> simp

@[simp] theorem core_exportStop (h : Hw) (n : Nat) (r : StateRecord) : core (h.exportStop n r) = core h := by
  simp [Hw.exportStop]

@[simp] theorem core_postRecord (h : Hw) (addr : W64) (r : StateRecord) : core (h.postRecord addr r) = core h := by
  unfold Hw.postRecord
  split <;> simp

@[simp] theorem core_applyExport (h : Hw) (a : Admitted) : core (h.applyExport a) = core h := by
  simp only [Hw.applyExport]
  (repeat' split) <;> simp

@[simp] theorem core_evict (h : Hw) (n : Nat) (s : Stream) : core (h.evict n s) = core h := by
  simp [Hw.evict]

@[simp] theorem core_applyImport (h : Hw) (a : Admitted) : core (h.applyImport a) = core h := by
  simp only [Hw.applyImport]
  (repeat' split) <;> simp

@[simp] theorem core_applyGroupCreate (h : Hw) (a : Admitted) : core (h.applyGroupCreate a) = core h := by
  simp only [Hw.applyGroupCreate]
  (repeat' split) <;> simp

@[simp] theorem core_applyGroupDissolve (h : Hw) (a : Admitted) : core (h.applyGroupDissolve a) = core h := by
  simp only [Hw.applyGroupDissolve]
  (repeat' split) <;> simp

@[simp] theorem core_applyBind (h : Hw) (a : Admitted) : core (h.applyBind a) = core h := by
  simp only [Hw.applyBind]
  (repeat' split) <;> simp

@[simp] theorem core_applyCtrl (h : Hw) (a : Admitted) : core (h.applyCtrl a) = core h := by
  simp only [Hw.applyCtrl]
  (repeat' split) <;> simp

@[simp] theorem core_feedInto (h : Hw) (i : ImageFile) (a : Admitted) (n : Nat) (s : Stream) (front : Bool) :
    core (h.feedInto i a n s front) = core h := by
  simp only [Hw.feedInto]
  (repeat' split) <;> simp

@[simp] theorem core_applyFeed (h : Hw) (a : Admitted) : core (h.applyFeed a) = core h := by
  simp only [Hw.applyFeed]
  (repeat' split) <;> simp

@[simp] theorem core_applyAudio (h : Hw) (a : Admitted) : core (h.applyAudio a) = core h := by
  simp only [Hw.applyAudio]
  (repeat' split) <;> simp

@[simp] theorem core_applyRing (h : Hw) (a : Admitted) : core (h.applyRing a) = core h := by
  simp only [Hw.applyRing]
  (repeat' split) <;> simp

@[simp] theorem core_giveUp (h : Hw) (trunk : Bool) (idx slot : Nat) : core (h.giveUp trunk idx slot) = core h := by
  simp [Hw.giveUp]

@[simp] theorem core_applyStage (h : Hw) (a : Admitted) : core (h.applyStage a) = core h := by
  simp only [Hw.applyStage]
  (repeat' split) <;> simp

@[simp] theorem core_planSwitches (h : Hw) (trunk : Bool) (idx slot : Nat) : core
    (h.planSwitches trunk idx slot) = core h := by
  refine foldl_keeps core _ (fun g e => ?_) _ _
  (repeat' split) <;> simp

@[simp] theorem core_switchVersion (h : Hw) (trunk : Bool) (idx slot : Nat) :
    core (h.switchVersion trunk idx slot) = core h := by
  simp only [Hw.switchVersion]
  (repeat' split) <;> simp

@[simp] theorem core_applyCommit (h : Hw) (a : Admitted) : core (h.applyCommit a) = core h := by
  simp only [Hw.applyCommit]
  (repeat' split) <;> simp

@[simp] theorem core_applyFence (h : Hw) (a : Admitted) : core (h.applyFence a) = core h := by
  simp [Hw.applyFence]

@[simp] theorem core_applyOne (h : Hw) (a : Admitted) : core (h.applyOne a) = core h := by
  unfold Hw.applyOne
  split <;> simp

@[simp] theorem core_applyStopped (h : Hw) (a : Admitted) : core (h.applyStopped a) = core h := by
  simp [Hw.applyStopped]

@[simp] theorem core_admitStopped (h : Hw) (a : Admitted) : core (h.admitStopped a) = core h := by
  simp [Hw.admitStopped]

@[simp] theorem core_drainStopped (h : Hw) : core h.drainStopped = core h := by
  simp [Hw.drainStopped]

@[simp] theorem core_assignRows (h : Hw) : core h.assignRows = core h := by
  simp [Hw.assignRows]

@[simp] theorem core_ruleWritten (h : Hw) (i : Nat) : core (h.ruleWritten i) = core h := by rfl

@[simp] theorem core_applyDue (h : Hw) (f : Nat → Bool) : core (h.applyDue f) = core h := by
  simp [Hw.applyDue]

@[simp] theorem core_markReady (h : Hw) : core h.markReady = core h := by
  simp [Hw.markReady]

@[simp] theorem core_admitChunks (h : Hw) : core h.admitChunks = core h := by
  refine foldl_keeps (fun x : Nat × Hw => core x.2) _ (fun g e => ?_) _ _
  split <;> simp

@[simp] theorem core_beginUtterance (h : Hw) (n : Nat) (s : Stream) : core (h.beginUtterance n s) = core h := by
  unfold Hw.beginUtterance
  split <;> simp

@[simp] theorem core_useExpert (h : Hw) (n : Nat) : core (h.useExpert n) = core h := by
  simp only [Hw.useExpert]
  (repeat' split) <;> simp

@[simp] theorem core_switchStream (h : Hw) (n : Nat) : core (h.switchStream n) = core h := by
  simp [Hw.switchStream]

@[simp] theorem core_decideFrame (h : Hw) (lacks : Nat → Bool) (n : Nat) : core (h.decideFrame lacks n) = core h := by
  simp only [Hw.decideFrame]
  (repeat' split) <;> simp

@[simp] theorem core_decideFrames (h : Hw) : core h.decideFrames = core h := by
  simp [Hw.decideFrames]

@[simp] theorem core_decideRun (h : Hw) (n : Nat) : core (h.decideRun n) = core h := by
  simp [Hw.decideRun]

@[simp] theorem core_decideRing (h : Hw) (n : Nat) : core (h.decideRing n) = core h := by
  unfold Hw.decideRing
  split <;> simp

@[simp] theorem core_holdRing (h : Hw) (g : Nat) : core (h.holdRing g) = core h := by
  simp only [Hw.holdRing]
  split
  · rfl
  split
  · refine foldl_keeps core _ (fun a m => ?_) _ _
    (repeat' split) <;> simp
  · rfl

@[simp] theorem core_decideRuns (h : Hw) : core h.decideRuns = core h := by
  simp [Hw.decideRuns]

@[simp] theorem core_resetUnits (h : Hw) : core h.resetUnits = core h := by rfl

@[simp] theorem core_expertsUsable (h : Hw) : core h.expertsUsable = core h := by
  simp [Hw.expertsUsable]

@[simp] theorem core_reopenGates (h : Hw) : core h.reopenGates = core h := by
  simp [Hw.reopenGates]

@[simp] theorem core_evictions (h : Hw) : core h.evictions = core h := by
  refine foldl_keeps core _ (fun g e => ?_) _ _
  (repeat' split) <;> simp

@[simp] theorem core_portsBoundary (h : Hw) : core h.portsBoundary = core h := by
  simp [Hw.portsBoundary]

@[simp] theorem core_rebaseUse (h : Hw) : core h.rebaseUse = core h := by
  simp [Hw.rebaseUse]

@[simp] theorem core_missWork (h : Hw) (n : Nat) (s : Stream) (reason : Nat) (run frame : Bool) :
    core (h.missWork n s reason run frame) = core h := by
  unfold Hw.missWork
  split <;> simp

@[simp] theorem core_resolveStream (h : Hw) (own : Nat → Bool × Bool × Bool) (n : Nat) (s : Stream) :
    core (h.resolveStream own n s) = core h := by
  simp [Hw.resolveStream]

@[simp] theorem core_writeRun (h : Hw) (n : Nat) (s : Stream) (final : List F32) (ends : Bool) :
    core (h.writeRun n s final ends) = core h := by
  simp only [Hw.writeRun]
  (repeat' split) <;> simp

@[simp] theorem core_routeRun (h : Hw) (n : Nat) (s : Stream) (final : List F32) : core (h.routeRun n s final) = core h := by
  unfold Hw.routeRun
  split <;> simp

@[simp] theorem core_startEvents (h : Hw) (n : Nat) (s : Stream) (frameKept : Bool) :
    core (h.startEvents n s frameKept) = core h := by
  simp only [Hw.startEvents]
  (repeat' split) <;> simp

@[simp] theorem core_moveSwitch (h : Hw) (n : Nat) : core (h.moveSwitch n) = core h := by
  simp only [Hw.moveSwitch]
  (repeat' split) <;> simp

@[simp] theorem core_commitStream (h : Hw) (i : ImageFile) (n : Nat) : core (h.commitStream i n) = core h := by
  simp only [Hw.commitStream]
  (repeat' split) <;> simp

@[simp] theorem core_staleHeld (h : Hw) (n : Nat) : core (h.staleHeld n) = core h := by
  unfold Hw.staleHeld
  split <;> simp

@[simp] theorem core_commitImport (h : Hw) (n : Nat) : core (h.commitImport n) = core h := by
  simp only [Hw.commitImport]
  (repeat' split) <;> simp

@[simp] theorem core_commitPort (at0 : List (Nat × W64)) (h : Hw) (p : Nat) : core (Hw.commitPort at0 h p) = core h := by
  simp [Hw.commitPort]

@[simp] theorem core_degradedEvents (h : Hw) : core h.degradedEvents = core h := by
  simp [Hw.degradedEvents]

@[simp] theorem core_advise (h : Hw) (cls n : Nat) : core (h.advise cls n) = core h := by
  unfold Hw.advise
  split <;> simp

@[simp] theorem core_adviseAll (h : Hw) : core h.adviseAll = core h := by
  simp [Hw.adviseAll]

@[simp] theorem core_commitEviction (h : Hw) (n : Nat) (spilled copied : Bool) :
    core (h.commitEviction n spilled copied) = core h := by
  simp only [Hw.commitEviction]
  (repeat' split) <;> simp

@[simp] theorem core_sweepFences (h : Hw) (f : FenceWait → Bool) : core (h.sweepFences f) = core h := by
  simp [Hw.sweepFences]

@[simp] theorem core_writeRecords (h : Hw) (q : Nat) (epoch : W64) (ps : List Pending) :
    core (h.writeRecords q epoch ps) = core h := by
  induction ps generalizing h with
  | nil => rfl
  | cons p ps ih =>
    rw [Hw.writeRecords, ih]
    split <;> simp

@[simp] theorem core_publishQueue (h : Hw) (q : Nat) (epoch : W64) (new : List Pending) :
    core (h.publishQueue q epoch new).2 = core h := by
  simp [Hw.publishQueue]

@[simp] theorem core_publishRecords (h : Hw) (epoch : W64) (positions : List HostWrite) :
    core (h.publishRecords epoch positions) = core h := by
  simp only [Hw.publishRecords, core_foldl, core_post, implies_true]
  exact foldl_keeps (fun x : List Nat × Hw => core x.2) _ (fun g e => core_publishQueue ..) _ _

@[simp] theorem core_sendMsix (h : Hw) : core h.sendMsix = core h := by
  simp [Hw.sendMsix]

@[simp] theorem core_closeAll (h : Hw) : core h.closeAll = core h := by
  simp [Hw.closeAll]

@[simp] theorem core_abortOpen (h : Hw) : core h.abortOpen = core h := by
  simp [Hw.abortOpen]

@[simp] theorem core_stageDone (h : Hw) (g : Staging) : core (h.stageDone g) = core h := by rfl

@[simp] theorem core_restoreVersion (h : Hw) (g : Staging) : core (h.restoreVersion g) = core h := by
  simp [Hw.restoreVersion]

@[simp] theorem core_commitRestores (h : Hw) : core h.commitRestores = core h := by
  simp [Hw.commitRestores]

@[simp] theorem core_countTrials (h : Hw) : core h.countTrials = core h := by rfl

@[simp] theorem core_freeFrames (W n : Nat) (h : Hw) : core (Hw.freeFrames W n h).2 = core h := by
  induction n generalizing h with
  | zero => rfl
  | succ n ih => simp [Hw.freeFrames, ih]

@[simp] theorem core_followerFrames (h : Hw) (p : Nat) : core (h.followerFrames p) = core h := by
  simp [Hw.followerFrames]

@[simp] theorem core_note (h : Hw) (e : LogEntry) : core (h.note e) = core h := by
  simp [Hw.note]

@[simp] theorem core_flushDrops (h : Hw) : core h.flushDrops = core h := by
  simp only [Hw.flushDrops]
  (repeat' split) <;> simp

@[simp] theorem core_portCause (h : Hw) (p k : Nat) : core (h.portCause p k) = core h := by
  simp only [Hw.portCause]
  (repeat' split) <;> simp

@[simp] theorem core_portForce (h : Hw) (p : Nat) (x : Port) : core (h.portForce p x) = core h := by
  simp only [Hw.portForce]
  (repeat' split) <;> simp

@[simp] theorem core_force (h : Hw) (x : LatchItem) : core (h.force x) = core h := by
  simp only [Hw.force]
  (repeat' split) <;> simp

@[simp] theorem core_latchPass (h : Hw) (f : LatchItem → Bool) : core (h.latchPass f) = core h := by
  simp [Hw.latchPass]

@[simp] theorem core_latchBoundary (h : Hw) : core h.latchBoundary = core h := by
  simp [Hw.latchBoundary]

@[simp] theorem core_latchIdle (h : Hw) : core h.latchIdle = core h := by
  simp [Hw.latchIdle]

@[simp] theorem core_resolveWork (h : Hw) (late : List Late) : core (h.resolveWork late) = core h := by
  simp only [Hw.resolveWork]
  (repeat' split) <;> simp

@[simp] theorem core_transientEntries (h : Hw) : core h.transientEntries = core h := by
  simp [Hw.transientEntries]

@[simp] theorem core_fenceEntries (h : Hw) : core h.fenceEntries = core h := by
  simp [Hw.fenceEntries]

@[simp] theorem core_flushLog (h : Hw) : core h.flushLog = core h := by rfl

theorem ex_of_core {g h : Hw} (he : core g = core h) : g.ex = h.ex := congrArg Prod.fst he

theorem snap_of_core {g h : Hw} (he : core g = core h) : g.snap = h.snap := congrArg Prod.snd he

/-! ### The beginning of a tick -/

/-- The executive's registers without what a fence or a cool boundary may change as a tick begins. -/
def settled (h : Hw) : Exec := { h.ex with fencedAny := false, perm := false, coolCap := false, safePlan := none }

theorem settled_of_core {g h : Hw} (he : core g = core h) : settled g = settled h := by
  rw [settled, settled, ex_of_core he]

theorem settled_coolBoundary (h : Hw) : settled h.coolBoundary = settled h := by
  unfold Hw.coolBoundary
  split <;> rfl

theorem settled_fence (h : Hw) (u : UnitId) (cause : Nat) : settled (h.fence u cause) = settled h := by
  unfold Hw.fence
  split
  · rfl
  · dsimp only
    split <;> rfl

theorem settled_fenceBoundary (h : Hw) : settled h.fenceBoundary = settled h := by
  have hfold : settled (h.eng.fenceDue.foldl (fun a e => a.fence e.1 e.2) { h with eng := { h.eng with fenceDue := [] } }) = settled h :=
    foldl_keeps settled _ (fun g (e : UnitId × Nat) => settled_fence g e.1 e.2) _ _
  refine (settled_of_core (core_foldl (fun g e => ?_) _ _)).trans hfold
  split
  · dsimp only
    split
    · split <;> simp
    · rfl
  · rfl

/-- The executive's registers as a tick begins: its window is the work window (R10, R358). -/
def begun (h : Hw) : Exec :=
  { h.ex with window := .work, overrun := none, gap := false, hold := h.war.hold || h.war.capHold, safeTick := h.ex.safePlan.isSome }

/-- Of the steps of a boundary only the cool boundary and the fences that fall due concern the executive's registers. -/
theorem settled_beginTick (h : Hw) : settled h.beginTick =
    { begun h with fencedAny := false, perm := false, coolCap := false, safePlan := none } := by
  unfold Hw.beginTick
  extract_lets _ _ _ _ b0 _ _ b1 _ b2 b3 sw _ b4 b5 b6 b7 b8 b9
  have e0 : settled b0 = { begun h with fencedAny := false, perm := false, coolCap := false, safePlan := none } := rfl
  have e1 : settled b1 = settled b0 := settled_coolBoundary b0
  have e2 : core b2 = core b1 := core_mapStreams ..
  have e3 : settled b3 = settled b2 := by
    have hb : settled b3 = settled b2.portsBoundary.resetUnits.fenceBoundary :=
      settled_of_core ((core_reopenGates _).trans (core_expertsUsable _))
    rw [hb, settled_fenceBoundary, settled_of_core (core_resetUnits _), settled_of_core (core_portsBoundary _)]
  clear_value b3
  have e4 : core b4 = core b3 := by
    refine (core_foldl (fun g x => ?_) _ _).trans (by rfl)
    split <;> simp
  have e5 : core b5 = core b4 := by simp [b5]
  have e6 : core b6 = core b5 := by
    simp only [b6]
    split
    · exact core_foldl (fun g e => by split <;> simp) _ _
    · rfl
  have e7 : core b7 = core b6 := by simp [b7]
  have e8 : core b8 = core b7 := by simp [b8]
  have e9 : core b9 = core b8 := by simp [b9]
  have e10 : core (if b9.ex.safeTick = true then b9 else b9.decideRuns) = core b9 := by simp
  calc settled (if b9.ex.safeTick = true then b9 else b9.decideRuns)
      = settled b3 := settled_of_core (by rw [e10, e9, e8, e7, e6, e5, e4])
    _ = _ := by rw [e3, settled_of_core e2, e1, e0]

/-! ### Publication -/

theorem core_snapshot (h : Hw) (epoch : W64) : core (h.snapshot epoch) = (h.ex, (h.snapshot epoch).snap) := rfl

theorem core_publish (h : Hw) (epoch : W64) :
    ∃ s : Snapshot, core (h.publish epoch) = (h.ex, s) ∧ s.epoch = epoch ∧ s.pubCount = h.snap.pubCount + 1 := by
  have hg : core (h.publishRecords epoch h.positions).flushLog = core h := by simp
  refine ⟨((h.publishRecords epoch h.positions).flushLog.snapshot epoch).snap, ?_, rfl, ?_⟩
  · rw [Hw.publish, core_sendMsix, core_snapshot, ex_of_core hg]
  · rw [← snap_of_core hg]
    rfl

/-- The completions and events that wait for their publication. -/
def composed (h : Hw) : List Pending × List Pending := (h.rings.done, h.rings.events)

theorem composed_post (h : Hw) (w : HostWrite) : composed (h.post w) = composed h := by simp [composed]

theorem composed_raise (h : Hw) (v : Nat) : composed (h.raise v) = composed h := by simp [composed]

theorem composed_writeRecords (ps : List Pending) (h : Hw) (q : Nat) (epoch : W64) :
    composed (h.writeRecords q epoch ps) = composed h := by
  induction ps generalizing h with
  | nil => rfl
  | cons p ps ih =>
    rw [Hw.writeRecords, ih]
    dsimp only
    split
    · exact composed_post ..
    · exact composed_post ..

theorem composed_publishQueue (h : Hw) (q : Nat) (epoch : W64) (new : List Pending) :
    composed (h.publishQueue q epoch new).2 = composed h := by
  unfold Hw.publishQueue
  extract_lets x all n now left h1 h2 _ h3
  have h2e : composed h2 = composed h := composed_writeRecords now h q epoch
  have h3e : composed h3 = composed h2 := by
    simp only [h3]
    split
    · rfl
    · exact composed_raise _ 511
  dsimp only
  split
  · exact h3e.trans h2e
  · exact (composed_raise ..).trans (h3e.trans h2e)

theorem composed_publishRecords (h : Hw) (epoch : W64) (positions : List HostWrite) :
    composed (h.publishRecords epoch positions) = ([], []) := by
  unfold Hw.publishRecords
  extract_lets d e tr qs _ g r g'
  have hr : composed r.2 = composed g :=
    foldl_keeps (fun x : List Nat × Hw => composed x.2) _ (fun a q => composed_publishQueue ..) _ _
  have hg : composed g' = composed r.2 := foldl_keeps composed _ composed_post _ _
  exact (foldl_keeps composed _ (fun a q => composed_post ..) _ _).trans (hg.trans hr)

theorem post_frame (h : Hw) (w : HostWrite) : ∃ l, h.post w = { h with link := { h.link with posted := l } } := by
  unfold Hw.post
  split
  · exact ⟨_, rfl⟩
  · exact ⟨h.link.posted, rfl⟩

/-- Sending the messages changes only the vectors' pending bits and what is posted, and leaves no vector raised. -/
theorem sendMsix_frame (h : Hw) : ∃ m p, h.sendMsix = { h with msix := m, link := { h.link with raise := [], posted := p } } := by
  unfold Hw.sendMsix
  refine foldl_inv (fun g : Hw => ∃ m p, g = { h with msix := m, link := { h.link with raise := [], posted := p } }) _ ?_ _ _
    ⟨h.msix, h.link.posted, rfl⟩
  rintro _ v ⟨m, p, rfl⟩
  dsimp only
  split
  · obtain ⟨l, e⟩ := post_frame { h with msix := m, link := { h.link with raise := [], posted := p } }
      (.msix v (tget MsixEntry.reset m v).addr (tget MsixEntry.reset m v).data)
    exact ⟨m, l, e⟩
  · exact ⟨_, p, rfl⟩

/-- A publication leaves no completion, event, log entry or message waiting (R26, R162). -/
theorem publish_releases (h : Hw) (epoch : W64) :
    composed (h.publish epoch) = ([], []) ∧ (h.publish epoch).log.pending = [] ∧ (h.publish epoch).link.raise = [] := by
  unfold Hw.publish
  extract_lets g
  obtain ⟨m, p, e⟩ := sendMsix_frame (g.snapshot epoch)
  rw [e]
  exact ⟨composed_publishRecords h epoch h.positions, rfl, rfl⟩

/-! ### The commit -/

/-- The mode that a commit settles is the one change of the core before the publication (R371). -/
theorem core_setMode (h : Hw) (m : DevMode) (cause : Nat) : core (h.setMode m cause) = ({ h.ex with mode := m }, h.snap) := by
  rw [core, Hw.setMode_ex, Hw.setMode_snap]

/-- The commit of a tick while the link is up: epoch, window and snapshot, and nothing left to publish (R162). -/
theorem commitTick_spec (h : Hw) (i : ImageFile) (hl : h.ex.linkLost = false) :
    let g := h.commitTick i
    (∃ m, g.ex = { h.ex with mode := m, window := .commit, last := some h.ex.tick })
    ∧ g.snap.epoch = h.ex.tick ∧ g.snap.pubCount = h.snap.pubCount + 1
    ∧ composed g = ([], []) ∧ g.log.pending = [] ∧ g.link.raise = [] := by
  unfold Hw.commitTick
  extract_lets a0 before at0 a1 a2 a3 a4 a5 a6 a7 a8 a9 b0 b1 b2 _ _ b3 g
  have e0 : core a8 = core h := by
    simp [a0, a1, a2, a3, a4, a5, a6, a7, a8]
  obtain ⟨m, e9⟩ : ∃ m, core a9 = ({ h.ex with mode := m }, h.snap) := by
    simp only [a9]
    split
    · exact ⟨a8.runMode, by rw [core_setMode, ex_of_core e0, snap_of_core e0]⟩
    · exact ⟨h.ex.mode, e0⟩
  have f0 : core b0 = core a9 := core_sweepFences ..
  obtain ⟨s, hp, hepoch, hpub⟩ := core_publish b0 b0.ex.tick
  obtain ⟨hcomp, hlog, hraise⟩ := publish_releases b0 b0.ex.tick
  have f1 := f0.trans e9
  clear_value b0
  obtain ⟨hex, hsnap⟩ := Prod.mk.inj f1
  have hb3 : b3.ex = { h.ex with mode := m, window := .commit, last := some h.ex.tick } := by
    have h1 : b1.ex = b0.ex := congrArg Prod.fst hp
    show { b1.ex with window := .commit, last := some b1.ex.tick } = _
    rw [h1, hex]
  have hb3s : b3.snap = s := congrArg Prod.snd hp
  have hlost : ¬ b3.ex.linkLost = true := by simp [hb3, hl]
  have hg : g = b3 := if_neg hlost
  rw [hg, hb3s, hepoch, hpub, hsnap, hex]
  exact ⟨⟨m, hb3⟩, rfl, rfl, hcomp, hlog, hraise⟩

/-! ### The beginning of a tick, and its end in SAFE -/

section
variable {h : Hw} (hd : h.decodes = true) (hr : h.ex.running = true) (hw : h.ex.window = .commit) (hre : h.ex.rerun = false)
  (hs : h.ex.stopping = none) (ht : h.pwr.syncTimeout = false)
include hd hr hw hre hs ht

theorem boundary_commit : h.boundary = (Hw.latchBoundary { h with ex := { h.ex with tick := h.ex.tick + 1 } }).beginTick := by
  have hex : (Hw.latchBoundary { h with ex := { h.ex with tick := h.ex.tick + 1 } }).ex = { h.ex with tick := h.ex.tick + 1 } :=
    ex_of_core (core_latchBoundary _)
  rw [Hw.boundary, if_neg (by simp [hd, hr, ht]), if_neg (by simp [hr, hre]), if_pos (by simp [hr, hw])]
  extract_lets _ g0 g go
  have hstop : g.ex.stopping = none := (congrArg Exec.stopping hex).trans hs
  have hrerun : g.ex.rerun = false := (congrArg Exec.rerun hex).trans hre
  rw [hstop]
  exact if_neg (by simp [hrerun])

/-- The executive's registers after a boundary of a running executive. -/
theorem boundary_commit_ex : h.boundary.ex.tick = h.ex.tick + 1 ∧ h.boundary.ex.window = .work ∧ h.boundary.ex.running = h.ex.running
    ∧ h.boundary.ex.last = h.ex.last ∧ h.boundary.ex.gap = false ∧ h.boundary.ex.safeTick = h.ex.safePlan.isSome := by
  have hex : (Hw.latchBoundary { h with ex := { h.ex with tick := h.ex.tick + 1 } }).ex = { h.ex with tick := h.ex.tick + 1 } :=
    ex_of_core (core_latchBoundary _)
  have e := settled_beginTick (Hw.latchBoundary { h with ex := { h.ex with tick := h.ex.tick + 1 } })
  rw [begun, hex, ← boundary_commit hd hr hw hre hs ht] at e
  simp only [settled, Exec.mk.injEq] at e
  simp [e]

end

/-- Settles O15: the commit's core is one update of the core, and the publication releases what waits. -/
theorem intakeCloseCommits : Obligations.IntakeCloseCommits := by
  intro s late i hd hr hre hw hsafe hi hlost
  have hrw : core (s.hw.resolveWork late) = core s.hw := core_resolveWork ..
  have hclose : s.hw.intakeClose late = (s.hw.resolveWork late).commitTick i := by
    rw [Hw.intakeClose, if_neg (by rcases hw with hw | hw <;> simp [hd, hr, hre, hw]), if_neg (by simp [hsafe]), hi]
  obtain ⟨⟨m, hex⟩, hepoch, hpub, hcomp, hlog, hraise⟩ :=
    commitTick_spec (s.hw.resolveWork late) i (by rw [ex_of_core hrw, hlost])
  obtain ⟨hdone, hevents⟩ := Prod.mk.inj hcomp
  rw [ex_of_core hrw] at hex hepoch
  rw [snap_of_core hrw] at hpub
  refine ⟨{ s with hw := s.hw.intakeClose late }, rfl, ?_⟩
  dsimp only
  rw [hclose, hex]
  exact ⟨rfl, rfl, rfl, hepoch, hpub, hdone, hevents, hlog, hraise⟩

section
variable {h : Hw} (hd : h.decodes = true) (hr : h.ex.running = false)
include hd hr

/-- A scheduled start waits for the near copy of the trunk that is CURRENT from epoch 0 (R224). -/
theorem boundary_start_waits (ht : h.trunkReady = false) : h.boundary = h := by
  rw [Hw.boundary, if_neg (by simp [hd, hr]), if_neg (by simp [hr]), if_neg (by simp [hr]), if_neg (by simp [ht])]

/-- The executive's registers as epoch 0 begins (R418). -/
theorem boundary_start_ex (hs : h.ex.start = .scheduled) (ht : h.trunkReady = true) : h.boundary.ex.tick = 0 ∧ h.boundary.ex.last = none
    ∧ h.boundary.ex.running = true ∧ h.boundary.ex.window = .work ∧ h.boundary.ex.start = .none
    ∧ h.boundary.ex.mode = if h.ex.fencedAny || h.ex.perm then .degraded else .running := by
  rw [Hw.boundary, if_neg (by simp [hd, hr]), if_neg (by simp [hr]), if_neg (by simp [hr]), if_pos (by simp [hr, hs, ht])]
  extract_lets g0 _ _ g1 _ g2 g3 g4
  have e0 : g0.ex = h.ex := ex_of_core (core_rebaseUse h)
  have e3 : g3.ex = { g0.ex with tick := 0, last := none, start := .none, running := true, gapCount := 0, mode := g2.runMode } :=
    Hw.setMode_ex ..
  have hrun : g2.runMode = if h.ex.fencedAny || h.ex.perm then .degraded else .running := by
    rw [← e0]
    rfl
  have e4 : g4.latchBoundary.ex = g3.ex := ex_of_core (core_latchBoundary g4)
  have e := settled_beginTick g4.latchBoundary
  rw [begun, e4, e3, hrun] at e
  clear_value g4
  simp only [settled, Exec.mk.injEq] at e
  simp [e]

end

theorem reserveStart_eq {h : Hw} (hd : h.decodes = true) (hr : h.ex.running = true) (hw : h.ex.window = .work)
    (hre : h.ex.rerun = false) (late : Option Nat) : h.reserveStart late =
      match late with
      | some n => Hw.note { h with ex := { h.ex with window := .reserve, overrun := late } } (entry 0x0002 1 0 moduleUnit n 0)
      | none => { h with ex := { h.ex with window := .reserve, overrun := none } } := by
  rw [Hw.reserveStart, if_pos (by simp [hd, hr, hw, hre])]
  cases late <;> rfl

/-- Settles O14: a boundary through what it settles of the executive's registers; the reserve's start directly. -/
theorem windowsBegin : Obligations.WindowsBegin := by
  refine ⟨?_, ?_, ?_⟩
  · intro s hd hr hw hre hs ht
    obtain ⟨htick, hwin, hrun, hlast, hgap, _⟩ := boundary_commit_ex hd hr hw hre hs ht
    exact ⟨{ s with hw := s.hw.boundary }, rfl, htick, hwin, hrun.trans hr, hlast, hgap⟩
  · intro s hd hr hs
    refine ⟨fun ht => ?_, fun ht => ?_⟩
    · exact ⟨{ s with hw := s.hw.boundary }, rfl, boundary_start_ex hd hr hs ht⟩
    · exact congrArg (fun g : Hw => (Host.Outcome.next { s with hw := g } : Host.Outcome State Fault Refusal))
        (boundary_start_waits hd hr ht)
  · intro s n hd hr hw hre
    refine ⟨?_, ?_⟩
    · exact congrArg (fun g : Hw => (Host.Outcome.next { s with hw := g } : Host.Outcome State Fault Refusal))
        (reserveStart_eq hd hr hw hre none)
    · refine ⟨{ s with hw := s.hw.reserveStart (some n) }, { entry 0x0002 1 0 moduleUnit n 0 with epoch := s.hw.epoch }, rfl, ?_⟩
      dsimp only
      rw [reserveStart_eq hd hr hw hre]
      refine ⟨Hw.note_ex .., ?_, rfl, rfl, Hw.note_streams ..⟩
      rw [Hw.note_log, if_pos hr]
      rfl

/-- Closing every stream and halting, as the commit of the eviction tick ends. -/
theorem closed_halted (h : Hw) :
    h.closeAll.haltExec.ex = { h.ex with running := false, stopping := none, start := .none, window := .stopped, rerun := false }
    ∧ h.closeAll.haltExec.snap = h.snap ∧ h.closeAll.haltExec.streams = [] := by
  obtain ⟨e1, e2⟩ := Prod.mk.inj (core_closeAll h)
  have e3 := Supply.streams_closeAll h
  generalize h.closeAll = g at e1 e2 e3
  rw [← e1, ← e2]
  exact ⟨rfl, rfl, e3⟩

/-- The publication of the eviction tick after SAFE is entered: the rest of the commit closes what is left (R358). -/
theorem safe_published {h : Hw} {f : BitVec 8} (hf : h.ex.safePlan = some f) (tick : W64) :
    let g := ((h.rest 0x0358).publish tick).closeAll.haltExec
    g.ex.running = false ∧ g.ex.mode = .safe ∧ g.ex.fault = f ∧ g.streams = [] ∧ g.snap.epoch = tick ∧ g.ex.last = h.ex.last := by
  obtain ⟨s, hp, hepoch, _⟩ := core_publish (h.rest 0x0358) tick
  have hr := Supply.rest_ex h 0x0358
  rw [hf] at hr
  rw [hr] at hp
  generalize (h.rest 0x0358).publish tick = p at hp
  obtain ⟨e1, e2⟩ := Prod.mk.inj hp
  obtain ⟨c1, c2, c3⟩ := closed_halted p
  dsimp only
  rw [c1, c2, c3, e1, e2]
  exact ⟨rfl, rfl, rfl, rfl, hepoch, rfl⟩

/-- The commit of the eviction tick: the executive stops in SAFE with every stream ended (R358). -/
theorem safeCommit_spec {h : Hw} {f : BitVec 8} (hf : h.ex.safePlan = some f) :
    let g := h.safeCommit
    g.ex.running = false ∧ g.ex.mode = .safe ∧ g.ex.fault = f ∧ g.streams = [] ∧ g.snap.epoch = h.ex.tick
    ∧ g.ex.last = some h.ex.tick := by
  unfold Hw.safeCommit
  extract_lets a0 a1 a2 a3 _ a4 tick a5 a6 _ g
  have e3 : core a3 = core h := by
    have e0 : core a0 = core h := core_foldl (fun a e => by (repeat' split) <;> simp) _ _
    simp [a3, a2, a1, e0]
  have e4 : a4.ex = { h.ex with last := some h.ex.tick, safePlan := some f } := by
    show { a3.ex with last := some a3.ex.tick, safePlan := some (a3.ex.safePlan.getD 0) } = _
    rw [ex_of_core e3, hf]
    rfl
  have htick : tick = a4.ex.tick := rfl
  have h6 : a6 = ((a4.rest 0x0358).publish tick).closeAll.haltExec := rfl
  clear_value a6 a4 tick
  have hend := safe_published (h := a4) (f := f) (by rw [e4]) tick
  rw [← h6] at hend
  obtain ⟨hrun, hmode, hfault, hstr, hepoch, hlast⟩ := hend
  rw [htick, e4] at hepoch
  rw [e4] at hlast
  exact ⟨hrun, hmode, hfault, hstr, hepoch, hlast⟩

/-- Settles O56: SAFE at a boundary, at the commit of the eviction tick, and while the executive is stopped. -/
theorem safeIsEntered : Obligations.SafeIsEntered := by
  intro s f hf
  refine ⟨fun hd hr hre => ⟨?_, ?_⟩, ?_⟩
  · intro hw hs ht
    obtain ⟨htick, hwin, _, _, _, hsafe⟩ := boundary_commit_ex hd hr hw hre hs ht
    have henter : s.hw.enterSafe = s.hw.boundary := by simp [Hw.enterSafe, hr, hw, hf]
    refine ⟨{ s with hw := s.hw.enterSafe }, rfl, ?_⟩
    dsimp only
    rw [henter]
    exact ⟨by rw [hsafe, hf]; rfl, hwin, htick⟩
  · intro hw hsafe
    have hclose : s.hw.intakeClose [] = s.hw.safeCommit := by
      rw [Hw.intakeClose, if_neg (by rcases hw with hw | hw <;> simp [hd, hr, hre, hw]), if_pos hsafe]
    refine ⟨{ s with hw := s.hw.intakeClose [] }, rfl, ?_⟩
    dsimp only
    rw [hclose]
    exact safeCommit_spec hf
  · intro hr
    have henter : s.hw.enterSafe = s.hw.rest 0x0358 := by simp [Hw.enterSafe, hr, hf]
    have hex := Supply.rest_ex s.hw 0x0358
    rw [hf] at hex
    refine ⟨{ s with hw := s.hw.enterSafe }, rfl, ?_⟩
    dsimp only
    rw [henter, hex]
    exact ⟨hr, rfl, rfl, rfl, rfl, Supply.rest_streams .., by unfold Hw.rest; split <;> simp⟩

end Sys2Proof.ExecKept
end

section
/-!
PROOF. Descriptors decoded while the executive runs, and the urgent STOP (O11, O12).
-/
namespace Sys2Proof.Decoding
open Sys2Proof.Machine

/-! ### Taking the next descriptor -/

theorem fetchOne_fst (h : Hw) (q : Nat) (d : Desc) (x : Payload) : (h.fetchOne q d x).1 = h.nextAdmitted q d x := by
  unfold Hw.fetchOne Hw.nextAdmitted Hw.dueTick
  by_cases hw : h.ex.window = .commit <;> simp [hw]

theorem fetched_eq (h : Hw) (q : Nat) (d : Desc) (x : Payload) : h.fetched q d x =
    { (h.fetchOne q d x).2 with
      rings := { (h.fetchOne q d x).2.rings with admitted := (h.fetchOne q d x).2.rings.admitted ++ [h.nextAdmitted q d x] } } := rfl

theorem fetchOne_ex (h : Hw) (q : Nat) (d : Desc) (x : Payload) : (h.fetchOne q d x).2.ex = { h.ex with seq := h.ex.seq + 1 } :=
  ExecKept.ex_of_core (ExecKept.core_issueReads _)

theorem fetchOne_cat (h : Hw) (q : Nat) (d : Desc) (x : Payload) : (h.fetchOne q d x).2.cat = h.cat := by
  simp only [Hw.fetchOne]
  rw [Reads.issueReads_eq]
  rfl

theorem fetchOne_kept (h : Hw) (q : Nat) (d : Desc) (x : Payload) : (h.fetchOne q d x).2.streams = h.streams
    ∧ (h.fetchOne q d x).2.rings.done = h.rings.done ∧ (h.fetchOne q d x).2.rings.fences = h.rings.fences
    ∧ (h.fetchOne q d x).2.picks = h.picks ∧ (h.fetchOne q d x).2.mem = h.mem := by
  simp only [Hw.fetchOne]
  rw [Reads.issueReads_eq]
  exact ⟨rfl, rfl, rfl, rfl, rfl⟩

theorem decodeRow_eq {h : Hw} {q : Nat} {op : Nat} {d : Desc} (hc : h.canDecode q = true) (ho : dOpcode d = op) {b : Bool} (hb : b = true)
    (x : Payload) : h.decodeRow q (rowTakes op d && b) d x = (h.fetchOne q d x).2.admitOne (h.nextAdmitted q d x) := by
  rw [Hw.decodeRow, if_pos (by simp [hc, rowTakes, ho, hb]), ← fetchOne_fst]

/-! ### Selections pinned on decode (R89) -/

theorem selectionOnDecode_other (h : Hw) (a : Admitted) (hb : dOpcode a.desc ≠ opBind) (hc : dOpcode a.desc ≠ opCtrl) :
    h.selectionOnDecode a = none := by
  have hb' : (dOpcode a.desc == opBind) = false := by simpa using hb
  have hc' : (dOpcode a.desc == opCtrl) = false := by simpa using hc
  simp only [Hw.selectionOnDecode, hb', hc', Bool.false_and, Bool.false_eq_true, if_false, ite_self]
  split <;> rfl

theorem requestPage_frame (h : Hw) (idx slot : Nat) : ∃ xs : List PageIn, xs.length ≤ 1 ∧ (∀ p ∈ xs, p.admitted = false) ∧
    h.requestPage idx slot = { h with cat := { h.cat with pageIns := h.cat.pageIns ++ xs } } := by
  unfold Hw.requestPage
  extract_lets v
  split
  · exact ⟨[], by simp, by simp, by rw [List.append_nil]⟩
  · exact ⟨[{ idx := idx, slot := slot, admitted := false }], by simp, by simp, rfl⟩

theorem pageOnDecode_frame (h : Hw) (a : Admitted) : ∃ (xs : List PageIn) (pn : Option (Nat × Nat)), xs.length ≤ 1 ∧ (∀ p ∈ xs, p.admitted = false)
    ∧ h.pageOnDecode a = ({ a with pin := pn }, { h with cat := { h.cat with pageIns := h.cat.pageIns ++ xs } }) := by
  unfold Hw.pageOnDecode
  split
  · next i k _ =>
    obtain ⟨xs, hl, ha, e⟩ := requestPage_frame h i k
    exact ⟨xs, some (i, k), hl, ha, by rw [e]⟩
  · exact ⟨[], a.pin, by simp, by simp, by rw [List.append_nil]⟩

/-! ### While the executive runs -/

section
variable {s : State} {q : Fin 256} {d : Desc} (hr : s.hw.ex.running = true) (hc : s.hw.canDecode q = true)
include hr hc

/-- A descriptor that selects no version waits for its boundary. -/
theorem decodeRow_waits {op : Nat} (ho : dOpcode d = op) (hb : op ≠ opBind) (hs : op ≠ opCtrl) {b : Bool} (ht : b = true) (x : Payload) :
    s.hw.decodeRow q (rowTakes op d && b) d x = s.hw.fetched q d x := by
  have hsel : (s.hw.fetchOne q d x).2.selectionOnDecode (s.hw.nextAdmitted q d x) = none :=
    selectionOnDecode_other _ _ (by rw [← ho] at hb; exact hb) (by rw [← ho] at hs; exact hs)
  have hpage : (s.hw.fetchOne q d x).2.pageOnDecode (s.hw.nextAdmitted q d x) = (s.hw.nextAdmitted q d x, (s.hw.fetchOne q d x).2) := by
    rw [Hw.pageOnDecode, hsel]
  rw [decodeRow_eq hc ho ht, Hw.admitOne, if_pos (by rw [fetchOne_ex]; exact hr), hpage, fetched_eq]

/-- BIND_VOICE and a style CTRL wait alike, with the version that they select pinned and at most one page-in requested. -/
theorem decodeRow_pins {op : Nat} (ho : dOpcode d = op) (x : Payload) :
    ∃ (xs : List PageIn) (pn : Option (Nat × Nat)), xs.length ≤ 1 ∧ (∀ p ∈ xs, p.admitted = false)
      ∧ s.hw.decodeRow q (rowTakes op d) d x = { s.hw.fetched q d x with
          cat := { s.hw.cat with pageIns := s.hw.cat.pageIns ++ xs }
          rings := { (s.hw.fetched q d x).rings with
            admitted := (s.hw.fetched q d x).rings.admitted.dropLast ++ [{ s.hw.nextAdmitted q d x with pin := pn }] } } := by
  obtain ⟨xs, pn, hl, ha, e⟩ := pageOnDecode_frame (s.hw.fetchOne q d x).2 (s.hw.nextAdmitted q d x)
  refine ⟨xs, pn, hl, ha, ?_⟩
  rw [← Bool.and_true (rowTakes op d), decodeRow_eq hc ho rfl, Hw.admitOne, if_pos (by rw [fetchOne_ex]; exact hr), e, fetched_eq,
    fetchOne_cat, List.dropLast_concat]

end

/-- Settles O11: every row takes the descriptor alike; BIND_VOICE and CTRL add what they select. -/
theorem descriptorsWaitForTheirBoundary : Obligations.DescriptorsWaitForTheirBoundary := by
  have hnext (s : State) {g g' : Hw} (e : g = g') :
      (Host.Outcome.next { s with hw := g } : Host.Outcome State Fault Refusal) = .next { s with hw := g' } := by rw [e]
  refine ⟨?_, ?_⟩
  · intro s q d hr hc
    have plain {op : Nat} (ho : dOpcode d = op) (hb : op ≠ opBind) (hs : op ≠ opCtrl) (x : Payload) :
        s.hw.decodeRow q (rowTakes op d) d x = s.hw.fetched q d x := by
      rw [← Bool.and_true (rowTakes op d)]
      exact decodeRow_waits hr hc ho hb hs rfl x
    refine ⟨fun ho => hnext s (plain ho (by decide) (by decide) _), fun ho r => hnext s (plain ho (by decide) (by decide) _), fun ho hu => hnext s ?_,
      fun ho => hnext s (plain ho (by decide) (by decide) _), fun ho => hnext s (plain ho (by decide) (by decide) _),
      fun ho r => hnext s (plain ho (by decide) (by decide) _), fun ho r => hnext s (plain ho (by decide) (by decide) _),
      fun ho => hnext s (plain ho (by decide) (by decide) _), fun ho => hnext s (plain ho (by decide) (by decide) _),
      fun ho hf r => hnext s ?_, fun ho hf => hnext s ?_,
      fun ho r => hnext s (plain ho (by decide) (by decide) _), fun ho r => hnext s (plain ho (by decide) (by decide) _)⟩
    · exact decodeRow_waits hr hc ho (by decide) (by decide) (by simp [Hw.urgentNext, hu]) _
    · exact decodeRow_waits hr hc ho (by decide) (by decide) (by simp [hf]) _
    · exact decodeRow_waits hr hc ho (by decide) (by decide) (by simp [hf]) _
  · intro s q d r hr hc
    refine ⟨fun ho => ?_, fun ho => ?_⟩
    · obtain ⟨xs, pn, hl, ha, e⟩ := decodeRow_pins hr hc ho (if dField d 0x18 8 = 0 then .none else .style r)
      exact ⟨xs, pn, hl, ha, hnext s e⟩
    · obtain ⟨xs, pn, hl, ha, e⟩ := decodeRow_pins hr hc ho (if dField d 0x10 2 = 4 then .style r else .none)
      exact ⟨xs, pn, hl, ha, hnext s e⟩

/-! ### An urgent STOP from the intake close on (R280) -/

theorem lookup_stream {h : Hw} {owner : W16} {w : W32} {c : Nat} {x : Stream} (hl : h.lookup owner w = some (c, x)) :
    h.stream c = some x := by
  unfold Hw.lookup at hl
  dsimp only at hl
  split at hl
  · next s hs =>
    split at hl
    · obtain ⟨rfl, rfl⟩ := Prod.mk.inj (Option.some.inj hl)
      exact hs
    · cases hl
  · cases hl

theorem lookup_congr {g h : Hw} (hs : g.streams = h.streams) (owner : W16) (w : W32) : g.lookup owner w = h.lookup owner w := by
  unfold Hw.lookup Hw.stream
  rw [hs]

/-- The gate of a stream closes in the stream, and then in each port that holds words of it. -/
theorem closeGate_eq {h : Hw} {c : Nat} {x : Stream} (hx : h.stream c = some x) {flush : Bool} (hg : ¬ (x.gated && !flush) = true) :
    ∃ (n : Nat) (b : Nat → Bool) (f : Nat → Port → Port), h.closeGate c flush =
      (List.range 16).foldl (fun a p => if b p then a else a.modPort p (f p)) (h.setStream c { x with gated := true, gatedCount := n }) := by
  unfold Hw.closeGate
  rw [hx]
  dsimp only
  rw [if_neg hg]
  exact ⟨_, _, _, rfl⟩

theorem foldl_modPort_kept (b : Nat → Bool) (f : Nat → Port → Port) (l : List Nat) (h : Hw) :
    let g := l.foldl (fun a p => if b p then a else a.modPort p (f p)) h
    g.streams = h.streams ∧ g.rings = h.rings ∧ g.ex = h.ex := by
  have e := foldl_keeps (fun g : Hw => (g.streams, g.rings, g.ex)) (fun a p => if b p then a else a.modPort p (f p))
    (fun g p => by split <;> rfl) l h
  simpa using e

/-- Closing a stream's gate concerns that stream and the ports only. -/
theorem closeGate_gates {h : Hw} {c : Nat} {x : Stream} (hx : h.stream c = some x) (flush : Bool) :
    let g := h.closeGate c flush
    (∃ y, g.stream c = some y ∧ y.gated = true ∧ y.life = x.life) ∧ (∀ k, k ≠ c → g.stream k = h.stream k)
    ∧ g.rings = h.rings ∧ g.ex = h.ex := by
  by_cases hg : (x.gated && !flush) = true
  · have e : h.closeGate c flush = h := by simp [Hw.closeGate, hx, hg]
    rw [e]
    exact ⟨⟨x, hx, (Bool.and_eq_true _ _ ▸ hg).1, rfl⟩, fun _ _ => rfl, rfl, rfl⟩
  · obtain ⟨n, b, f, e⟩ := closeGate_eq hx hg
    obtain ⟨hs, hr, hex⟩ := foldl_modPort_kept b f (List.range 16) (h.setStream c { x with gated := true, gatedCount := n })
    dsimp only
    rw [e, hr, hex]
    refine ⟨⟨{ x with gated := true, gatedCount := n }, ?_, rfl, rfl⟩, fun k hk => ?_, rfl, rfl⟩
    · rw [Hw.stream, hs]
      exact tget_tput_same ..
    · rw [Hw.stream, hs]
      exact tget_tput_ne _ _ _ hk.symm

/-- Settles O12: the gate closes on decode, and the STOP waits for the next boundary. -/
theorem urgentStopClosesGate : Obligations.UrgentStopClosesGate := by
  intro s q d c x hr hw hc ho hu hf hl
  obtain ⟨hstreams, hdone, _⟩ := fetchOne_kept s.hw q d .none
  have hex := fetchOne_ex s.hw q d .none
  have hx : (s.hw.fetchOne q d .none).2.stream c = some x := by
    rw [Hw.stream, hstreams]
    exact lookup_stream hl
  have hl' : (s.hw.fetchOne q d .none).2.lookup (s.hw.nextAdmitted q d .none).owner (dHandle d) = some (c, x) := by
    exact (lookup_congr hstreams ..).trans hl
  obtain ⟨⟨y, hy, hgated, hlife⟩, hother, hrings, hex'⟩ := closeGate_gates hx (bitOf (dFlags d) 0)
  have hnext : s.hw.decodeUrgent q d =
      ((s.hw.fetchOne q d .none).2.closeGate c (bitOf (dFlags d) 0)).admitOne { s.hw.nextAdmitted q d .none with due := s.hw.ex.tick + 1 } := by
    rw [Hw.decodeUrgent, if_pos (by simp [hc, Hw.urgentNext, ho, hu, opStop])]
    dsimp only
    rw [fetchOne_fst, if_neg (by simp [hex, hr]), if_pos (by simp [hex, hw]), hl']
    dsimp only
    rw [if_pos hf, hex', hex]
  have hsel (g : Hw) : g.selectionOnDecode { s.hw.nextAdmitted q d .none with due := s.hw.ex.tick + 1 } = none :=
    selectionOnDecode_other _ _ (show dOpcode d ≠ opBind by rw [ho]; decide) (show dOpcode d ≠ opCtrl by rw [ho]; decide)
  refine ⟨{ s with hw := s.hw.decodeUrgent q d }, y, rfl, ?_⟩
  dsimp only
  rw [hnext, Hw.admitOne, if_pos (by rw [hex', hex]; exact hr), Hw.pageOnDecode, hsel]
  refine ⟨hy, hgated, hlife, ⟨_, List.mem_concat_self, rfl, rfl, ?_⟩, ?_, fun k hk => ?_⟩
  · simp [Hw.nextAdmitted, hu, ho, opStop]
  · exact (congrArg Rings.done hrings).trans hdone
  · exact (hother k hk).trans (congrArg (fun t => tget none t k) hstreams)

end Sys2Proof.Decoding
end

section
/-!
PROOF. Descriptors while the executive is stopped (O13).
-/
namespace Sys2Proof.Stopped
open Sys2Proof.Machine

/-! ### A descriptor fetched while the executive is stopped -/

/-- The descriptor as it stands among the open ones. -/
def opened (h : Hw) (q : Nat) (d : Desc) : OpenDesc :=
  { seq := h.ex.seq, q := q, owner := (h.queue q).owner, tag := dTag d, op := dOpcode d, handle := if zeroHandle (dOpcode d) then 0 else dHandle d
    barrier := dOpcode d == opFence && bitOf (dFlags d) 0 && dFormatOk d, applied := none }

theorem fetchOne_openDescs (h : Hw) (q : Nat) (d : Desc) (x : Payload) :
    (h.fetchOne q d x).2.rings.openDescs = h.rings.openDescs ++ [opened h q d] := by
  simp only [Hw.fetchOne]
  rw [Reads.issueReads_eq]
  rfl

theorem fetchOne_admitted {h : Hw} (ha : h.rings.admitted = []) (q : Nat) (d : Desc) (x : Payload) :
    (h.fetchOne q d x).2.rings.admitted = [] := by
  simp only [Hw.fetchOne]
  rw [Reads.issueReads_admitted]
  exact List.map_eq_nil_iff.mpr ha

section
variable {h : Hw} {q : Nat} {d : Desc} {x : Payload} (hu : (h.queue q).urgent = 0) (ha : h.rings.admitted = [])
  (hb : ∀ o ∈ h.rings.openDescs, o.barrier = false)
include hu ha hb

/-- Neither a barrier nor a block that is still to be read holds the descriptor. -/
theorem free_next : (h.fetchOne q d x).2.free? (h.nextAdmitted q d x) = true := by
  have hread : h.reservedRead q = false := by simp [Hw.reservedRead, hu]
  have hstarved : (h.fetchOne q d x).2.starved? (h.nextAdmitted q d x) = false := by
    simp [Hw.starved?, fetchOne_admitted ha, Hw.nextAdmitted, hread]
  have hfenced : (h.fetchOne q d x).2.fenced? (h.nextAdmitted q d x) = false := by
    rw [Hw.fenced?, fetchOne_openDescs, List.any_append, Bool.and_eq_false_iff]
    refine .inr (Bool.or_eq_false_iff.mpr ⟨?_, by simp [opened, Hw.nextAdmitted]⟩)
    rw [List.any_eq_false]
    intro o ho
    simp [hb o ho]
  rw [Hw.free?, hstarved, hfenced]
  rfl

theorem decodeRow_stopped {op : Nat} (hr : h.ex.running = false) (hc : h.canDecode q = true) (ho : dOpcode d = op) {b : Bool} (ht : b = true) :
    h.decodeRow q (rowTakes op d && b) d x = (h.fetchOne q d x).2.applyStopped (h.nextAdmitted q d x) := by
  rw [Decoding.decodeRow_eq hc ho ht, Hw.admitOne, if_neg (by simp [Decoding.fetchOne_ex, hr]), Hw.admitStopped,
    if_pos (free_next hu ha hb)]

end

theorem applyStopped_holding {h : Hw} (hm : h.ex.mode = .holding) (a : Admitted) : h.applyStopped a = h.finish0 a stVersion := by
  simp [Hw.applyStopped, hm]

theorem applyStopped_stream {h : Hw} (hm : h.ex.mode ≠ .holding) {a : Admitted} (h0 : dOpcode a.desc ≠ 0) (he : dOpcode a.desc ≤ 0x0E)
    (hs : dOpcode a.desc ≠ opStage) (hc : dOpcode a.desc ≠ opCommit) (hf : dOpcode a.desc ≠ opFence) :
    h.applyStopped a = h.finish0 a stNoContext := by
  simp [Hw.applyStopped, hm, h0, hs, hc, hf, Nat.not_lt.mpr he]

theorem applyStopped_control {h : Hw} (hm : h.ex.mode ≠ .holding) {a : Admitted}
    (ho : dOpcode a.desc = opStage ∨ dOpcode a.desc = opCommit ∨ dOpcode a.desc = opFence) : h.applyStopped a = h.applyOne a := by
  rcases ho with ho | ho | ho <;> simp [Hw.applyStopped, hm, ho, opStage, opCommit, opFence]

/-- A completion is composed behind those that are composed already. -/
theorem complete_pending (h : Hw) (q seq kind : Nat) (tag handle : W32) (status d0 : Nat) (d1 : W64) :
    ∃ p : Pending, (h.complete q seq kind tag handle status d0 d1).rings.done = h.rings.done ++ [p] ∧ p.q = q
      ∧ p.r.status = BitVec.ofNat 8 status ∧ p.r.tag = tag ∧ p.r.event = false ∧ p.r.detail0 = BitVec.ofNat 16 d0 :=
  ⟨_, rfl, rfl, rfl, rfl, rfl, rfl⟩

/-- The descriptor has completed with a status, and no context is allocated. -/
theorem finished {s : State} (ha : s.hw.rings.admitted = []) (q : Nat) (d : Desc) (x : Payload) {g : Hw} (status : Nat)
    (e : g = (s.hw.fetchOne q d x).2.finish0 (s.hw.nextAdmitted q d x) status) :
    ∃ p : Pending, g.rings.done = s.hw.rings.done ++ [p] ∧ p.r.status = BitVec.ofNat 8 status ∧ p.r.tag = dTag d ∧ p.r.event = false
      ∧ p.q = q ∧ g.streams = s.hw.streams ∧ g.rings.admitted = [] ∧ g.cat = s.hw.cat := by
  obtain ⟨hstreams, hdone, _⟩ := Decoding.fetchOne_kept s.hw q d x
  have hcat := Decoding.fetchOne_cat s.hw q d x
  have hadm := fetchOne_admitted ha q d x
  rw [e]
  refine ⟨_, (congrArg (· ++ _) hdone :), rfl, rfl, rfl, rfl, hstreams, hadm, hcat⟩

section
variable {s : State} {q : Fin 256} {d : Desc} (hr : s.hw.ex.running = false) (hc : s.hw.canDecode q = true)
  (hu : (s.hw.queue q).urgent = 0) (ha : s.hw.rings.admitted = []) (hb : ∀ o ∈ s.hw.rings.openDescs, o.barrier = false)
include hr hc hu ha hb

/-- The end of a descriptor that is not served while the executive is stopped (R275, R394). -/
theorem row_ends {op : Nat} (ho : dOpcode d = op) {b : Bool} (ht : b = true)
    (hop : s.hw.ex.mode = .holding ∨ (op ≠ 0 ∧ op ≤ 0x0E ∧ op ≠ opStage ∧ op ≠ opCommit ∧ op ≠ opFence)) (x : Payload) :
    ∃ (t : State) (p : Pending), (Host.Outcome.next { s with hw := s.hw.decodeRow q (rowTakes op d && b) d x } : Host.Outcome State Fault Refusal) = .next t
      ∧ t.hw.rings.done = s.hw.rings.done ++ [p] ∧ p.r.status = (if s.hw.ex.mode = .holding then 0x07 else 0x06)
      ∧ p.r.tag = dTag d ∧ p.r.event = false ∧ p.q = q.val ∧ t.hw.streams = s.hw.streams ∧ t.hw.rings.admitted = [] := by
  have hmode : (s.hw.fetchOne q d x).2.ex.mode = s.hw.ex.mode := by rw [Decoding.fetchOne_ex]
  have e : s.hw.decodeRow q (rowTakes op d && b) d x =
      (s.hw.fetchOne q d x).2.finish0 (s.hw.nextAdmitted q d x) (if s.hw.ex.mode = .holding then stVersion else stNoContext) := by
    rw [decodeRow_stopped hu ha hb hr hc ho ht]
    by_cases hm : s.hw.ex.mode = .holding
    · rw [applyStopped_holding (hmode.trans hm), if_pos hm]
    · obtain ⟨h0, hle, hs, hcm, hf⟩ := hop.resolve_left hm
      subst ho
      rw [applyStopped_stream (by rw [hmode]; exact hm) (a := s.hw.nextAdmitted q d x) h0 hle hs hcm hf, if_neg hm]
  obtain ⟨p, hdone, hst, htag, hev, hq, hstr, hadm, _⟩ := finished ha q d x _ e
  refine ⟨_, p, rfl, hdone, ?_, htag, hev, hq, hstr, hadm⟩
  rw [hst]
  split <;> rfl

/-- What is served while the executive is stopped is served at once (R275). -/
theorem row_served {op : Nat} (ho : dOpcode d = op) (hm : s.hw.ex.mode ≠ .holding) (hop : op = opStage ∨ op = opCommit ∨ op = opFence)
    (x : Payload) : s.hw.decodeRow q (rowTakes op d) d x = (s.hw.fetchOne q d x).2.applyOne (s.hw.nextAdmitted q d x) := by
  have hmode : (s.hw.fetchOne q d x).2.ex.mode = s.hw.ex.mode := by rw [Decoding.fetchOne_ex]
  subst ho
  rw [← Bool.and_true (rowTakes _ d), decodeRow_stopped hu ha hb hr hc rfl rfl]
  exact applyStopped_control (by rw [hmode]; exact hm) hop

end

/-! ### FENCE, WEIGHT_COMMIT and WEIGHT_STAGE while the executive is stopped -/

/-- The block as a descriptor that is served takes effect: what is fetched is marked as applied. -/
def taken (h : Hw) (q : Nat) (d : Desc) (x : Payload) : Hw := (h.fetchOne q d x).2.markApplied h.ex.seq (classOf (dOpcode d))

section
variable (h : Hw) (q : Nat) (d : Desc) (x : Payload)

theorem taken_ex : (taken h q d x).ex = { h.ex with seq := h.ex.seq + 1 } := Decoding.fetchOne_ex h q d x

theorem taken_cat : (taken h q d x).cat = h.cat := Decoding.fetchOne_cat h q d x

theorem taken_kept : (taken h q d x).streams = h.streams ∧ (taken h q d x).rings.done = h.rings.done
    ∧ (taken h q d x).rings.fences = h.rings.fences ∧ (taken h q d x).picks = h.picks ∧ (taken h q d x).mem = h.mem :=
  Decoding.fetchOne_kept h q d x

theorem applyOne_fence (hd : dOpcode d = opFence) : (h.fetchOne q d x).2.applyOne (h.nextAdmitted q d x) =
    (taken h q d x).applyFence (h.nextAdmitted q d x) := by
  have ho : dOpcode (h.nextAdmitted q d x).desc = 0x0B := hd
  unfold Hw.applyOne
  rw [ho, taken, hd]
  rfl

theorem applyOne_commit (hd : dOpcode d = opCommit) : (h.fetchOne q d x).2.applyOne (h.nextAdmitted q d x) =
    (taken h q d x).applyCommit (h.nextAdmitted q d x) := by
  have ho : dOpcode (h.nextAdmitted q d x).desc = 0x0A := hd
  unfold Hw.applyOne
  rw [ho, taken, hd]
  rfl

theorem applyOne_stage (hd : dOpcode d = opStage) : (h.fetchOne q d x).2.applyOne (h.nextAdmitted q d x) =
    (taken h q d x).applyStage (h.nextAdmitted q d x) := by
  have ho : dOpcode (h.nextAdmitted q d x).desc = 0x09 := hd
  unfold Hw.applyOne
  rw [ho, taken, hd]
  rfl

end

theorem scope_marked (m : OpenDesc → OpenDesc) (hm : ∀ o, (m o).seq = o.seq ∧ (m o).q = o.q) (n q : Nat) (l : List OpenDesc) :
    ((l.map m).filter (fun o => decide (o.seq < n) && o.q == q)).map (fun o => o.seq) =
      (l.filter (fun o => decide (o.seq < n) && o.q == q)).map (fun o => o.seq) := by
  have hp : (fun o : OpenDesc => decide (o.seq < n) && o.q == q) ∘ m = fun o => decide (o.seq < n) && o.q == q := by
    funext o
    simp [hm o]
  have hs : (fun o : OpenDesc => o.seq) ∘ m = fun o => o.seq := funext fun o => (hm o).1
  rw [List.filter_map, hp, List.map_map, hs]

/-- Of the open descriptors of a queue only those decoded before the FENCE are in its scope (R290). -/
theorem taken_scope (h : Hw) (q : Nat) (d : Desc) (x : Payload) :
    ((taken h q d x).rings.openDescs.filter (fun o => decide (o.seq < h.ex.seq) && o.q == q)).map (fun o => o.seq) =
      (h.rings.openDescs.filter (fun o => decide (o.seq < h.ex.seq) && o.q == q)).map (fun o => o.seq) := by
  refine (scope_marked _ (fun o => ?_) _ _ _).trans ?_
  · split <;> exact ⟨rfl, rfl⟩
  · rw [fetchOne_openDescs]
    simp [opened]

theorem applyFence_eq {h : Hw} {a : Admitted} (hf : dFormatOk a.desc = true) (hs : bitOf (dFlags a.desc) 1 = false) :
    ∃ f : FenceWait, h.applyFence a = { h with rings := { h.rings with fences := h.rings.fences ++ [f] } } ∧ f.q = a.q
      ∧ f.scope = (h.rings.openDescs.filter (fun o => decide (o.seq < a.seq) && o.q == a.q)).map (fun o => o.seq) := by
  unfold Hw.applyFence
  dsimp only
  rw [if_neg (by simp [hf])]
  refine ⟨_, rfl, rfl, ?_⟩
  simp [hs]

theorem applyCommit_stopped {h : Hw} {a : Admitted} {k : Nat} (hr : h.ex.running = false) (hf : dFormatOk a.desc = true)
    (ht : dField a.desc 0x10 2 = 1) (hk : k < 3) (hsw : h.cat.switches = [])
    (hother : ∀ j : Nat, j < 3 → j ≠ k → (h.trunk j).state ≠ .staged) (hst : (h.trunk k).state = .staged)
    (hd : (h.trunk k).damaged = false) (hh : hash16 (h.trunk k).hash = BitVec.ofNat 128 (dField a.desc 0x18 16)) :
    ∃ refs : Nat, h.applyCommit a =
      Hw.finish { h with cat := { h.cat with switches := [(true, 0, k)] } } a 0 k (BitVec.ofNat 64 refs) := by
  have hit : (slotRange true).find? (fun j => (h.vslot true 0 j).state == .staged && !(h.vslot true 0 j).damaged
      && hash16 (h.vslot true 0 j).hash == BitVec.ofNat 128 (dField a.desc 0x18 16)
      && !(h.cat.switches.any (fun x => x.1 == true && x.2.1 == 0 && x.2.2 == j))) = some k := by
    have miss (j : Nat) (hj : j < 3) (hne : j ≠ k) : ((h.vslot true 0 j).state == .staged) = false := by
      simpa [Hw.vslot] using hother j hj hne
    have hk' : (h.vslot true 0 k).state = .staged ∧ (h.vslot true 0 k).damaged = false
        ∧ hash16 (h.vslot true 0 k).hash = BitVec.ofNat 128 (dField a.desc 0x18 16) := ⟨hst, hd, hh⟩
    interval_cases k
    · simp [slotRange, hk', hsw]
    · simp [slotRange, hk', hsw, miss 0]
    · simp [slotRange, hk', hsw, miss 0, miss 1]
  unfold Hw.applyCommit
  dsimp only
  rw [if_neg (by simp [hf])]
  simp only [ht, decide_true, if_true, hit]
  rw [if_neg (by simp [hr]), if_neg (by simp [hr]), hsw]
  exact ⟨_, rfl⟩

theorem applyStage_noImage {h : Hw} {a : Admitted} (hf : dFormatOk a.desc = true) (hi : h.ex.image = none) :
    h.applyStage a = h.finish0 a stFormat := by
  simp [Hw.applyStage, hf, hi]

theorem applyStage_failed {h : Hw} {a : Admitted} {i : ImageFile} (hf : dFormatOk a.desc = true) (hi : h.ex.image = some i)
    (hp : a.payload = .package .failed) : h.applyStage a = h.finish0 a stAborted := by
  simp [Hw.applyStage, hf, hi, hp]

/-- Nothing is staged at the slot, so nothing is given up. -/
theorem giveUp_none {h : Hw} (hs : h.cat.staging = []) (trunk : Bool) (idx slot : Nat) : h.giveUp trunk idx slot = h := by
  rw [Hw.giveUp, hs]
  dsimp only [List.filter_nil, List.foldl_nil]
  rw [hs, List.filter_nil, ← hs]

theorem vslot_setVslot (h : Hw) {trunk : Bool} {idx slot k : Nat} (x : VSlot) (hk : k ∈ slotRange trunk) (hs : slot ∈ slotRange trunk) :
    (h.setVslot trunk idx slot x).vslot trunk idx k = if slot = k then x else h.vslot trunk idx k := by
  cases trunk with
  | true =>
    simp only [slotRange, if_true, List.mem_cons, List.not_mem_nil, or_false] at hk hs
    rcases hk with rfl | rfl | rfl <;> rcases hs with rfl | rfl | rfl <;> rfl
  | false =>
    simp only [slotRange, Bool.false_eq_true, if_false, List.mem_cons, List.not_mem_nil, or_false] at hk hs
    simp only [Hw.setVslot, Hw.vslot, Bool.false_eq_true, if_false, Hw.voice_setVoice, if_true]
    rcases hk with rfl | rfl <;> rcases hs with rfl | rfl <;> rfl

theorem setVslot_staging (h : Hw) (trunk : Bool) (idx slot : Nat) (x : VSlot) :
    (h.setVslot trunk idx slot x).cat.staging = h.cat.staging := by
  cases trunk with
  | false => rfl
  | true =>
    simp only [Hw.setVslot, if_true, Hw.setTrunk]
    split
    · rfl
    · split <;> rfl

theorem pickOf_mem (h : Hw) {l : List Nat} (hl : l ≠ []) : ∃ k ∈ l, h.pickOf l = some k := by
  have hlt : h.picks.headD 0 % l.length < l.length := Nat.mod_lt _ (List.length_pos_iff.mpr hl)
  exact ⟨_, List.getElem_mem hlt, List.getElem?_eq_getElem hlt⟩

/-- A sound package takes a FREE slot, and its staging completes nothing yet (R224). -/
theorem applyStage_takes {h : Hw} {a : Admitted} {i : ImageFile} {x : PackageData} (hf : dFormatOk a.desc = true)
    (hi : h.ex.image = some i) (hp : a.payload = .package (.ok x)) (hs : h.cat.staging = [])
    (hl : (readList .package (dField a.desc 0x18 4) x.list).isSome = true) (ho : h.packageOk i x.header = true)
    {trunk : Bool} (htr : trunk = decide (leField x.header 0x004 2 = 1)) {idx : Nat} (hidx : idx = if trunk then 0 else targetIndex (pkTarget x.header))
    (hfree : ∀ k ∈ slotRange trunk, (h.vslot trunk idx k).state = .free ∧ (h.vslot trunk idx k).damaged = false) :
    ∃ k ∈ slotRange trunk, ∃ g : Staging, h.applyStage a =
        { h.picked.setVslot trunk idx k { VSlot.reset with
            state := .staging, hash := pkHash x.header, length := leField x.header 0x010 8, key := pkKey x.header } with
          cat := { (h.picked.setVslot trunk idx k { VSlot.reset with
            state := .staging, hash := pkHash x.header, length := leField x.header 0x010 8, key := pkKey x.header }).cat with staging := [g] } }
      ∧ g.slot = k ∧ g.tag = dTag a.desc ∧ g.q = a.q ∧ g.trunk = trunk ∧ g.idx = idx ∧ g.hash = pkHash x.header
      ∧ g.restore = false ∧ g.verified = false := by
  have hrestore : (slotRange trunk).find? (fun k => (h.vslot trunk idx k).damaged && (h.vslot trunk idx k).hash == pkHash x.header) = none := by
    rw [List.find?_eq_none]
    intro k hk
    simp [hfree k hk]
  have hstaged (c : Nat → Bool) : (slotRange trunk).find? (fun k =>
      ((h.vslot trunk idx k).state == .staging || (h.vslot trunk idx k).state == .staged) && !c k) = none := by
    rw [List.find?_eq_none]
    intro k hk
    simp [hfree k hk]
  have hall : (slotRange trunk).filter (fun k => (h.vslot trunk idx k).state == .free) = slotRange trunk := by
    rw [List.filter_eq_self]
    intro k hk
    simp [hfree k hk]
  obtain ⟨k, hk, hpick⟩ := pickOf_mem h (l := slotRange trunk) (by cases trunk <;> decide)
  refine ⟨k, hk, ?_⟩
  unfold Hw.applyStage
  dsimp only
  rw [if_neg (by simp [hf]), hi, hp]
  dsimp only
  rw [if_neg (by simp [Option.isSome_iff_ne_none.mp hl, ho]), ← htr, ← hidx, hrestore, hstaged, hall, hpick]
  dsimp only
  simp only [Option.isNone_none, if_true]
  rw [giveUp_none (by exact hs), setVslot_staging, show h.picked.cat.staging = [] from hs]
  exact ⟨_, rfl, rfl, rfl, rfl, rfl, rfl, rfl, rfl, rfl⟩

/-- The end of a WEIGHT_STAGE that takes no slot. -/
theorem stage_ends {s : State} {q : Fin 256} {d : Desc} (hr : s.hw.ex.running = false) (hc : s.hw.canDecode q = true)
    (hu : (s.hw.queue q).urgent = 0) (ha : s.hw.rings.admitted = []) (hb : ∀ o ∈ s.hw.rings.openDescs, o.barrier = false)
    (ho : dOpcode d = opStage) (hm : s.hw.ex.mode ≠ .holding) (r : HostRead PackageData) (status : Nat)
    (he : (taken s.hw q d (.package r)).applyStage (s.hw.nextAdmitted q d (.package r)) =
      (taken s.hw q d (.package r)).finish0 (s.hw.nextAdmitted q d (.package r)) status) :
    ∃ t p, exec (.weightStage q d r) s = .next t ∧ t.hw.cat = s.hw.cat ∧ t.hw.rings.done = s.hw.rings.done ++ [p]
      ∧ p.r.status = BitVec.ofNat 8 status ∧ p.r.tag = dTag d := by
  obtain ⟨_, hdone, _⟩ := taken_kept s.hw q d (.package r)
  obtain ⟨p, hp, _, hst, htag, _⟩ := complete_pending (taken s.hw q d (.package r)) q s.hw.ex.seq (dOpcode d) (dTag d) (dHandle d) status 0 0
  refine ⟨{ s with hw := s.hw.decodeRow q (rowTakes opStage d) d (.package r) }, p, rfl, ?_⟩
  dsimp only
  rw [row_served hr hc hu ha hb ho hm (.inl rfl), applyOne_stage _ _ _ _ ho, he]
  exact ⟨taken_cat s.hw q d _, hdone ▸ hp, hst, htag⟩

/-- Settles O13: what no context serves completes with its status, and the three control descriptors are served at once. -/
theorem stoppedDescriptors : Obligations.StoppedDescriptors := by
  refine ⟨?_, ?_⟩
  · intro s q d hr hc hu ha hb
    have ends {op : Nat} (ho : dOpcode d = op) {b : Bool} (ht : b = true)
        (hop : s.hw.ex.mode = .holding ∨ (op ≠ 0 ∧ op ≤ 0x0E ∧ op ≠ opStage ∧ op ≠ opCommit ∧ op ≠ opFence)) (x : Payload) :=
      row_ends hr hc hu ha hb ho ht hop x
    have plain {op : Nat} (ho : dOpcode d = op)
        (hop : s.hw.ex.mode = .holding ∨ (op ≠ 0 ∧ op ≤ 0x0E ∧ op ≠ opStage ∧ op ≠ opCommit ∧ op ≠ opFence)) (x : Payload) :=
      Bool.and_true (rowTakes op d) ▸ ends ho (b := true) rfl hop x
    refine ⟨fun ho => plain ho (.inr (by decide)) _, fun ho r => plain ho (.inr (by decide)) _, fun ho r => plain ho (.inr (by decide)) _,
      fun ho r => plain ho (.inr (by decide)) _, fun ho => ends ho (by simp [Hw.urgentNext, hu]) (.inr (by decide)) _,
      fun ho => plain ho (.inr (by decide)) _, fun ho => plain ho (.inr (by decide)) _, fun ho r => plain ho (.inr (by decide)) _,
      fun ho hf r => ends ho (by simp [hf]) (.inr (by decide)) _, fun ho hf => ends ho (by simp [hf]) (.inr (by decide)) _,
      fun ho r => plain ho (.inr (by decide)) _, fun ho r => plain ho (.inr (by decide)) _, fun hm => ?_⟩
    exact ⟨fun ho r => plain ho (.inl hm) _, fun ho => plain ho (.inl hm) _, fun ho => plain ho (.inl hm) _⟩
  · intro s q d hr hm hc hu ha hb hf
    refine ⟨fun ho hs => ?_, fun ho ht k hk hsw hother hst hd hh => ?_, fun ho => ⟨fun hi r => ?_, fun hi => ?_, ?_⟩⟩
    · obtain ⟨f, e, hq, hscope⟩ := applyFence_eq (h := taken s.hw q d .none) (a := s.hw.nextAdmitted q d .none) hf hs
      obtain ⟨_, hdone, hfences, _⟩ := taken_kept s.hw q d .none
      refine ⟨{ s with hw := s.hw.decodeRow q (rowTakes opFence d) d .none }, f, rfl, ?_⟩
      dsimp only
      rw [row_served hr hc hu ha hb (op := opFence) ho hm (.inr (.inr rfl)), applyOne_fence _ _ _ _ ho, e]
      exact ⟨congrArg (· ++ [f]) hfences, hq, hscope.trans (taken_scope ..), hdone⟩
    · have hcat := taken_cat s.hw q d .none
      have hvs (j : Nat) : (taken s.hw q d .none).trunk j = s.hw.trunk j := by simp only [Hw.trunk, hcat]
      obtain ⟨_, hdone, _⟩ := taken_kept s.hw q d .none
      obtain ⟨refs, e⟩ := applyCommit_stopped (h := taken s.hw q d .none) (a := s.hw.nextAdmitted q d .none) (k := k)
        (by rw [taken_ex]; exact hr) hf ht hk (by rw [hcat]; exact hsw) (fun j hj hne => by rw [hvs]; exact hother j hj hne)
        (by rw [hvs]; exact hst) (by rw [hvs]; exact hd) (by rw [hvs]; exact hh)
      obtain ⟨p, hp, _, hps, _, _, hpd⟩ := complete_pending { taken s.hw q d .none with
        cat := { (taken s.hw q d .none).cat with switches := [(true, 0, k)] } } q s.hw.ex.seq (dOpcode d) (dTag d) 0 stDone k (BitVec.ofNat 64 refs)
      refine ⟨{ s with hw := s.hw.decodeRow q (rowTakes opCommit d) d .none }, p, rfl, ?_⟩
      dsimp only
      rw [row_served hr hc hu ha hb (op := opCommit) ho hm (.inr (.inl rfl)), applyOne_commit _ _ _ _ ho, e]
      exact ⟨congrArg (fun c : Catalogue => { c with switches := [(true, 0, k)] }) hcat, hp.trans (congrArg (· ++ [p]) hdone), hps, hpd⟩
    · exact stage_ends hr hc hu ha hb ho hm _ stFormat (applyStage_noImage hf (by rw [taken_ex]; exact hi))
    · obtain ⟨i, hi⟩ := Option.ne_none_iff_exists'.mp hi
      exact stage_ends hr hc hu ha hb ho hm _ stAborted (applyStage_failed hf (by rw [taken_ex]; exact hi) rfl)
    · intro i x hi hsg hsw hl hok trunk idx hfree
      have hcat := taken_cat s.hw q d (.package (.ok x))
      have hvs (j : Nat) : (taken s.hw q d (.package (.ok x))).vslot trunk idx j = s.hw.vslot trunk idx j := by
        simp only [Hw.vslot, Hw.trunk, Hw.voice, hcat]
      obtain ⟨hstr, hdone, _, _, hmem⟩ := taken_kept s.hw q d (.package (.ok x))
      obtain ⟨k, hk, g, e, hslot, htag, hq, htr, hidx, hhash, hres, hver⟩ :=
        applyStage_takes (h := taken s.hw q d (.package (.ok x))) (a := s.hw.nextAdmitted q d (.package (.ok x))) (i := i) (x := x) hf
          (by rw [taken_ex]; exact hi) rfl (by rw [hcat]; exact hsg) hl (by simpa only [Hw.packageOk, hmem] using hok)
          (trunk := trunk) rfl (idx := idx) rfl (fun k hk => by rw [hvs]; exact hfree k hk)
      refine ⟨{ s with hw := s.hw.decodeRow q (rowTakes opStage d) d (.package (.ok x)) }, g, rfl, hslot ▸ hk, ?_⟩
      dsimp only
      rw [row_served hr hc hu ha hb (op := opStage) ho hm (.inl rfl), applyOne_stage _ _ _ _ ho, e, hslot]
      have hother (j : Nat) (hj : j ∈ slotRange trunk) : _ := vslot_setVslot (taken s.hw q d (.package (.ok x))).picked (idx := idx)
        { VSlot.reset with state := .staging, hash := pkHash x.header, length := leField x.header 0x010 8, key := pkKey x.header } hj hk
      refine ⟨rfl, htag, hq, htr, hidx, hhash, hres, hver, (hother k hk).trans (if_pos rfl), fun j hj hne => ?_, ?_, ?_⟩
      · exact (hother j hj).trans ((if_neg (Ne.symm hne)).trans (hvs j))
      · exact (congrArg Rings.done (Hw.setVslot_rings ..)).trans hdone
      · exact (Hw.setVslot_streams ..).trans hstr

end Sys2Proof.Stopped
end

section
/-!
PROOF. The idle publication (O16).
-/
namespace Sys2Proof.IdleTime
open Sys2Proof.Machine

/-! ### What an idle publication leaves of the streams and of the descriptors that wait -/

/-- The streams, and the descriptors that wait for a boundary or behind a barrier. -/
def aside (h : Hw) : Table (Option Stream) × List Admitted := (h.streams, h.rings.admitted)

theorem aside_note (h : Hw) (e : LogEntry) : aside (h.note e) = aside h := by
  rw [aside, aside, Hw.note_streams, Hw.note_rings]

theorem aside_post (h : Hw) (w : HostWrite) : aside (h.post w) = aside h := by
  rw [aside, aside, Hw.post_streams, Hw.post_rings]

theorem aside_raise (h : Hw) (v : Nat) : aside (h.raise v) = aside h := by
  rw [aside, aside, Hw.raise_streams, Hw.raise_rings]

theorem aside_setVslot (h : Hw) (trunk : Bool) (idx slot : Nat) (x : VSlot) : aside (h.setVslot trunk idx slot x) = aside h := by
  rw [aside, aside, Hw.setVslot_streams, Hw.setVslot_rings]

theorem aside_portForce (h : Hw) (p : Nat) (x : Port) : aside (h.portForce p x) = aside h := by
  unfold Hw.portForce
  extract_lets old
  split
  · unfold Hw.portCause
    extract_lets y bit
    split
    · rfl
    · exact aside_note ..
  · split <;> rfl

/-- A latched item that comes into force concerns neither. -/
theorem aside_force (h : Hw) (x : LatchItem) : aside (h.force x) = aside h := by
  cases x with
  | policy off w =>
    simp only [Hw.force]
    split <;> rfl
  | aportCtl p w => exact aside_portForce ..
  | aportFmt p w => exact aside_portForce ..
  | aportMask p w => exact aside_portForce ..
  | retry p =>
    simp only [Hw.force]
    split
    · rfl
    · rfl
  | _ => rfl

theorem aside_latchPass (h : Hw) (f : LatchItem → Bool) : aside (h.latchPass f) = aside h :=
  foldl_keeps aside _ (fun g (e : Nat × LatchItem) => aside_force g e.2) _ _

theorem aside_coolBoundary (h : Hw) : aside h.coolBoundary = aside h := by
  unfold Hw.coolBoundary
  split <;> rfl

theorem aside_flushDrops (h : Hw) : aside h.flushDrops = aside h := by
  unfold Hw.flushDrops
  split
  · rfl
  · exact aside_note ..

theorem aside_commitRestores (h : Hw) : aside h.commitRestores = aside h := by
  refine foldl_keeps aside _ (fun g e => ?_) _ _
  exact aside_setVslot g.takeFree.2 e.trunk e.idx e.slot _

theorem aside_sweepFences (h : Hw) (f : FenceWait → Bool) : aside (h.sweepFences f) = aside h := by
  refine foldl_keeps aside _ (fun g e => ?_) _ _
  extract_lets pub opens
  split <;> rfl

theorem aside_writeRecords (ps : List Pending) (h : Hw) (q : Nat) (epoch : W64) : aside (h.writeRecords q epoch ps) = aside h := by
  induction ps generalizing h with
  | nil => rfl
  | cons p ps ih =>
    rw [Hw.writeRecords, ih]
    dsimp only
    split
    · exact aside_post ..
    · exact aside_post ..

theorem aside_publishQueue (h : Hw) (q : Nat) (epoch : W64) (new : List Pending) : aside (h.publishQueue q epoch new).2 = aside h := by
  unfold Hw.publishQueue
  extract_lets x all n now left h1 h2 _ h3
  have h2e : aside h2 = aside h := aside_writeRecords now h q epoch
  have h3e : aside h3 = aside h2 := by
    simp only [h3]
    split
    · rfl
    · exact aside_raise _ 511
  dsimp only
  split
  · exact h3e.trans h2e
  · exact (aside_raise ..).trans (h3e.trans h2e)

theorem aside_publishRecords (h : Hw) (epoch : W64) (positions : List HostWrite) : aside (h.publishRecords epoch positions) = aside h := by
  unfold Hw.publishRecords
  extract_lets d e tr qs _ g r g'
  have hr : aside r.2 = aside g :=
    foldl_keeps (fun x : List Nat × Hw => aside x.2) _ (fun a q => aside_publishQueue ..) _ _
  have hg : aside g' = aside r.2 := foldl_keeps aside _ aside_post _ _
  exact (foldl_keeps aside _ (fun a q => aside_post ..) _ _).trans (hg.trans hr)

theorem latchIdle_aside (h : Hw) : h.latchIdle.streams = h.streams ∧ (h.rings.admitted = [] → h.latchIdle.rings.admitted = []) := by
  obtain ⟨hs, ha⟩ := Prod.mk.inj (aside_latchPass h (fun x => !isTickWork x && !isPolicy x))
  rw [Hw.latchIdle, Reads.issueReads_admitted, ha]
  refine ⟨?_, fun hn => by rw [hn]; rfl⟩
  rw [← hs, Reads.issueReads_eq]

/-! ### Descriptors that waited behind a barrier -/

/-- What the descriptors of the idle time leave alone: the streams and the log entries that wait for a publication. -/
def still (h : Hw) : Table (Option Stream) × List LogEntry := (h.streams, h.log.pending)

theorem still_giveUp (h : Hw) (trunk : Bool) (idx slot : Nat) : still (h.giveUp trunk idx slot) = still h := by
  unfold Hw.giveUp
  extract_lets mine h1
  have e1 : still h1 = still h := foldl_keeps still _ (fun g e => by rfl) _ _
  exact e1

theorem still_setVslot (h : Hw) (trunk : Bool) (idx slot : Nat) (x : VSlot) : still (h.setVslot trunk idx slot x) = still h := by
  rw [still, still, Hw.setVslot_streams, Hw.setVslot_log]

theorem still_applyStage (h : Hw) (a : Admitted) : still (h.applyStage a) = still h := by
  unfold Hw.applyStage
  extract_lets d
  split
  · rfl
  · split
    · rfl
    · extract_lets b trunk idx cur _ restore staged free job
      split
      · rfl
      · split
        · exact (still_setVslot ..).trans (still_giveUp ..)
        · refine (still_setVslot ..).trans ((still_giveUp ..).trans ?_)
          split <;> rfl
        · rfl
    · rfl

theorem still_applyCommit {h : Hw} (hr : h.ex.running = false) (a : Admitted) : still (h.applyCommit a) = still h := by
  unfold Hw.applyCommit
  extract_lets d trunk idx hit refused
  split
  · rfl
  · split
    · rfl
    · split
      · rfl
      · rw [hr]
        rfl

theorem still_applyFence (h : Hw) (a : Admitted) : still (h.applyFence a) = still h := by
  unfold Hw.applyFence
  extract_lets d scope w
  split <;> rfl

theorem still_applyStopped {h : Hw} (hr : h.ex.running = false) (a : Admitted) : still (h.applyStopped a) = still h := by
  unfold Hw.applyStopped
  extract_lets op
  split
  · rfl
  · split
    · rfl
    · split
      · next hop =>
        simp only [Bool.or_eq_true, beq_iff_eq] at hop
        unfold Hw.applyOne
        rcases hop with (ho | ho) | ho <;> rw [show dOpcode a.desc = _ from ho]
        · exact still_applyStage ..
        · exact still_applyCommit (by exact hr) a
        · exact still_applyFence ..
      · rfl

/-- Descriptors that are handled in the idle time change no stream and leave nothing in the log to wait. -/
theorem still_drainStopped {h : Hw} (hr : h.ex.running = false) : still h.drainStopped = still h := by
  have hinv := foldl_inv (fun g : Hw => g.ex.running = false ∧ still g = still h) Hw.admitStopped (fun g a hg => by
    obtain ⟨hrun, hst⟩ := hg
    refine ⟨(congrArg Exec.running (ExecKept.ex_of_core (ExecKept.core_admitStopped g a))).trans hrun, ?_⟩
    rw [← hst, Hw.admitStopped]
    split
    · exact still_applyStopped hrun a
    · rfl) h.rings.admitted { h with rings := { h.rings with admitted := [] } } ⟨hr, rfl⟩
  exact hinv.2

theorem drainStopped_nil {h : Hw} (ha : h.rings.admitted = []) : h.drainStopped = h := by
  rw [Hw.drainStopped, ha, List.foldl_nil, ← ha]

/-! ### The idle publication -/

/-- The block as an idle publication comes to its records. -/
def idleBefore (h : Hw) : Hw := h.latchIdle.coolBoundary.flushDrops.commitRestores.sweepFences (fun _ => true)

theorem idleBefore_kept (h : Hw) : h.snap = (idleBefore h).snap ∧ (idleBefore h).ex.running = h.ex.running
    ∧ (idleBefore h).streams = h.streams ∧ (h.rings.admitted = [] → (idleBefore h).rings.admitted = []) := by
  have hcore : ExecKept.core (idleBefore h) = ExecKept.core h.latchIdle.coolBoundary := by
    simp [idleBefore]
  have haside : aside (idleBefore h) = aside h.latchIdle := by
    rw [idleBefore, aside_sweepFences, aside_commitRestores, aside_flushDrops, aside_coolBoundary]
  have hidle : ExecKept.core h.latchIdle = ExecKept.core h := ExecKept.core_latchIdle h
  obtain ⟨hex, hsnap⟩ := Prod.mk.inj hcore
  obtain ⟨hst, hadm⟩ := Prod.mk.inj haside
  obtain ⟨hex', hsnap'⟩ := Prod.mk.inj hidle
  obtain ⟨hs, ha⟩ := latchIdle_aside h
  have hcool : h.latchIdle.coolBoundary.ex.running = h.latchIdle.ex.running ∧ h.latchIdle.coolBoundary.snap = h.latchIdle.snap := by
    unfold Hw.coolBoundary
    split <;> exact ⟨rfl, rfl⟩
  refine ⟨by rw [hsnap, hcool.2, hsnap'], by rw [hex, hcool.1, hex'], hst.trans hs, fun hn => hadm.trans (ha hn)⟩

/-- Publishing the records and the snapshot at an idle point, ahead of what waited behind a barrier. -/
def idlePublished (g : Hw) : Hw := (((g.publishRecords stoppedEpoch []).flushLog.snapshot stoppedEpoch)).sendMsix

theorem idlePublished_spec (g : Hw) : (idlePublished g).snap.epoch = stoppedEpoch ∧ (idlePublished g).snap.pubCount = g.snap.pubCount + 1
    ∧ (idlePublished g).ex = g.ex ∧ aside (idlePublished g) = aside g ∧ (idlePublished g).log.pending = []
    ∧ (idlePublished g).rings.done = [] ∧ (idlePublished g).rings.events = [] ∧ (idlePublished g).link.raise = [] := by
  obtain ⟨hdone, hevents⟩ := Prod.mk.inj (ExecKept.composed_publishRecords g stoppedEpoch [])
  have haside := aside_publishRecords g stoppedEpoch []
  obtain ⟨hex, hsnap⟩ := Prod.mk.inj (ExecKept.core_publishRecords g stoppedEpoch [])
  unfold idlePublished
  generalize g.publishRecords stoppedEpoch [] = p at *
  obtain ⟨m, l, e⟩ := ExecKept.sendMsix_frame (p.flushLog.snapshot stoppedEpoch)
  rw [e]
  exact ⟨rfl, congrArg (fun s : Snapshot => s.pubCount + 1) hsnap, hex, haside, rfl, hdone, hevents, rfl⟩

/-- Settles O16: the publication first, and then the descriptors that waited behind a barrier. -/
theorem idlePublicationPublishes : Obligations.IdlePublicationPublishes := by
  intro s hd hr
  obtain ⟨hsnap, hrun, hstr, hadm⟩ := idleBefore_kept s.hw
  obtain ⟨hepoch, hcount, hex, haside, hlog, hdone, hevents, hraise⟩ := idlePublished_spec (idleBefore s.hw)
  obtain ⟨hstr', hadm'⟩ := Prod.mk.inj haside
  have hrun' : (idlePublished (idleBefore s.hw)).ex.running = false := by rw [hex, hrun, hr]
  obtain ⟨dst, dlog⟩ := Prod.mk.inj (still_drainStopped hrun')
  obtain ⟨dex, dsnap⟩ := Prod.mk.inj (ExecKept.core_drainStopped (idlePublished (idleBefore s.hw)))
  have e : s.hw.idlePublish = (idlePublished (idleBefore s.hw)).drainStopped := by
    rw [Hw.idlePublish, if_neg (by simp [hd, hr])]
    rfl
  refine ⟨{ s with hw := s.hw.idlePublish }, rfl, ?_⟩
  dsimp only
  rw [e, dsnap, dex, dst, dlog]
  refine ⟨hepoch, by rw [hcount, hsnap], hrun', hstr'.trans hstr, hlog, fun ha => ?_⟩
  have hnil := hadm'.trans (hadm ha)
  rw [drainStopped_nil hnil]
  exact ⟨hdone, hevents, hraise, hnil⟩

end Sys2Proof.IdleTime
end

section
/-!
PROOF. Waiting records and FENCEs (O17).
-/
namespace Sys2Proof.Waiting
open Sys2Proof.Machine

/-! ### Records that waited for entries -/

theorem queue_post (h : Hw) (w : HostWrite) (k : Nat) : (h.post w).queue k = h.queue k := by
  rw [Hw.queue, Hw.post_qs]
  rfl

theorem writeRecords_other (ps : List Pending) (h : Hw) {q k : Nat} (hk : k ≠ q) (epoch : W64) :
    (h.writeRecords q epoch ps).queue k = h.queue k := by
  induction ps generalizing h with
  | nil => rfl
  | cons p ps ih =>
    rw [Hw.writeRecords, ih]
    dsimp only
    split
    · rw [Hw.queue_setQueue, if_neg hk.symm, queue_post]
    · refine Eq.trans (b := Hw.queue (Hw.setQueue _ q _) k) rfl ?_
      rw [Hw.queue_setQueue, if_neg hk.symm, queue_post]

/-- One record moves the tail on by one, and the reported head to the fetch position. -/
def recorded (x : QueuePair) : QueuePair :=
  { x with cqTail := BitVec.ofNat 16 ((x.cqTail.toNat + 1) % 2 ^ x.cqLog.toNat), head := x.fetch }

theorem writeRecords_own (ps : List Pending) (h : Hw) (q : Nat) (epoch : W64) :
    (h.writeRecords q epoch ps).queue q = recorded^[ps.length] (h.queue q) := by
  induction ps generalizing h with
  | nil => rfl
  | cons p ps ih =>
    rw [Hw.writeRecords, ih, List.length_cons, Function.iterate_succ_apply]
    congr 1
    dsimp only
    split
    · rw [Hw.queue_setQueue, if_pos rfl]
      rfl
    · refine Eq.trans (b := Hw.queue (Hw.setQueue _ q _) q) rfl ?_
      rw [Hw.queue_setQueue, if_pos rfl]
      rfl

theorem recorded_iterate (n : Nat) (x : QueuePair) : (recorded^[n] x).waiting = x.waiting ∧ (recorded^[n] x).dropped = x.dropped
    ∧ (recorded^[n] x).cqLog = x.cqLog := by
  induction n generalizing x with
  | zero => exact ⟨rfl, rfl, rfl⟩
  | succ n ih => exact ih (recorded x)

theorem recorded_cqTail {x : QueuePair} (hl : x.cqLog.toNat ≤ 16) :
    (recorded x).cqTail.toNat = (x.cqTail.toNat + 1) % 2 ^ x.cqLog.toNat := by
  have hpow : 2 ^ x.cqLog.toNat ≤ 2 ^ 16 := Nat.pow_le_pow_right (by norm_num) hl
  have hlt : (x.cqTail.toNat + 1) % 2 ^ x.cqLog.toNat < 2 ^ x.cqLog.toNat := Nat.mod_lt _ (Nat.two_pow_pos _)
  exact Nat.mod_eq_of_lt (hlt.trans_le hpow)

theorem recorded_tail {x : QueuePair} (hl : x.cqLog.toNat ≤ 16) (n : Nat) :
    (recorded^[n + 1] x).cqTail.toNat = (x.cqTail.toNat + (n + 1)) % 2 ^ x.cqLog.toNat := by
  induction n generalizing x with
  | zero => exact recorded_cqTail hl
  | succ n ih =>
    have e := ih (x := recorded x) hl
    rw [recorded_cqTail hl, show (recorded x).cqLog = x.cqLog from rfl, Nat.mod_add_mod] at e
    rw [Function.iterate_succ_apply, e, Nat.add_assoc, Nat.add_comm 1]

theorem satAdd_zero {n : Nat} (x : BitVec n) : satAdd x 0 = x := by
  apply BitVec.eq_of_toNat_eq
  have := x.isLt
  rw [satAdd, Nat.add_zero, Nat.min_eq_left (by omega), BitVec.toNat_ofNat, Nat.mod_eq_of_lt this]

theorem queue_raise (h : Hw) (v k : Nat) : (h.raise v).queue k = h.queue k := by
  rw [Hw.queue, Hw.raise_qs]
  rfl

/-- Waiting records that fit are written in order, and none of them waits any more (R262). -/
theorem publishQueue_fits {h : Hw} {q : Nat} (hw : (h.queue q).waiting ≠ []) (hn : (h.queue q).waiting.length ≤ freeEntries (h.queue q))
    (epoch : W64) :
    (h.publishQueue q epoch []).1 = true
    ∧ (∀ k, k ≠ q → (h.publishQueue q epoch []).2.queue k = h.queue k)
    ∧ (h.publishQueue q epoch []).2.queue q = { recorded^[(h.queue q).waiting.length] (h.queue q) with
        waiting := [], overflow := (recorded^[(h.queue q).waiting.length] (h.queue q)).overflow || false } := by
  unfold Hw.publishQueue
  extract_lets x all n now left h1 h2 _ h3
  have hall : all = (h.queue q).waiting := List.append_nil _
  have hnow : now = (h.queue q).waiting := by rw [← hall]; exact List.take_of_length_le (by rw [hall]; exact hn)
  have hleft : left = ([], 0) := by
    show capEvents 1024 (all.drop n) = _
    rw [List.drop_of_length_le (by rw [hall]; exact hn)]
    rfl
  have hne : now.isEmpty = false := by rw [hnow]; simpa using hw
  have h3e : h3 = h2 := by simp only [h3, hleft, if_true]
  have hown : h1.queue q = recorded^[(h.queue q).waiting.length] (h.queue q) := by
    rw [← hnow]
    exact writeRecords_own ..
  have hother (k : Nat) (hk : k ≠ q) : h2.queue k = h.queue k := by
    refine (Hw.queue_setQueue ..).trans ((if_neg hk.symm).trans ?_)
    exact writeRecords_other _ _ hk _
  have hq : h2.queue q = { h1.queue q with waiting := [], dropped := satAdd (h1.queue q).dropped 0, overflow := (h1.queue q).overflow || false } := by
    refine (Hw.queue_setQueue ..).trans ((if_pos rfl).trans ?_)
    rw [hleft]
    rfl
  simp only [hne, Bool.not_false, Bool.false_eq_true, if_false, queue_raise, h3e, true_and]
  refine ⟨hother, ?_⟩
  rw [hq, hown, satAdd_zero]

/-- A FENCE that waits for nothing any more composes its completion (R290). -/
theorem sweepFences_ends {h : Hw} {f : FenceWait} (hf : h.rings.fences = [f]) {b : FenceWait → Bool} (hb : b f = true)
    (hscope : ∀ n ∈ f.scope, ∀ o ∈ h.rings.openDescs, o.seq ≠ n) :
    ∃ o, h.sweepFences b = Hw.complete { h with rings := { h.rings with fences := [], openDescs := o } }
      f.q f.seq opFence f.tag 0 stDone (min f.count 65535) 0 := by
  have hall : f.scope.all (fun n => !(n ∈ h.rings.openDescs.map (fun o => o.seq)) || n ∈ h.willPublish) = true := by
    rw [List.all_eq_true]
    intro n hn
    simp only [List.mem_map, not_exists, not_and, Bool.or_eq_true, Bool.not_eq_true', decide_eq_false_iff_not, decide_eq_true_eq]
    exact .inl fun o ho => hscope n hn o ho
  have hgone : [f].filter (fun x => x.seq != f.seq) = [] := by simp
  unfold Hw.sweepFences
  rw [hf, List.foldl_cons, List.foldl_nil]
  dsimp only
  rw [if_pos (by rw [hb]; exact hall), hf, hgone]
  exact ⟨_, rfl⟩

/-- Settles O17: the records of the idle time queue by queue; a FENCE by its scope. -/
theorem waitingRecordsAndFences : Obligations.WaitingRecordsAndFences := by
  refine ⟨?_, ?_, ?_⟩
  · intro s q hd hr hon hlog hw hn
    obtain ⟨hb, hother, hq⟩ := publishQueue_fits hw hn stoppedEpoch
    have hpub : s.hw.publishWaiting q =
        ((s.hw.publishQueue q stoppedEpoch []).2.post ((s.hw.publishQueue q stoppedEpoch []).2.statusLine q stoppedEpoch)).sendMsix := by
      rw [Hw.publishWaiting, if_neg (by simp [hd, hr, hon])]
      dsimp only
      rw [if_pos hb]
    have hqueue (k : Nat) : (s.hw.publishWaiting q).queue k = (s.hw.publishQueue q stoppedEpoch []).2.queue k := by
      obtain ⟨m, p, e⟩ := ExecKept.sendMsix_frame
        ((s.hw.publishQueue q stoppedEpoch []).2.post ((s.hw.publishQueue q stoppedEpoch []).2.statusLine q stoppedEpoch))
      rw [hpub, e]
      exact queue_post ..
    have hstr : (s.hw.publishWaiting q).streams = s.hw.streams := by
      obtain ⟨m, p, e⟩ := ExecKept.sendMsix_frame
        ((s.hw.publishQueue q stoppedEpoch []).2.post ((s.hw.publishQueue q stoppedEpoch []).2.statusLine q stoppedEpoch))
      rw [hpub, e]
      exact (Hw.post_streams ..).trans (congrArg Prod.fst (IdleTime.aside_publishQueue s.hw q stoppedEpoch []))
    obtain ⟨n, hlen⟩ := Nat.exists_eq_succ_of_ne_zero (List.length_pos_iff.mpr hw).ne'
    obtain ⟨_, hdropped, hcq⟩ := recorded_iterate (s.hw.queue q).waiting.length (s.hw.queue q)
    refine ⟨{ s with hw := s.hw.publishWaiting q }, rfl, ?_⟩
    dsimp only
    rw [hqueue, hq]
    refine ⟨rfl, ?_, hdropped, fun k hk => (hqueue k).trans (hother k hk), hstr⟩
    dsimp only
    rw [hlen]
    exact recorded_tail hlog n
  · intro s q hr
    have e : s.hw.publishWaiting q = s.hw := by
      rw [Hw.publishWaiting, if_pos (by simp [hr])]
    exact congrArg (fun g : Hw => (Host.Outcome.next { s with hw := g } : Host.Outcome State Fault Refusal)) e
  · intro s q f hd hf hq hscope
    obtain ⟨o, e⟩ := sweepFences_ends hf (b := fun w => w.q == q.val) (by simp [hq]) hscope
    obtain ⟨p, hdone, hpq, hst, htag, _, hd0⟩ := Stopped.complete_pending { s.hw with rings := { s.hw.rings with fences := [], openDescs := o } }
      f.q f.seq opFence f.tag 0 stDone (min f.count 65535) 0
    have hexec : exec (.fenceComplete q) s = .next { s with hw := s.hw.sweepFences (fun w => w.q == q.val) } := by
      show Host.Outcome.next { s with hw := if s.hw.decodes then s.hw.sweepFences (fun w => w.q == q.val) else s.hw } = _
      rw [if_pos hd]
    refine ⟨_, p, hexec, ?_⟩
    dsimp only
    rw [e]
    exact ⟨rfl, hdone, hpq.trans hq, hst, htag, hd0, rfl⟩

end Sys2Proof.Waiting
end

section
/-!
PROOF. The throttle, the trip and the watchdog (O55).
-/
namespace Sys2Proof.Throttle
open Sys2Proof.Machine

/-! ### Throttle steps -/

theorem stepDown_steps {h : Hw} {c : Nat} (hh : h.holders c ≠ []) (hl : h.lowest (h.holders c) + 2 ≤ h.mOf c) :
    h.stepDown c = h.setM c (h.mOf c - 2) := by
  simp [Hw.stepDown, hh, hl]

theorem stepDown_stays {h : Hw} {c : Nat} (hh : h.holders c = [] ∨ h.mOf c < h.lowest (h.holders c) + 2) : h.stepDown c = h := by
  rcases hh with hh | hh
  · simp [Hw.stepDown, hh]
  · simp [Hw.stepDown, Nat.not_le.mpr hh]

theorem stepsUp_eq_true {h : Hw} {c : Nat} (hw : h.wardenOn = true) (he : h.enginesOn = true) (hh : h.holders c = [])
    (hc : h.war.capActive = false) (hd : h.diodeHot = false) : h.stepsUp c = true := by
  simp [Hw.stepsUp, hw, he, hh, hc, hd]

theorem stepsUp_eq_false {h : Hw} {c : Nat} (hh : h.holders c ≠ [] ∨ h.war.capActive = true ∨ h.diodeHot = true) : h.stepsUp c = false := by
  rcases hh with hh | hh | hh <;> simp [Hw.stepsUp, hh]

/-! ### Every cluster in turn -/

/-- The block with other throttle values. -/
def withM (h : Hw) (t : Table Nat) : Hw := { h with war := { h.war with m := t } }

/-- A pass that treats each cluster by its own value alone. -/
theorem eachCluster {h : Hw} {f : Hw → Nat → Hw} {p : Nat → Prop} [DecidablePred p] {new : Nat → Nat}
    (hf : ∀ t c, f (withM h t) c = if p (tget 16 t c) then withM h (tput 16 t c (new (tget 16 t c))) else withM h t)
    {l : List Nat} (hl : l.Nodup) (t : Table Nat) :
    ∃ u, l.foldl f (withM h t) = withM h u
      ∧ ∀ k, tget 16 u k = if k ∈ l ∧ p (tget 16 t k) then new (tget 16 t k) else tget 16 t k := by
  induction l generalizing t with
  | nil => exact ⟨t, rfl, fun k => by simp⟩
  | cons c l ih =>
    obtain ⟨hc, hl⟩ := List.nodup_cons.mp hl
    rw [List.foldl_cons, hf]
    split
    · next hp =>
      obtain ⟨u, e, hu⟩ := ih hl (tput 16 t c (new (tget 16 t c)))
      refine ⟨u, e, fun k => ?_⟩
      rw [hu, tget_tput]
      by_cases hk : c = k
      · subst hk
        simp [hc, hp]
      · simp [hk, Ne.symm hk]
    · next hp =>
      obtain ⟨u, e, hu⟩ := ih hl t
      refine ⟨u, e, fun k => ?_⟩
      rw [hu]
      by_cases hk : c = k
      · subst hk
        simp [hc, hp]
      · simp [Ne.symm hk]

theorem capStep_spec {h : Hw} (hw : h.wardenOn = true) (he : h.enginesOn = true) (ha : h.aboveCap = true) :
    ∃ u, h.capStep = withM { h with war := { h.war with capActive := true, overCap := true } } u
      ∧ ∀ k, k < 8 → tget 16 u k = if h.floor + 2 ≤ h.mOf k then h.mOf k - 2 else h.mOf k := by
  obtain ⟨u, e, hu⟩ := eachCluster (h := { h with war := { h.war with capActive := true, overCap := true } })
    (f := fun a c => if a.floor + 2 ≤ a.mOf c then a.setM c (a.mOf c - 2) else a) (p := fun m => h.floor + 2 ≤ m) (new := fun m => m - 2)
    (fun _ _ => rfl) (List.nodup_range (n := 8)) h.war.m
  refine ⟨u, ?_, fun k hk => ?_⟩
  · rw [Hw.capStep, if_pos (by simp [hw, he, ha])]
    exact e
  · rw [hu]
    simp only [List.mem_range, hk, true_and]
    rfl

/-! ### The hardware trip (R357) -/

theorem tripM (h : Hw) : ∃ u, (List.range 8).foldl (fun a c => a.setM c 1) h = withM h u ∧ ∀ k, k < 8 → tget 16 u k = 1 := by
  obtain ⟨u, e, hu⟩ := eachCluster (h := h) (f := fun a c => a.setM c 1) (p := fun _ => True) (new := fun _ => 1)
    (fun _ _ => rfl) (List.nodup_range (n := 8)) h.war.m
  exact ⟨u, e, fun k hk => by rw [hu]; simp [hk]⟩

theorem decideSafe_running {h : Hw} (hr : h.ex.running = true) : h.decideSafe.ex = { h.ex with safePlan := some (h.ex.safePlan.getD 0) } := by
  unfold Hw.decideSafe
  dsimp only
  rw [if_pos hr]
  cases hp : h.ex.safePlan with
  | none => rfl
  | some c =>
    rw [if_pos (by rfl)]
    exact hp ▸ rfl

theorem decideSafe_stopped {h : Hw} (hr : h.ex.running = false) : h.decideSafe.war.safe = true ∧ h.decideSafe.ex.running = false
    ∧ h.decideSafe.ex.start = .none ∧ (h.ex.mode ≠ .asleep → h.pwr.booted = true → h.decideSafe.ex.mode = .safe) := by
  unfold Hw.decideSafe
  dsimp only
  rw [if_neg (by simp [hr])]
  split
  · next hc =>
    refine ⟨rfl, hr, rfl, fun hm hb => ?_⟩
    simp [hm, hb] at hc
  · rw [Hw.setMode_war, Hw.setMode_ex]
    exact ⟨rfl, hr, rfl, fun _ _ => rfl⟩

/-- Deciding SAFE touches neither the streams, the throttle, the trip nor the channels. -/
theorem decideSafe_kept (h : Hw) : h.decideSafe.streams = h.streams ∧ h.decideSafe.ex.running = h.ex.running
    ∧ h.decideSafe.war = { h.war with safeClear := 0, safe := h.decideSafe.war.safe } := by
  unfold Hw.decideSafe
  dsimp only
  split
  · split <;> exact ⟨rfl, rfl, rfl⟩
  · split
    · exact ⟨rfl, rfl, rfl⟩
    · rw [Hw.setMode_war, Hw.setMode_ex, Hw.setMode_streams]
      exact ⟨rfl, rfl, rfl⟩

/-- The trip of a module whose rails are on: every cluster at 1, and SAFE decided. -/
theorem trip_eq {h : Hw} (hp : h.pwr.railsOn = true) :
    ∃ u, h.trip = ({ withM h u with war := { h.war with m := u, hwTrip := true } } : Hw).decideSafe ∧ ∀ k, k < 8 → tget 16 u k = 1 := by
  obtain ⟨u, e, hu⟩ := tripM h
  refine ⟨u, ?_, hu⟩
  rw [Hw.trip, if_neg (by simp [hp]), e]
  rfl

theorem trip_off {h : Hw} (hp : h.pwr.railsOn = false) : h.trip = h := by simp [Hw.trip, hp]

/-! ### The control watchdog (R376) -/

theorem watchdog_spec {h : Hw} (hw : h.wardenOn = true) (hr : h.ex.running = true) :
    let g := h.watchdog
    g.ex.running = false ∧ g.ex.mode = .safe ∧ g.ex.fault = 0x0A ∧ g.war.stuckSafe = true ∧ g.pwr.forcedSafe = true
    ∧ g.pwr.masterBclk = false ∧ g.streams = [] := by
  unfold Hw.watchdog
  rw [if_neg (by simp [hw, hr])]
  extract_lets own _ g0 g1 _ _ _ _ g2
  have hrun : g0.ex.running = false := congrArg Exec.running (ExecKept.closed_halted _).1
  have hstr : g0.streams = [] := (ExecKept.closed_halted _).2.2
  clear_value g0
  have hg : g2.ex.running = false ∧ g2.ex.fault = 0x0A ∧ g2.war.stuckSafe = true ∧ g2.pwr.forcedSafe = true
      ∧ g2.pwr.masterBclk = false ∧ g2.streams = [] := ⟨hrun, rfl, rfl, rfl, rfl, hstr⟩
  clear_value g2
  obtain ⟨e1, e2, e3, e4, e5, e6⟩ := hg
  rw [Hw.setMode_ex, Hw.setMode_war, Hw.setMode_pwr, Hw.setMode_streams, Firmware.saveRecord_frame]
  exact ⟨e1, rfl, e2, e3, e4, e5, e6⟩

/-- Settles O55: each step of the throttle, the trip and the watchdog. -/
theorem throttleAndTrip : Obligations.ThrottleAndTrip := by
  have hnext (s : State) {g g' : Hw} (e : g = g') :
      (Host.Outcome.next { s with hw := g } : Host.Outcome State Fault Refusal) = .next { s with hw := g' } := by rw [e]
  refine ⟨?_, ?_⟩
  · intro s c hw he
    have dwell : exec (.throttleDwell c) s = .next { s with hw := s.hw.stepDown c } :=
      hnext s (if_pos (by simp [hw, he]))
    refine ⟨fun hh hl => dwell.trans (hnext s (stepDown_steps hh hl)), fun hh => dwell.trans (hnext s (stepDown_stays hh)),
      fun hh hc hd => hnext s (if_pos (stepsUp_eq_true hw he hh hc hd)),
      fun hh => hnext s (if_neg (by simp [stepsUp_eq_false hh])), fun ha => ?_, fun ha => ?_⟩
    · obtain ⟨u, e, hu⟩ := capStep_spec hw he ha
      refine ⟨{ s with hw := s.hw.capStep }, rfl, ?_⟩
      dsimp only
      rw [e]
      exact ⟨hu, rfl, rfl, rfl, rfl⟩
    · exact hnext s (if_neg (by simp [ha]))
  · intro s d
    have htrip : exec (.hardwareTrip d) s = .next { s with hw := s.hw.trip } := hnext s (if_pos d.isLt)
    refine ⟨fun hp => ?_, fun hp => htrip.trans (hnext s (trip_off hp)), fun hw hr => ?_⟩
    · obtain ⟨u, e, hu⟩ := trip_eq hp
      obtain ⟨hstr, _, hwar⟩ := decideSafe_kept { withM s.hw u with war := { s.hw.war with m := u, hwTrip := true } }
      refine ⟨{ s with hw := s.hw.trip }, htrip, ?_⟩
      dsimp only
      rw [e]
      refine ⟨fun c hc => ?_, ?_, fun hr => decideSafe_running hr, fun hr => decideSafe_stopped hr, hstr⟩
      · rw [Hw.mOf, hwar]
        exact hu c hc
      · rw [hwar]
    · exact ⟨{ s with hw := s.hw.watchdog }, rfl, watchdog_spec hw hr⟩

end Sys2Proof.Throttle
end

section
/-!
PROOF. A Warden scan (O54).
-/
namespace Sys2Proof.Scan
open Sys2Proof.Machine

/-! ### One channel after another (R345, R348) -/

/-- The block with other channels. -/
def withChans (h : Hw) (t : Table Channel) : Hw := { h with war := { h.war with chans := t } }

theorem sense_withChans (h : Hw) (codes : List W16) (t : Table Channel) (k : Nat) : ∃ c, (∃ u, Hw.sense (withChans h t) codes k = withChans h u
      ∧ ∀ n, tget Channel.reset u n = if k = n then c else tget Channel.reset t n)
    ∧ (h.samples k = true → c = (tget Channel.reset t k).scan (tget 0 h.war.policyNow k).toNat (h.code codes k)) := by
  unfold Hw.sense
  have hs : (withChans h t).samples k = h.samples k := rfl
  rw [hs]
  by_cases h1 : h.samples k = true
  · rw [if_pos h1]
    exact ⟨_, ⟨_, rfl, fun n => tget_tput _ _ _ _ _⟩, fun _ => rfl⟩
  · rw [if_neg h1]
    split
    · exact ⟨_, ⟨_, rfl, fun n => tget_tput _ _ _ _ _⟩, fun h => absurd h h1⟩
    · exact ⟨tget Channel.reset t k, ⟨t, rfl, fun n => by split <;> simp_all⟩, fun h => absurd h h1⟩

/-- A scan of the channels runs each one's filter once. -/
theorem senseAll (h : Hw) (codes : List W16) {l : List Nat} (hl : l.Nodup) (t : Table Channel) :
    ∃ u, l.foldl (fun a n => a.sense codes n) (withChans h t) = withChans h u ∧ (∀ n, n ∉ l → tget Channel.reset u n = tget Channel.reset t n)
      ∧ ∀ n ∈ l, h.samples n = true →
        tget Channel.reset u n = (tget Channel.reset t n).scan (tget 0 h.war.policyNow n).toNat (h.code codes n) := by
  induction l generalizing t with
  | nil => exact ⟨t, rfl, fun _ _ => rfl, fun n hn => by cases hn⟩
  | cons k l ih =>
    obtain ⟨hk, hl⟩ := List.nodup_cons.mp hl
    obtain ⟨c, ⟨u, e, hu⟩, hc⟩ := sense_withChans h codes t k
    obtain ⟨v, ev, hout, hin⟩ := ih hl u
    rw [List.foldl_cons, e]
    refine ⟨v, ev, fun n hn => ?_, fun n hn hs => ?_⟩
    · obtain ⟨hne, hnl⟩ := not_or.mp (List.mem_cons.not.mp hn)
      rw [hout n hnl, hu, if_neg (Ne.symm hne)]
    · rcases List.mem_cons.mp hn with rfl | hn
      · rw [hout n hk, hu, if_pos rfl, hc hs]
      · have hne : k ≠ n := fun e => hk (e ▸ hn)
        rw [hin n hn hs, hu, if_neg hne]

/-! ### The median of equal codes -/

theorem insertBy_replicate (key : Int → Nat) (n : Nat) (x : Int) : insertBy key x (List.replicate n x) = List.replicate (n + 1) x := by
  induction n with
  | zero => rfl
  | succ n ih =>
    rw [List.replicate_succ, insertBy, if_neg (lt_irrefl _), ih]
    rfl

theorem sortBy_replicate (key : Int → Nat) (n : Nat) (x : Int) : sortBy key (List.replicate n x) = List.replicate n x := by
  have hfold (m : Nat) : (List.replicate n x).foldl (fun a y => insertBy key y a) (List.replicate m x) = List.replicate (m + n) x := by
    induction n generalizing m with
    | zero => rfl
    | succ n ih =>
      rw [List.replicate_succ, List.foldl_cons, insertBy_replicate, ih, Nat.add_assoc, Nat.add_comm 1]
  exact (hfold 0).trans (by rw [Nat.zero_add])

theorem median_replicate {n : Nat} (hn : 0 < n) (x : Int) : median (List.replicate n x) = x := by
  rw [median, sortBy_replicate, List.length_replicate, List.getD_eq_getElem?_getD, List.getElem?_replicate, if_pos (by omega)]
  rfl

/-! ### The coolant channels, the rules, the input and the cap -/

/-- What a channel's reading is: its raw code, filter and output, and that it is sampled. -/
def reading (c : Channel) : Int × Int × Int × Bool := (c.raw, c.y, c.filtered, c.sampled)

theorem reading_coolant (c : Channel) : reading c.coolant = reading c := by
  unfold Channel.coolant
  split
  · rfl
  · split <;> rfl

/-- What the rest of a scan leaves as the filters left it. -/
def seen (h : Hw) : Table Channel × W32 × W16 × Table W32 × Table (Option Stream) × Bool :=
  (h.war.chans, h.war.scans, h.war.refEvents, h.war.policy, h.streams, h.ex.running)

theorem coolants_spec (h : Hw) : (∀ n, reading (h.coolants.chan n) = reading (h.chan n)) ∧ h.coolants.war.scans = h.war.scans
    ∧ h.coolants.war.policy = h.war.policy ∧ h.coolants.streams = h.streams ∧ h.coolants.ex = h.ex ∧ h.coolants.pwr = h.pwr := by
  refine ⟨fun n => ?_, rfl, rfl, rfl, rfl, rfl⟩
  have e : h.coolants.chan n = ((h.setChan 0x78 (h.chan 0x78).coolant).setChan 0x79
      ((h.setChan 0x78 (h.chan 0x78).coolant).chan 0x79).coolant).chan n := rfl
  rw [e]
  simp only [Hw.chan, Hw.setChan, tget_tput]
  split
  · next hn => rw [reading_coolant, ← hn]; rfl
  · split
    · next hn => rw [reading_coolant, ← hn]
    · rfl

theorem seen_note (h : Hw) (e : LogEntry) : seen (h.note e) = seen h := by
  rw [seen, seen, Hw.note_war, Hw.note_streams, Hw.note_ex]

theorem seen_setMode (h : Hw) (m : DevMode) (cause : Nat) : seen (h.setMode m cause) = seen h := by
  rw [seen, seen, Hw.setMode_war, Hw.setMode_streams, Hw.setMode_ex]

theorem seen_decideSafe (h : Hw) : seen h.decideSafe = seen h := by
  obtain ⟨hs, hr, hw⟩ := Throttle.decideSafe_kept h
  rw [seen, seen, hs, hr, hw]

theorem seen_trip (h : Hw) : seen h.trip = seen h := by
  by_cases hp : h.pwr.railsOn = true
  · obtain ⟨u, e, _⟩ := Throttle.trip_eq hp
    rw [e, seen_decideSafe]
    rfl
  · rw [Throttle.trip_off (by simpa using hp)]

theorem seen_stepDown (h : Hw) (c : Nat) : seen (h.stepDown c) = seen h := by
  unfold Hw.stepDown
  extract_lets rs
  split <;> rfl

theorem seen_ruleActions (h : Hw) (old : Nat → RuleRun) : seen (h.ruleActions old) = seen h := by
  unfold Hw.ruleActions
  extract_lets is wakes fresh _ g0 g1 hit g2
  have e1 : seen g1 = seen g0 := by
    refine foldl_keeps seen _ (fun a i => ?_) _ _
    extract_lets r
    split
    · exact seen_note ..
    · rfl
  have e2 : seen g2 = seen g1 := by
    refine foldl_keeps seen _ (fun a c => ?_) _ _
    split
    · exact seen_stepDown ..
    · rfl
  exact e2.trans e1

theorem seen_withRules (h : Hw) (t : Table RuleRun) : seen { h with war := { h.war with rules := t } } = seen h := rfl

theorem seen_rules (h : Hw) : seen h.rules = seen h := by
  rw [Hw.rules, seen_ruleActions, seen_withRules]

theorem seen_ite (p : Prop) [Decidable p] (a b : Hw) : seen (if p then a else b) = if p then seen a else seen b := apply_ite ..

theorem seen_inputScan (h : Hw) : seen h.inputScan = seen h := by
  unfold Hw.inputScan
  dsimp only
  rw [seen_ite, seen_ite]
  exact (congrArg (ite _ _) (ite_self _)).trans (ite_self _)

theorem seen_capScan (h : Hw) : seen h.capScan = seen h := by
  unfold Hw.capScan
  split <;> rfl

theorem seen_safeScan (h : Hw) : seen h.safeScan = seen h := by
  unfold Hw.safeScan
  split
  · split
    · rfl
    · split
      · exact seen_decideSafe h
      · rfl
  · split
    · rfl
    · extract_lets _ g g'
      split
      · rfl
      · split
        · exact seen_setMode ..
        · rfl

/-- With no written policy waiting, a scan brings nothing into force first. -/
theorem latchPass_none {h : Hw} (hl : h.latches = []) (f : LatchItem → Bool) : h.latchPass f = h := by
  rw [Hw.latchPass, hl]
  dsimp only [List.filter_nil, List.foldl_nil]
  rw [List.map_nil, ← hl]

/-- The block as the filters of a scan leave it. -/
def filtered (h : Hw) (codes : List W16) : Hw :=
  let g := ((List.range 160).foldl (fun a n => a.sense codes n) h).coolants
  { g with war := { g.war with scans := g.war.scans + 1, refEvents := 0 } }

theorem filtered_spec (h : Hw) (codes : List W16) {n : Nat} (hn : n < 160) (hs : h.samples n = true) :
    reading ((filtered h codes).chan n) = reading ((h.chan n).scan (tget 0 h.war.policyNow n).toNat (h.code codes n))
    ∧ (filtered h codes).war.scans = h.war.scans + 1 ∧ (filtered h codes).war.refEvents = 0
    ∧ (filtered h codes).war.policy = h.war.policy ∧ (filtered h codes).streams = h.streams
    ∧ (filtered h codes).ex.running = h.ex.running := by
  obtain ⟨u, e, _, hin⟩ := senseAll h codes (List.nodup_range (n := 160)) h.war.chans
  have hg : (List.range 160).foldl (fun a n => a.sense codes n) h = withChans h u := e
  have hu := hin n (List.mem_range.mpr hn) hs
  obtain ⟨c1, c2, c3, c4, c5, _⟩ := coolants_spec (withChans h u)
  unfold filtered
  rw [hg]
  generalize (withChans h u).coolants = g at *
  refine ⟨(c1 n).trans (congrArg reading hu), congrArg (· + 1) c2, rfl, c3, c4, congrArg Exec.running c5⟩

theorem scan_seen {h : Hw} (codes : List W16) (hw : h.wardenOn = true) (hl : h.ex.running = true ∨ h.latches = []) :
    seen (h.scan codes) = seen (filtered h codes) := by
  have hpass : (if h.ex.running then h else h.latchPass isPolicy) = h := by
    rcases hl with hl | hl
    · rw [if_pos hl]
    · rw [latchPass_none hl, ite_self]
  rw [Hw.scan, if_neg (by simp [hw])]
  dsimp only
  rw [hpass, seen_safeScan, seen_capScan, seen_inputScan, seen_rules]
  split
  · exact seen_trip _
  · rfl

/-- Settles O54: the filters of a scan channel by channel, and what the rest of the scan leaves of them. -/
theorem wardenScanFilters : Obligations.WardenScanFilters := by
  intro s codes n hw hl hn hs c x f
  obtain ⟨hread, hscans, href, hpol, hstr, hrun⟩ := filtered_spec s.hw codes hn hs
  have hseen := scan_seen codes hw hl
  simp only [seen, Prod.mk.injEq] at hseen
  obtain ⟨e1, e2, e3, e4, e5, e6⟩ := hseen
  have hchan : (s.hw.scan codes).chan n = (filtered s.hw codes).chan n := congrArg (fun t => tget Channel.reset t n) e1
  simp only [reading, Prod.mk.injEq] at hread
  obtain ⟨hraw, hy, hfil, hsam⟩ := hread
  refine ⟨{ s with hw := s.hw.scan codes }, rfl, ?_⟩
  dsimp only
  rw [hchan, hraw, hy, hfil, hsam, e2, e3, e4, e5, e6]
  refine ⟨rfl, rfl, fun hc => ?_, fun hc _ _ => ?_, rfl, hscans, href, hstr, hrun, hpol⟩
  · simp only [Channel.scan, c] at hc ⊢
    simp only [hc, if_true]
    rfl
  · have hpos : 0 < min (2 * (f % 4) + 1) 7 := by omega
    have hm : median ((List.replicate 7 x).take (2 * (f % 4) + 1)) = x := by
      rw [List.take_replicate, median_replicate hpos]
    simp only [Channel.scan, c] at hc ⊢
    simp only [hc, Bool.false_eq_true, if_false]
    exact congrArg (· * 256) hm

end Sys2Proof.Scan
end

section
/-!
PROOF. Port faults and the drift follower (O59).
-/
namespace Sys2Proof.Ports
open Sys2Proof.Machine

/-! ### Causes (R303, R320) -/

/-- The cause bit of a cause's number. -/
def causeBit (c : Nat) : BitVec 9 := if 1 ≤ c ∧ c ≤ 9 then 1#9 <<< (c - 1) else 0

/-- A cause concerns its port's cause word, and the log. -/
theorem portCause_frame (h : Hw) (p c : Nat) : ∃ (n : List Nat) (l : ErrLog) (r : List Nat), h.portCause p c =
    { h.setPort p { h.port p with cause := (h.port p).cause ||| causeBit c, newCauses := n, recover := true } with
      log := l, link := { h.link with raise := r } } := by
  unfold Hw.portCause
  extract_lets x bit
  split
  · exact ⟨x.newCauses, _, h.link.raise, rfl⟩
  · obtain ⟨l, r, e⟩ := Boot.note_frame (h.setPort p { x with cause := x.cause ||| bit, newCauses := x.newCauses ++ [c], recover := true })
      (entry 0x0050 0 0 { kind := .port, index := p } p c)
    rw [e]
    exact ⟨_, l, r, rfl⟩

theorem portCause_other (h : Hw) {p k : Nat} (hk : k ≠ p) (c : Nat) : (h.portCause p c).port k = h.port k := by
  obtain ⟨n, l, r, e⟩ := portCause_frame h p c
  rw [e]
  exact (Hw.port_setPort ..).trans (if_neg hk.symm)

theorem portCause_own (h : Hw) (p c : Nat) : ∃ n, (h.portCause p c).port p =
    { h.port p with cause := (h.port p).cause ||| causeBit c, newCauses := n, recover := true } := by
  obtain ⟨n, l, r, e⟩ := portCause_frame h p c
  rw [e]
  exact ⟨n, (Hw.port_setPort ..).trans (if_pos rfl)⟩

theorem portCause_kept (h : Hw) (p c : Nat) : (h.portCause p c).streams = h.streams ∧ (h.portCause p c).decodes = h.decodes
    ∧ (h.portCause p c).pwr = h.pwr := by
  obtain ⟨n, l, r, e⟩ := portCause_frame h p c
  rw [e]
  exact ⟨rfl, rfl, rfl⟩

theorem port_setPort_same (h : Hw) (p : Nat) (x : Port) : (h.setPort p x).port p = x := (Hw.port_setPort ..).trans (if_pos rfl)

theorem port_setPort_ne (h : Hw) {p k : Nat} (hk : k ≠ p) (x : Port) : (h.setPort p x).port k = h.port k :=
  (Hw.port_setPort ..).trans (if_neg hk.symm)

/-! ### A slave port's clock (R315) -/

/-- A slave port that mutes with a cause. -/
theorem mutePort_spec (h : Hw) (p c : Nat) : ∃ y, (h.mutePort p c).port p = y ∧ y.state = .muted ∧ y.locked = false
    ∧ y.clockless = (h.port p).clockless ∧ y.cause = (h.port p).cause ||| causeBit c ∧ y.openClock = (h.port p).openClock
    ∧ y.openLine = (h.port p).openLine ∧ (∀ k, k ≠ p → (h.mutePort p c).port k = h.port k) ∧ (h.mutePort p c).streams = h.streams := by
  unfold Hw.mutePort Hw.modPort
  obtain ⟨n, e⟩ := portCause_own (h.setPort p { h.port p with
    state := .muted, locked := false, tracked := 0, stable := 0, drift := 0, windowBad := true, word := 0, word0 := 0
    outQueue := if (h.port p).isOutput then [] else (h.port p).outQueue }) p c
  rw [port_setPort_same] at e
  refine ⟨_, e, rfl, rfl, rfl, rfl, rfl, rfl, fun k hk => ?_, (portCause_kept ..).1⟩
  rw [portCause_other _ hk, port_setPort_ne _ hk]

theorem clockStop_stops {h : Hw} {p : Nat} (hon : h.portOn p = true) (hs : (h.port p).slave = true) (hc : (h.port p).clockless = false) :
    ∃ y, (h.clockStop p).port p = y ∧ y.state = .muted ∧ y.locked = false ∧ y.clockless = true ∧ y.cause = (h.port p).cause ||| 1#9
      ∧ y.openClock = (h.port p).openClock ∧ y.openLine = (h.port p).openLine
      ∧ (∀ k, k ≠ p → (h.clockStop p).port k = h.port k) ∧ (h.clockStop p).streams = h.streams := by
  rw [Hw.clockStop, if_pos (by simp [hon, hs, hc])]
  unfold Hw.modPort
  obtain ⟨y, hy, hst, hl, hcl, hca, hoc, hol, hoth, hstr⟩ :=
    mutePort_spec (h.setPort p { h.port p with periods := [], edges := (0, 0, 0), swap := false, clockless := true }) p 1
  rw [port_setPort_same] at hcl hca hoc hol
  exact ⟨y, hy, hst, hl, hcl, hca, hoc, hol, fun k hk => (hoth k hk).trans (port_setPort_ne _ hk _), hstr⟩

theorem clockStop_stays {h : Hw} {p : Nat} (hc : (h.port p).clockless = true) : h.clockStop p = h := by
  rw [Hw.clockStop, if_neg (by simp [hc])]

/-! ### Line faults (R318) -/

theorem portOn_state {h : Hw} {p : Nat} (hon : h.portOn p = true) :
    h.decodes = true ∧ ((h.port p).state = .running ∨ (h.port p).state = .muted) := by
  simp only [Hw.portOn, Bool.and_eq_true, Bool.or_eq_true, beq_iff_eq] at hon
  obtain ⟨⟨⟨hd, _⟩, hst⟩, _⟩ := hon
  exact ⟨hd, hst⟩

theorem openLineAt_data {h : Hw} {p : Nat} (hd : h.decodes = true) (hst : (h.port p).state = .running ∨ (h.port p).state = .muted)
    (ho : (h.port p).isOutput = false) : h.openLineAt p true =
      let g := h.setPort p { h.port p with openLine := true, openClear := 0, windowBad := true }
      if (h.port p).openLine then g else g.portCause p 5 := by
  rw [Hw.openLineAt, if_neg (by rcases hst with hst | hst <;> simp [hd, hst]), if_pos rfl, if_neg (by simp [ho])]

theorem openLineAt_clock {h : Hw} {p : Nat} (hd : h.decodes = true) (hst : (h.port p).state = .running ∨ (h.port p).state = .muted)
    (hs : (h.port p).slave = true) : h.openLineAt p false =
      let g := h.setPort p { h.port p with openClock := true, clockClear := 0 }
      if (h.port p).openClock then g else (g.portCause p 5).clockStop p := by
  rw [Hw.openLineAt, if_neg (by rcases hst with hst | hst <;> simp [hd, hst]), if_neg (by simp), if_pos hs]
  rfl

theorem shorted_drives {h : Hw} {p : Nat} (hd : h.decodes = true) (hst : (h.port p).state = .running ∨ (h.port p).state = .muted)
    (hs : (h.port p).isOutput = true ∨ (h.port p).slave = false) :
    h.shorted p = (h.setPort p { (h.port p).halt with state := .faultDisabled }).portCause p 4 := by
  rw [Hw.shorted, if_pos (by rcases hst with hst | hst <;> rcases hs with hs | hs <;> simp [hd, hst, hs])]

theorem portOn_congr {g h : Hw} {p : Nat} (hd : g.decodes = h.decodes) (hp : g.pwr = h.pwr) (hst : (g.port p).state = (h.port p).state)
    (hc : (g.port p).ctlNow = (h.port p).ctlNow) : g.portOn p = h.portOn p := by
  simp only [Hw.portOn, Port.slave, hd, hp, hst, hc]

/-- An open clock line stops its port's clock. -/
theorem openClock_stops {h : Hw} {p : Nat} (hon : h.portOn p = true) (hs : (h.port p).slave = true) (ho : (h.port p).openClock = false)
    (hc : (h.port p).clockless = false) :
    ∃ y, (h.openLineAt p false).port p = y ∧ y.openClock = true ∧ y.openLine = (h.port p).openLine ∧ y.state = .muted ∧ y.locked = false
      ∧ y.cause = (h.port p).cause ||| 17#9 ∧ ∀ k, k ≠ p → (h.openLineAt p false).port k = h.port k := by
  obtain ⟨hd, hst⟩ := portOn_state hon
  set g := (h.setPort p { h.port p with openClock := true, clockClear := 0 }).portCause p 5 with hg
  have hopen : h.openLineAt p false = g.clockStop p := (openLineAt_clock hd hst hs).trans (if_neg (by simp [ho]))
  obtain ⟨n, e⟩ := portCause_own (h.setPort p { h.port p with openClock := true, clockClear := 0 }) p 5
  rw [port_setPort_same, ← hg] at e
  obtain ⟨_, hdec, hpwr⟩ := portCause_kept (h.setPort p { h.port p with openClock := true, clockClear := 0 }) p 5
  have hon' : g.portOn p = true := (portOn_congr (h := h) hdec hpwr (by rw [e]) (by rw [e])).trans hon
  obtain ⟨y, hy, h1, h2, _, h4, h5, h6, h7, _⟩ := clockStop_stops hon' (by rw [e]; exact hs) (by rw [e]; exact hc)
  rw [e] at h4 h5 h6
  rw [hopen]
  refine ⟨y, hy, h5, h6, h1, h2, ?_, fun k hk => (h7 k hk).trans ((portCause_other _ hk _).trans (port_setPort_ne _ hk _))⟩
  rw [h4, BitVec.or_assoc]
  rfl

/-- Settles O59: each fault by what it does to its port, and what its causes add. -/
theorem portFaults : Obligations.PortFaults := by
  intro s p x
  refine ⟨fun hon hs hc => ?_, fun hc => ?_, fun d hon hs hm hst => ?_, fun hd hst => ⟨fun hs => ?_, fun ho hl => ?_, fun ho hl => ?_⟩,
    fun hon hs => ⟨fun hoc hc => ?_, fun hoc => ?_⟩⟩
  · obtain ⟨y, hy, h1, h2, h3, h4, _, _, h5, h6⟩ := clockStop_stops hon hs hc
    refine ⟨{ s with hw := s.hw.clockStop p }, rfl, ?_⟩
    dsimp only
    rw [hy]
    exact ⟨h1, h2, h3, h4, h5, h6⟩
  · exact congrArg (fun g : Hw => (Host.Outcome.next { s with hw := g } : Host.Outcome State Fault Refusal)) (clockStop_stays hc)
  · have e : s.hw.lockFollower p d = s.hw.setPort p { x with
        state := .running, locked := true, drift := d, tracked := sumList x.periods / x.periods.length
        windowBad := true, ramp := if x.isOutput then 64 else 0 } := by
      have hst' : decide (64 ≤ (s.hw.port p).stable) = true := decide_eq_true hst
      rw [Hw.lockFollower, if_pos (by simp only [hon, hst', show (s.hw.port p).slave = true from hs, show (s.hw.port p).state = .muted from hm]; rfl)]
    refine ⟨{ s with hw := s.hw.lockFollower p d }, rfl, ?_⟩
    dsimp only
    rw [e, port_setPort_same]
    exact ⟨rfl, rfl, rfl, rfl⟩
  · obtain ⟨n, e⟩ := portCause_own (s.hw.setPort p { x.halt with state := .faultDisabled }) p 4
    refine ⟨{ s with hw := s.hw.shorted p }, rfl, ?_⟩
    dsimp only
    rw [shorted_drives hd hst hs, e, port_setPort_same]
    exact ⟨rfl, rfl, fun k hk => (portCause_other _ hk _).trans (port_setPort_ne _ hk _)⟩
  · obtain ⟨n, e⟩ := portCause_own (s.hw.setPort p { x with openLine := true, openClear := 0, windowBad := true }) p 5
    refine ⟨{ s with hw := s.hw.openLineAt p true }, rfl, ?_⟩
    dsimp only
    rw [openLineAt_data hd hst ho]
    dsimp only
    rw [if_neg (by rw [show (s.hw.port p).openLine = false from hl]; decide), e, port_setPort_same]
    exact ⟨rfl, rfl, rfl, rfl, fun k hk => (portCause_other _ hk _).trans (port_setPort_ne _ hk _)⟩
  · refine congrArg (fun g : Hw => (Host.Outcome.next { s with hw := g } : Host.Outcome State Fault Refusal)) ?_
    exact (openLineAt_data hd hst ho).trans (if_pos hl)
  · obtain ⟨y, hy, h1, h2, h3, h4, h5, h6⟩ := openClock_stops hon hs hoc hc
    refine ⟨{ s with hw := s.hw.openLineAt p false }, rfl, ?_⟩
    dsimp only
    rw [hy]
    exact ⟨h1, h2, h3, h4, h5, h6⟩
  · refine congrArg (fun g : Hw => (Host.Outcome.next { s with hw := g } : Host.Outcome State Fault Refusal)) ?_
    obtain ⟨hd, hst⟩ := portOn_state hon
    exact (openLineAt_clock hd hst hs).trans (if_pos hoc)

end Sys2Proof.Ports
end

section
/-!
PROOF. Frames in and out of a port (O58).
-/
namespace Sys2Proof.PortFrames
open Sys2Proof.Machine

/-! ### Frames in at a master port (R306, R313) -/

theorem closeLine_closed {x : Port} (hl : x.openLine = false) (hc : x.openClock = false) : x.closeLine = x := by
  unfold Port.closeLine
  simp [hl, hc]

/-- The detector finds the pair within the frame or across two. -/
def paired (x : Port) (f : PortFrame) : Bool :=
  (match x.audioWord with | some z => preamble z (upper16 x.width f.slot0) | none => false)
    || preamble (upper16 x.width f.slot0) (upper16 x.width f.slot1)

theorem detect_eq (x : Port) (f : PortFrame) : x.detect f =
    if paired x f then (!x.nonaudio, { x with audioWord := some (upper16 x.width f.slot1), nonaudio := true, holdLeft := 8192, windowBad := true })
    else (false, { x with audioWord := some (upper16 x.width f.slot1), holdLeft := if x.nonaudio then x.holdLeft - 1 else x.holdLeft }) := by
  by_cases hp : paired x f = true
  · exact (if_pos hp).trans (if_pos hp).symm
  · refine (if_neg hp).trans (Eq.trans ?_ (if_neg hp).symm)
    split <;> rfl

section
variable {h : Hw} {p : Nat} {f : PortFrame} (hon : h.portOn p = true) (ho : (h.port p).isOutput = false)
  (hs : (h.port p).slave = false) (hr : (h.port p).state = .running) (hl : (h.port p).openLine = false) (hc : (h.port p).openClock = false)
include hon ho hs hr hl hc

/-- The frames of the capture window with a frame that completes while the executive runs. -/
def captured (h : Hw) (p : Nat) (f : PortFrame) : List (Int × Int) :=
  if h.ex.running then (h.port p).frames ++ [(f.slot0, f.slot1)] else (h.port p).frames

theorem frameIn_master : h.frameIn p f =
    let d := (h.port p).detect f
    let g := h.setPort p { d.2 with frames := captured h p f }
    if d.1 then g.portCause p 8 else g := by
  have hkeep : ((h.port p).detect f).2.isOutput = false ∧ ((h.port p).detect f).2.slave = false
      ∧ ((h.port p).detect f).2.state = .running ∧ ((h.port p).detect f).2.frames = (h.port p).frames := by
    rw [detect_eq]
    split <;> exact ⟨ho, hs, hr, rfl⟩
  obtain ⟨ko, ks, kr, kf⟩ := hkeep
  unfold Hw.frameIn captured
  rw [if_neg (by simp [hon, ho])]
  simp only [hs, ho, closeLine_closed hl hc, Bool.false_eq_true, if_false]
  generalize (h.port p).detect f = d at *
  simp only [ko, ks, kr, Bool.not_false, Bool.true_and, beq_self_eq_true, Bool.and_true]
  cases h.ex.running with
  | true =>
    simp only [if_true, kf]
    exact if_pos (show (!d.2.slave) = true by rw [ks]; rfl)
  | false =>
    simp only [Bool.false_eq_true, if_false]
    rw [if_pos (by simp [ks]), ← kf, ← kr]

end

/-! ### Frames out (R298, R307, R309 to R311, R316) -/

/-- What a port's queue takes from the run leaves the words that it sent, and its ramp. -/
theorem fillQueue_kept (k : Nat) (x : Port) : ∃ q n, Port.fillQueue k x = { x with outQueue := q, frameNo := n } := by
  induction k generalizing x with
  | zero => exact ⟨x.outQueue, x.frameNo, rfl⟩
  | succ k ih =>
    unfold Port.fillQueue
    split
    · exact ⟨x.outQueue, x.frameNo, rfl⟩
    · obtain ⟨q, n, e⟩ := ih { x with
        outQueue := x.outQueue ++ [(0, x.wordAt 0 x.frameNo), (1, x.wordAt 1 x.frameNo)], frameNo := x.frameNo + 1 }
      exact ⟨q, n, e⟩

theorem fillQueue_full (k : Nat) {x : Port} (hx : 4 ≤ x.outQueue.length ∨ x.n ≤ x.frameNo) : Port.fillQueue k x = x := by
  cases k with
  | zero => rfl
  | succ k =>
    unfold Port.fillQueue
    rw [if_pos (by simpa using hx)]

theorem takeFrame_kept (x : Port) : ∃ q n, x.takeFrame.2 = { x with outQueue := q, frameNo := n } := by
  obtain ⟨q, n, e⟩ := fillQueue_kept 2 x
  unfold Port.takeFrame
  rw [e]
  dsimp only
  split
  · next r =>
    obtain ⟨q', n', e'⟩ := fillQueue_kept 2 { x with outQueue := r, frameNo := n }
    exact ⟨q', n', e'⟩
  · exact ⟨[], n, rfl⟩

theorem runOut_ramp (x : Port) : x.runOut.ramp = x.ramp := by
  unfold Port.runOut
  (repeat' split) <;> rfl

theorem flagWords_kept (h : Hw) (x y : Port) : (h.flagWords x y).ports = h.ports ∧ (h.flagWords x y).ex = h.ex :=
  ⟨foldl_keeps Hw.ports _ (fun _ _ => Hw.modStream_ports ..) _ _, foldl_keeps Hw.ex _ (fun _ _ => Hw.modStream_ex ..) _ _⟩

theorem freeFrames_ports (W n : Nat) (h : Hw) : (Hw.freeFrames W n h).2.ports = h.ports := by
  induction n generalizing h with
  | zero => rfl
  | succ n ih => exact (ih _).trans rfl

/-- The frame that a port forms next goes to its own registers alone. -/
theorem port_of_ports {g h : Hw} (hp : g.ports = h.ports) (p : Nat) (y : Port) :
    (g.setPort p y).port p = y ∧ ∀ k, k ≠ p → (g.setPort p y).port k = h.port k := by
  refine ⟨Ports.port_setPort_same .., fun k hk => ?_⟩
  rw [Ports.port_setPort_ne _ hk, Hw.port, hp]
  rfl

section
variable {h : Hw} {p : Nat} (hon : h.portOn p = true) (ho : (h.port p).isOutput = true)
include hon ho

theorem frameOut_muted (hm : (h.port p).state = .muted) : ∃ y : Port, h.frameOut p = (h.flagWords (h.port p) (h.port p).takeFrame.2).setPort p
    { y with word := 0, word0 := 0, prevWord := (h.port p).word, lastOut := 0 } := by
  unfold Hw.frameOut
  rw [if_neg (by simp [hon, ho])]
  dsimp only
  rw [if_pos (by simp [hm])]
  exact ⟨_, rfl⟩

theorem frameOut_slave (hr : (h.port p).state = .running) (hs : (h.port p).slave = true) : ∃ (g : Hw) (y : Port) (a b : Int),
    h.frameOut p = g.setPort p { y.sendFrame (if (h.port p).live 0 then rampWord (h.port p).ramp a else 0)
      (if (h.port p).live 1 then rampWord (h.port p).ramp b else 0) with ramp := y.ramp - 1 }
    ∧ g.ports = h.ports ∧ y.ramp = (h.port p).ramp := by
  unfold Hw.frameOut
  rw [if_neg (by simp [hon, ho])]
  dsimp only
  rw [if_neg (by simp [hr]), if_pos hs]
  refine ⟨_, _, _, _, rfl, ?_, ?_⟩
  · rw [freeFrames_ports, (flagWords_kept ..).1]
  · obtain ⟨q, n, e⟩ := takeFrame_kept (h.port p)
    rw [e]
    split
    · rfl
    · rw [runOut_ramp]

theorem frameOut_master (hr : (h.port p).state = .running) (hs : (h.port p).slave = false) (hx : h.ex.running = true) :
    h.frameOut p = (h.flagWords (h.port p) (h.port p).takeFrame.2).setPort p
      ((h.port p).takeFrame.2.sendFrame (h.port p).takeFrame.1.1 (h.port p).takeFrame.1.2) := by
  unfold Hw.frameOut
  rw [if_neg (by simp [hon, ho])]
  dsimp only
  rw [if_neg (by simp [hr]), if_neg (by simp [hs]), (flagWords_kept ..).2, if_pos hx]

end

/-! ### The preamble guard (R311) -/

theorem send_plain {x : Port} {z : Int} (hp : preamble x.lastOut (upper16 x.width z) = false) :
    x.send z = { x with word := z, lastOut := upper16 x.width z } := if_neg (by simp [hp])

theorem send_guarded {x : Port} {z : Int} (hp : preamble x.lastOut (upper16 x.width z) = true) :
    x.send z = { x with word := z - 2 ^ (x.width - 16), lastOut := upper16 x.width (z - 2 ^ (x.width - 16)), guarded := satAdd x.guarded 1 } :=
  if_pos hp

theorem sendFrame_plain {x : Port} {a b : Int} (ha : preamble x.lastOut (upper16 x.width a) = false)
    (hb : preamble (upper16 x.width a) (upper16 x.width b) = false) :
    x.sendFrame a b = { x with word := b, word0 := a, prevWord := x.word, lastOut := upper16 x.width b } := by
  unfold Port.sendFrame
  rw [send_plain ha]
  dsimp only
  rw [send_plain (x := { x with word := a, lastOut := upper16 x.width a }) hb]
  rfl

theorem sendFrame_guarded {x : Port} {a b : Int} (ha : preamble x.lastOut (upper16 x.width a) = false)
    (hb : preamble (upper16 x.width a) (upper16 x.width b) = true) :
    x.sendFrame a b = { x with
      word := b - 2 ^ (x.width - 16), word0 := a, prevWord := x.word, lastOut := upper16 x.width (b - 2 ^ (x.width - 16))
      guarded := satAdd x.guarded 1 } := by
  unfold Port.sendFrame
  rw [send_plain ha]
  dsimp only
  rw [send_guarded (x := { x with word := a, lastOut := upper16 x.width a }) hb]
  rfl

/-- A word of zeros never completes the pair. -/
theorem send_zero (x : Port) : (x.send 0).word = 0 := by
  have hz : upper16 x.width 0 = 0 := by simp [upper16]
  rw [send_plain]
  rw [hz, preamble]
  simp

theorem rampWord_start (z : Int) : rampWord 64 z = 0 := by simp [rampWord]

theorem takeFrame_four {x : Port} {za zb zc zd : Int} (hq : x.outQueue = [(0, za), (1, zb), (0, zc), (1, zd)]) :
    x.takeFrame = ((za, zb), Port.fillQueue 2 { x with outQueue := [(0, zc), (1, zd)] }) := by
  unfold Port.takeFrame
  rw [fillQueue_full 2 (.inl (by rw [hq]; rfl))]
  dsimp only
  rw [hq]

/-- The pair sets nonaudio, with a cause where it did not stand. -/
theorem frameIn_hit {h : Hw} {p : Nat} {f : PortFrame} (hon : h.portOn p = true) (ho : (h.port p).isOutput = false)
    (hs : (h.port p).slave = false) (hr : (h.port p).state = .running) (hl : (h.port p).openLine = false) (hc : (h.port p).openClock = false)
    (hp : paired (h.port p) f = true) :
    ∃ n r, (h.frameIn p f).port p = { h.port p with
        audioWord := some (upper16 (h.port p).width f.slot1), nonaudio := true, holdLeft := 8192, windowBad := true, frames := captured h p f
        cause := if (h.port p).nonaudio then (h.port p).cause else (h.port p).cause ||| 128#9, newCauses := n, recover := r }
      ∧ (∀ k, k ≠ p → (h.frameIn p f).port k = h.port k) ∧ (h.frameIn p f).streams = h.streams := by
  have hd := (detect_eq (h.port p) f).trans (if_pos hp)
  rw [frameIn_master hon ho hs hr hl hc, hd]
  dsimp only
  cases hn : (h.port p).nonaudio with
  | true =>
    rw [if_neg (by decide), Ports.port_setPort_same]
    exact ⟨(h.port p).newCauses, (h.port p).recover, rfl, fun k hk => Ports.port_setPort_ne _ hk _, rfl⟩
  | false =>
    rw [if_pos (by decide)]
    obtain ⟨n, e⟩ := Ports.portCause_own (h.setPort p { h.port p with
      audioWord := some (upper16 (h.port p).width f.slot1), nonaudio := true, holdLeft := 8192, windowBad := true, frames := captured h p f }) p 8
    rw [Ports.port_setPort_same] at e
    refine ⟨n, true, e.trans ?_, fun k hk => ?_, ?_⟩
    · rfl
    · exact (Ports.portCause_other _ hk _).trans (Ports.port_setPort_ne _ hk _)
    · exact (Ports.portCause_kept ..).1

/-- Settles O58: frames in at a master port by the detector; frames out by what the port sends. -/
theorem portFrames : Obligations.PortFrames := by
  refine ⟨?_, ?_, ?_⟩
  · intro s p f x a b hit fs
    refine ⟨fun hon ho hs hr hl hc => ⟨fun hp => ?_, fun hp => ?_⟩, fun hn hh => ?_⟩
    · obtain ⟨n, r, e, hother, hstr⟩ := frameIn_hit (f := f) hon ho hs hr hl hc hp
      refine ⟨{ s with hw := s.hw.frameIn p f }, rfl, ?_⟩
      dsimp only
      rw [e]
      exact ⟨rfl, rfl, rfl, rfl, rfl, rfl, hother, hstr⟩
    · have hd : x.detect f = _ := (detect_eq x f).trans (if_neg (by rw [show paired x f = false from hp]; decide))
      have e := frameIn_master (f := f) hon ho hs hr hl hc
      rw [hd] at e
      exact congrArg (fun g : Hw => (Host.Outcome.next { s with hw := g } : Host.Outcome State Fault Refusal)) e
    · refine congrArg (fun g : Hw => (Host.Outcome.next { s with hw := g } : Host.Outcome State Fault Refusal)) ?_
      exact congrArg (s.hw.setPort p) (if_pos (by simp [show (s.hw.port p).nonaudio = true from hn, show (s.hw.port p).holdLeft = 0 from hh]))
  · intro s p za zb zc zd hon hx x ho hs hr hq hpre
    obtain ⟨q, n, hkeep⟩ := fillQueue_kept 2 { x with outQueue := [(0, zc), (1, zd)] }
    have e := frameOut_master hon ho hr hs hx
    rw [takeFrame_four hq, hkeep] at e
    have hport (y : Port) := port_of_ports (flagWords_kept s.hw x { x with outQueue := q, frameNo := n }).1 p y
    refine ⟨fun hp => ?_, fun hp => ?_⟩
    · refine ⟨{ s with hw := s.hw.frameOut p }, rfl, ?_⟩
      dsimp only at e ⊢
      rw [e, sendFrame_plain (x := { x with outQueue := q, frameNo := n }) hpre hp, (hport _).1]
      refine ⟨rfl, rfl, fun k => rfl, rfl, rfl, fun hn => ?_, (hport _).2⟩
      exact congrArg Port.outQueue (hkeep.symm.trans (fillQueue_full 2 (.inr hn)))
    · refine ⟨{ s with hw := s.hw.frameOut p }, rfl, ?_⟩
      dsimp only at e ⊢
      rw [e, sendFrame_guarded (x := { x with outQueue := q, frameNo := n }) hpre hp, (hport _).1]
      exact ⟨rfl, rfl, rfl, (hport _).2⟩
  · intro s p hon x ho
    refine ⟨fun hm => ?_, fun hr hs => ?_⟩
    · obtain ⟨y, e⟩ := frameOut_muted hon ho hm
      obtain ⟨hown, hother⟩ := port_of_ports (flagWords_kept s.hw x x.takeFrame.2).1 p
        { y with word := 0, word0 := 0, prevWord := x.word, lastOut := 0 }
      refine ⟨{ s with hw := s.hw.frameOut p }, rfl, ?_⟩
      dsimp only
      rw [e, hown]
      exact ⟨rfl, rfl, rfl, hother⟩
    · obtain ⟨g, y, a, b, e, hg, hy⟩ := frameOut_slave hon ho hr hs
      obtain ⟨hown, hother⟩ := port_of_ports hg p { y.sendFrame (if x.live 0 then rampWord x.ramp a else 0)
        (if x.live 1 then rampWord x.ramp b else 0) with ramp := y.ramp - 1 }
      have hpin (k : Nat) (z : Int) (h : x.live k = false ∨ x.ramp = 64) : (if x.live k then rampWord x.ramp z else 0) = 0 := by
        rcases h with h | h
        · simp [h]
        · rw [h, rampWord_start, ite_self]
      refine ⟨{ s with hw := s.hw.frameOut p }, rfl, ?_⟩
      dsimp only
      rw [e, hown]
      refine ⟨by rw [← hy], fun h => ?_, fun h => ?_, hother⟩
      · rw [hpin 0 a h]
        exact send_zero y
      · rw [hpin 1 b h]
        exact send_zero (y.send _)

end Sys2Proof.PortFrames
end

section
/-!
PROOF. The berm handshake between Conv-Scan Units: a consumer's start, and a producer's write.
-/
namespace Sys2Proof.Berms
open Sys2Proof.Machine

/-! ### Where a berm's flag is looked for (R119, R120) -/

theorem bermAt_own {h : Hw} {c : Nat} {ok : CsuUnit → Bool} (hc : ok (h.csu c) = true) : h.bermAt c ok = some c :=
  List.find?_cons_of_pos hc

/-- The unit's peers that are fenced, where its berm may stand instead. -/
theorem bermAt_other {h : Hw} {c : Nat} {ok : CsuUnit → Bool} (hc : ok (h.csu c) = false) : h.bermAt c ok
    = ((csuGroup c).filter (fun k => k != c && decide (⟨.csu, k⟩ ∈ h.eng.fenced))).find? (fun k => ok (h.csu k)) :=
  List.find?_cons_of_neg (by simp [hc])

theorem bermAt_peer {h : Hw} {c k : Nat} {ok : CsuUnit → Bool} (hc : ok (h.csu c) = false) (hm : k ∈ csuGroup c) (hk : k ≠ c)
    (hf : (⟨.csu, k⟩ : UnitId) ∈ h.eng.fenced) (hok : ok (h.csu k) = true)
    (one : ∀ j, j ∈ csuGroup c → j ≠ c → (⟨.csu, j⟩ : UnitId) ∈ h.eng.fenced → ok (h.csu j) = true → j = k) : h.bermAt c ok = some k := by
  rw [bermAt_other hc]
  cases e : List.find? (fun k => ok (h.csu k)) ((csuGroup c).filter (fun k => k != c && decide (⟨.csu, k⟩ ∈ h.eng.fenced))) with
  | none => exact absurd hok (List.find?_eq_none.1 e k (List.mem_filter.2 ⟨hm, by simp [hk, hf]⟩))
  | some j =>
    obtain ⟨hjm, hj⟩ := List.mem_filter.1 (List.mem_of_find?_eq_some e)
    obtain ⟨hjc, hjf⟩ : j ≠ c ∧ (⟨.csu, j⟩ : UnitId) ∈ h.eng.fenced := by simpa using hj
    exact congrArg some (one j hjm hjc hjf (List.find?_some (p := fun k => ok (h.csu k)) e))

theorem bermAt_none {h : Hw} {c : Nat} {ok : CsuUnit → Bool} (hc : ok (h.csu c) = false)
    (no : ∀ j, j ∈ csuGroup c → j ≠ c → (⟨.csu, j⟩ : UnitId) ∈ h.eng.fenced → ok (h.csu j) = false) : h.bermAt c ok = none := by
  rw [bermAt_other hc, List.find?_eq_none]
  intro j hj
  obtain ⟨hjm, hj⟩ := List.mem_filter.1 hj
  obtain ⟨hjc, hjf⟩ : j ≠ c ∧ (⟨.csu, j⟩ : UnitId) ∈ h.eng.fenced := by simpa using hj
  simp [no j hjm hjc hjf]

/-! ### The consumer's start and the producer's write -/

section
variable {h : Hw} {c : Nat} (hon : h.engOn = true) (hc : c < 32)
include hon hc

theorem consume_some {tag : BitVec 32} {k : Nat} (hk : h.bermAt c (fun u => u.flag == some tag) = some k) :
    h.bermConsumeNow c tag = (h.setCsu c { h.csu c with waiting := none }).setCsu k
      { (h.setCsu c { h.csu c with waiting := none }).csu k with reading := true } := by
  rw [Hw.bermConsumeNow, if_neg (by simp [hon, hc]), hk]

theorem consume_none {tag : BitVec 32} (hk : h.bermAt c (fun u => u.flag == some tag) = none) :
    h.bermConsumeNow c tag = h.setCsu c { h.csu c with waiting := some tag } := by
  rw [Hw.bermConsumeNow, if_neg (by simp [hon, hc]), hk]

theorem release_writes {b : Berm} (hb : (h.csu c).held = some b) (hr : (h.csu b.goes).released = true) :
    h.bermReleaseNow c = (h.setCsu c { h.csu c with held := none }).setBerm b := by
  rw [Hw.bermReleaseNow, if_neg (by simp [hon, hc]), hb]
  exact if_pos hr

theorem release_waits {b : Berm} (hb : (h.csu c).held = some b) (hr : (h.csu b.goes).released = false) : h.bermReleaseNow c = h := by
  rw [Hw.bermReleaseNow, if_neg (by simp [hon, hc]), hb]
  exact if_neg (by simp [hr])

theorem release_nothing (hb : (h.csu c).held = none) : h.bermReleaseNow c = h := by
  rw [Hw.bermReleaseNow, if_neg (by simp [hon, hc]), hb]

end

/-- The buffer of the unit that a berm goes to, once the berm stands in it. -/
def filledBy (u : CsuUnit) (b : Berm) : CsuUnit :=
  { u with flag := some b.tag, berm := b.samples, ctx := b.ctx, released := false, reading := decide (u.waiting = some b.tag)
           waiting := if u.waiting = some b.tag then none else u.waiting }

theorem csu_setBerm_goes (h : Hw) (b : Berm) : (h.setBerm b).csu b.goes = filledBy (h.csu b.goes) b := by
  unfold Hw.setBerm
  rw [Hw.csu_setCsu, if_pos rfl]
  by_cases hw : (h.csu b.goes).waiting = some b.tag <;> simp [filledBy, hw]

/-- Settles O23: BERM_CONSUME by where the expected tag stands, BERM_RELEASE by what the producer holds. -/
theorem bermHandshake : Obligations.BermHandshake := by
  intro s c tag hon hc only elsewhere
  have peers (j : Nat) : elsewhere j ↔ j ∈ csuGroup c ∧ j ≠ c ∧ (⟨.csu, j⟩ : UnitId) ∈ s.hw.eng.fenced
      ∧ ((s.hw.csu j).flag == some tag) = true := by
    simp only [elsewhere, beq_iff_eq]
  refine ⟨fun hf => ?own, fun k hf hk one => ?peer, fun hf no => ?waits, fun b hb hr => ?writes, fun hb => ?nothing, fun b hb hr => ?held⟩
  case own =>
    refine ⟨{ s with hw := s.hw.bermConsumeNow c tag }, rfl, ?_⟩
    rw [consume_some hon hc (bermAt_own (by simp [hf]))]
    exact ⟨rfl, by simp, fun k hk => by simp [Ne.symm hk]⟩
  case peer =>
    obtain ⟨hm, hne, hfen, hok⟩ := (peers k).1 hk
    have hat : s.hw.bermAt c (fun u => u.flag == some tag) = some k :=
      bermAt_peer (by simpa using hf) hm hne hfen hok (fun j h1 h2 h3 h4 => one j ((peers j).2 ⟨h1, h2, h3, h4⟩))
    refine ⟨{ s with hw := s.hw.bermConsumeNow c tag }, rfl, ?_⟩
    rw [consume_some hon hc hat]
    exact ⟨rfl, by simp [hne], by simp [Ne.symm hne], fun j hj hjk => by simp [Ne.symm hj, Ne.symm hjk]⟩
  case waits =>
    have hat : s.hw.bermAt c (fun u => u.flag == some tag) = none :=
      bermAt_none (by simpa using hf) (fun j h1 h2 h3 => by
        by_contra h4
        exact no j ((peers j).2 ⟨h1, h2, h3, by simpa using h4⟩))
    exact congrArg (fun g => Host.Outcome.next { s with hw := g }) (consume_none hon hc hat)
  case writes =>
    intro v
    refine ⟨{ s with hw := s.hw.bermReleaseNow c }, rfl, ?_⟩
    rw [release_writes hon hc hb hr]
    refine ⟨fun hne => ?_, ?_, fun j hj hjg => ?_, rfl⟩
    · rw [Hw.csu_setBerm _ _ _ (Ne.symm hne), Hw.csu_setCsu, if_pos rfl]
    · have hv : (s.hw.setCsu c { s.hw.csu c with held := none }).csu b.goes = v := by
        rw [Hw.csu_setCsu]
        by_cases hg : b.goes = c
        · rw [if_pos hg.symm]
          exact (if_pos hg).symm
        · rw [if_neg (Ne.symm hg)]
          exact (if_neg hg).symm
      exact (csu_setBerm_goes _ b).trans (congrArg (filledBy · b) hv)
    · rw [Hw.csu_setBerm _ _ _ hjg, Hw.csu_setCsu, if_neg (Ne.symm hj)]
  case nothing => exact congrArg (fun g => Host.Outcome.next { s with hw := g }) (release_nothing hon hc hb)
  case held => exact congrArg (fun g => Host.Outcome.next { s with hw := g }) (release_waits hon hc hb hr)

end Sys2Proof.Berms
end

section
/-!
PROOF. The rebuild of a stream's banks, and the copy of an evicted one.
-/
namespace Sys2Proof.Rebuild
open Sys2Proof.Machine

/-! ### What a rebuilt tick leaves of the sample part (R151) -/

/-- The sample part without what a rebuild recomputes: the layer histories and the scan states. -/
def bare (p : SamplePart) : SamplePart := { p with hist := [], scans := [] }

theorem bare_rebuildScan (i : ImageFile) (s : Stream) (p : SamplePart) (idx : Nat) (acc : RunIn × Rebuilt) (k : Nat × Recurrence) :
    bare (rebuildScan i s p idx acc k).2.part = bare acc.2.part := rfl

theorem bare_rebuildLayer (se : Memory) (i : ImageFile) (s : Stream) (p : SamplePart) (idx : Nat) (acc : RunIn × Rebuilt) (e : CsuLayer × Nat) :
    bare (rebuildLayer se i s p idx acc e).2.part = bare acc.2.part :=
  foldl_keeps (fun a : RunIn × Rebuilt => bare a.2.part) _ (fun a k => bare_rebuildScan i s p idx a k) _ _

theorem bare_rebuildTick (se : Memory) (i : ImageFile) (s : Stream) (cond : List F16) (fifth idx : Nat) (x : Rebuilt) :
    bare (rebuildTick se i s cond fifth idx x).part = bare x.part :=
  foldl_keeps (fun a : RunIn × Rebuilt => bare a.2.part) _ (fun a e => bare_rebuildLayer se i s x.part idx a e) _ _

theorem bare_rebuildTicks (se : Memory) (i : ImageFile) (s : Stream) (frames : List (List F16)) (spill : List (BitVec 2)) (f fifth idx : Nat)
    (x : Rebuilt) : bare (rebuildTicks se i s frames spill f fifth idx x).part = bare x.part := by
  induction spill generalizing f fifth idx x with
  | nil => rfl
  | cons code rest ih =>
    rw [rebuildTicks]
    by_cases h1 : code = 1#2
    · rw [if_pos h1]
      exact ih f fifth (idx + s.n) x
    · rw [if_neg h1, ih]
      by_cases h0 : code = 0#2
      · rw [if_pos h0, bare_rebuildTick]
      · rw [if_neg h0]

/-- A sample part is its bare part with its histories and scan states. -/
theorem part_of_bare {p q : SamplePart} (e : bare p = bare q) : p = { q with hist := p.hist, scans := p.scans } := by
  calc p = { bare p with hist := p.hist, scans := p.scans } := rfl
    _ = { bare q with hist := p.hist, scans := p.scans } := by rw [e]

/-! ### The drift trips of a rebuild (R62, R63) -/

/-- The drift record with a further trip of recurrence `k`: the lowest recurrence, and how many. -/
def tripped (a : Option (Nat × Nat)) (k : Nat) : Option (Nat × Nat) :=
  match a with | none => some (k, 1) | some (l, n) => some (min l k, n + 1)

theorem trips_eq (s : Stream) (ks : List Nat) : ks.foldl (fun s k => s.trip k true) s
    = { s with stateDrift := s.stateDrift || !ks.isEmpty, work := { s.work with drift := ks.foldl tripped s.work.drift } } := by
  induction ks generalizing s with
  | nil => simp
  | cons k ks ih =>
    have step : s.trip k true = { s with stateDrift := true, work := { s.work with drift := tripped s.work.drift k } } := rfl
    rw [List.foldl_cons, ih, step]
    simp

/-! ### The rebuild's end and the eviction's copy -/

/-- What the rebuild of a stream recomputes from its spill codes. -/
def rebuilt (se : Memory) (i : ImageFile) (x : Stream) : Rebuilt :=
  rebuildTicks se i x x.history.frames x.history.spill 0 0 x.bank.utt.uttFirst.toNat
    { part := bare x.bank.sample, trips := [], sat := false, nan := false }

/-- The stream once its rebuild is complete. -/
def afterRebuild (r : Rebuilt) (x : Stream) : Stream :=
  { x with rebuilding := false, arithSat := x.arithSat || r.sat, arithNonfinite := x.arithNonfinite || r.nan
           stateDrift := x.stateDrift || !r.trips.isEmpty, work := { x.work with drift := r.trips.foldl tripped x.work.drift }
           bank := { x.bank with sample := r.part }, wbank := { x.bank with sample := r.part } }

theorem rebuildDone_eq {h : Hw} {i : ImageFile} {x : Stream} {c : Nat} (hd : h.decodes = true) (hi : h.ex.image = some i)
    (hx : h.stream c = some x) (hr : x.rebuilding = true) :
    h.rebuildDone c = h.setStream c (afterRebuild (rebuilt h.mem.se i x) x) := by
  rw [Hw.rebuildDone, if_neg (by simp [hd]), hi, hx]
  dsimp only
  rw [if_neg (by simp [hr])]
  exact congrArg (h.setStream c) (by rw [trips_eq]; rfl)

theorem copyEvicted_eq {h : Hw} {x : Stream} {c : Nat} (hx : h.stream c = some x) (hp : x.plan = some h.ex.tick) (hl : x.life ≠ .lost)
    (hr : h.runIncomplete [] c x = false) (hf : h.frameIncomplete [] c x = false) (hk : h.chunkIncomplete [] c x = false) :
    h.copyEvicted c = h.setStream c { x with work := { x.work with copied := true } } := by
  rw [Hw.copyEvicted, hx]
  exact if_pos (by simp [hp, hl, hr, hf, hk])

/-- Settles O25: the rebuild keeps every part of the bank but histories and scan states, by induction over the spill codes; the
copy of an evicted bank is one field. -/
theorem rebuildAndEviction : Obligations.RebuildAndEviction := by
  refine ⟨fun s i x c hd hi hx hr => ?rebuild, fun s x c hin hx hp hl hrun hframe hchunk => ?evict⟩
  case rebuild =>
    refine ⟨{ s with hw := s.hw.rebuildDone c }, afterRebuild (rebuilt s.hw.mem.se i x) x, rfl, ?_⟩
    rw [rebuildDone_eq hd hi hx hr]
    have hpart : bare (rebuilt s.hw.mem.se i x).part = bare x.bank.sample := bare_rebuildTicks ..
    refine ⟨by simp, rfl, ?_, fun k hk => by simp [Ne.symm hk], rfl⟩
    exact congrArg (fun p => { x.bank with sample := p }) (part_of_bare hpart)
  case evict =>
    have e : exec (.evictionCopy c) s = .next { s with hw := if s.hw.inTick then s.hw.copyEvicted c else s.hw } := rfl
    rw [e, if_pos hin, copyEvicted_eq hx hp hl hrun hframe hchunk]

end Sys2Proof.Rebuild
end

section
/-!
PROOF. The lanes' issue slots and write-backs, and the faults of a unit's checks.
-/
namespace Sys2Proof.Lanes
open Sys2Proof.Machine

/-! ### A unit's fault history -/

theorem histOf_who (h : Hw) (u : UnitId) : (h.histOf u).who = u := by
  unfold Hw.histOf
  cases e : h.eng.hist.find? (fun x => x.who == u) with
  | none => rfl
  | some x => simpa using List.find?_some e

theorem histOf_setHist {h : Hw} {u : UnitId} {x : FaultHist} (hx : x.who = u) : (h.setHist x).histOf u = x := by
  have none0 : (h.eng.hist.filter (fun y => y.who != x.who)).find? (fun y => y.who == u) = none := by
    rw [List.find?_eq_none]
    intro y hy
    simpa [hx] using (List.mem_filter.1 hy).2
  unfold Hw.histOf Hw.setHist
  dsimp only
  rw [List.find?_append, none0]
  simp [hx]

theorem reissued_count (h : Hw) (u : UnitId) (unit : Nat) : ((h.reissued u unit).histOf u).count = (h.histOf u).count + 1 := by
  unfold Hw.reissued
  dsimp only
  rw [histOf_setHist]
  exact histOf_who h u

/-- A compute fault notes its tick in the history, and may make the unit's fence due; it counts no transient fault (R366). -/
theorem computeFault_frame (h : Hw) (u : UnitId) : ∃ hist due, h.computeFault u = { h with eng := { h.eng with hist := hist, fenceDue := due } }
    ∧ ((h.computeFault u).histOf u).count = (h.histOf u).count := by
  unfold Hw.computeFault
  extract_lets x now ticks g
  have hg : (g.histOf u).count = (h.histOf u).count := by
    have hx : ({ x with ticks := ticks } : FaultHist).who = u := histOf_who h u
    have e : g.histOf u = { x with ticks := ticks } := histOf_setHist hx
    rw [e]
  split
  · exact ⟨_, _, rfl, hg⟩
  · exact ⟨_, _, rfl, hg⟩

/-- The replay that a unit's first failure queues; a lane's runs at once. -/
def firstReplay (u : UnitId) (unit : Nat) (ctx : Option Nat) : Replay :=
  { who := u, unit := unit, fails := 0, ctx := ctx, running := u.kind == .lane, refetch := false, owner := none }

/-- A unit's first failure, where no replay waits: the history, and the replay that is queued (R163). -/
theorem unitFault_first {h : Hw} (hr : h.eng.replays = []) (u : UnitId) (unit : Nat) (ctx : Option Nat) : ∃ hist due,
    h.unitFault u unit ctx = { h with eng := { h.eng with hist := hist, fenceDue := due, replays := [firstReplay u unit ctx] } }
    ∧ ((h.unitFault u unit ctx).histOf u).count = (h.histOf u).count := by
  obtain ⟨hist, due, e, hcount⟩ := computeFault_frame h u
  have hnone : (h.computeFault u).eng.replays = [] := by rw [e]; exact hr
  have ef : h.unitFault u unit ctx = { h.computeFault u with eng := { (h.computeFault u).eng with replays := [firstReplay u unit ctx] } } := by
    unfold Hw.unitFault
    dsimp only
    rw [hnone]
    rfl
  refine ⟨hist, due, ?_, ?_⟩
  · rw [ef, e]
  · rw [ef, ← hcount]
    rfl

/-- A pass ends no replay where none runs. -/
theorem unitPass_none {h : Hw} (hr : h.eng.replays = []) (u : UnitId) (unit : Nat) (ctx : Option Nat) : h.unitPass u unit ctx = h := by
  unfold Hw.unitPass
  dsimp only
  rw [hr]
  exact congrArg (fun rs => { h with eng := { h.eng with replays := rs } }) hr.symm

/-! ### The outcome of a pass's checks -/

theorem checked_fault {h : Hw} {chk : PassCheck} {residues : Bool} (hbad : chk = .fault ∨ chk = .pass ∧ residues = false) (u owner : UnitId)
    (unit : Nat) (ctx : Option Nat) (f : Hw → Hw) : h.checked u owner unit ctx chk residues f = h.unitFault u unit ctx := by
  rcases hbad with rfl | ⟨rfl, rfl⟩ <;> rfl

theorem checked_pass {h : Hw} (u owner : UnitId) (unit : Nat) (ctx : Option Nat) (f : Hw → Hw) :
    h.checked u owner unit ctx .pass true f = (f h).unitPass u unit ctx := rfl

@[simp] theorem lane_setStream (h : Hw) (c k : Nat) (x : Stream) : (h.setStream c x).lane k = h.lane k := rfl
@[simp] theorem stream_setLane (h : Hw) (l k : Nat) (x : LaneUnit) : (h.setLane l x).stream k = h.stream k := rfl

/-! ### An issue slot (R132, R134) -/

section
variable {h : Hw} {i : ImageFile} {l : Nat} (hon : h.engOn = true) (hl : l < 24) (hi : h.ex.image = some i)
include hon hl hi

section
variable (hf : (⟨.lane, l⟩ : UnitId) ∉ h.eng.fenced)
include hf

theorem laneIssue_lo {c : Nat} (hlo : (h.lane l).lo = some c) :
    h.laneIssue l = h.setLane l { h.lane l with slots := (h.lane l).slots + 1, lo := none } := by
  rw [Hw.laneIssue, if_neg (by simp [hon, hl, hf]), hi]
  exact if_pos (by simp [hlo])

theorem laneIssue_empty (hlo : (h.lane l).lo = none) (hn : h.nextIssue i l = none) :
    h.laneIssue l = h.setLane l { h.lane l with slots := (h.lane l).slots + 1 } := by
  rw [Hw.laneIssue, if_neg (by simp [hon, hl, hf]), hi]
  dsimp only
  rw [if_neg (by simp [hlo]), hn]

theorem laneIssue_next (hlo : (h.lane l).lo = none) {slot c : Nat} {x : Stream} (hn : h.nextIssue i l = some (slot, c, x)) :
    h.laneIssue l = (h.setLane l { h.lane l with
        slots := (h.lane l).slots + 1, lastSlot := slot, flight := (h.lane l).flight ++ [(c, x.work.lane.step)]
        lo := if twoSlots i x.work.lane.step then some c else none }).setStream c
      { x with work := { x.work with lane := { x.work.lane with inFlight := true } } } := by
  rw [Hw.laneIssue, if_neg (by simp [hon, hl, hf]), hi]
  dsimp only
  rw [if_neg (by simp [hlo]), hn]

end

/-! ### The write-back (R133) -/

section
variable {c : Nat} {x : Stream} {st : LaneStep} {rest : List (Nat × Nat)} (hfl : (h.lane l).flight = (c, x.work.lane.step) :: rest)
  (hlo : (h.lane l).lo ≠ some c) (hx : h.stream c = some x) (hst : laneStep i x.work.lane.step = some st) (hsy : x.synth = true)
  (hin : x.work.lane.inFlight = true)
include hfl hlo hx hst hsy hin

/-- The oldest step leaves the pipeline. -/
theorem laneWriteback_pass {errs : List SumError} (hok : stepOk h.mem.se i x st errs = true) (hr : h.eng.replays = []) :
    h.laneWriteback l errs .pass
      = (h.setLane l { h.lane l with flight := rest }).setStream c (stepDo h.mem.se i x st x.work.lane.step errs) := by
  rw [Hw.laneWriteback, if_neg (by simp [hon, hl])]
  dsimp only
  rw [hfl, hi]
  dsimp only
  rw [if_neg (by simpa using hlo), hx, hst]
  dsimp only
  rw [if_neg (by simp [hsy, hin])]
  simp only [Hw.setLane_mem, hok, Bool.not_true, Bool.false_eq_true, if_false, checked_pass]
  exact unitPass_none (h := (h.setLane l { h.lane l with flight := rest }).setStream c _) hr ..

end
end

/-- A rejected step is taken out of the pipeline and out of flight, and its reissue is counted at the lane (R133). -/
def rejected (h : Hw) (l c : Nat) (x : Stream) (rest : List (Nat × Nat)) : Hw :=
  let g := h.setLane l { h.lane l with flight := rest }
  ((g.setLane l { g.lane l with reissues := (h.lane l).reissues + 1 }).reissued ⟨.lane, l⟩ x.work.lane.step).setStream c
    { x with work := { x.work with lane := { x.work.lane with inFlight := false } } }

@[simp] theorem lane_reissued (h : Hw) (u : UnitId) (unit k : Nat) : (h.reissued u unit).lane k = h.lane k := rfl

theorem lane_rejected (h : Hw) (l c k : Nat) (x : Stream) (rest : List (Nat × Nat)) : (rejected h l c x rest).lane k
    = if l = k then { h.lane l with flight := rest, reissues := (h.lane l).reissues + 1 } else h.lane k := by
  unfold rejected
  by_cases hk : l = k
  · subst hk
    simp
  · simp [hk]

theorem stream_rejected (h : Hw) (l c k : Nat) (x : Stream) (rest : List (Nat × Nat)) : (rejected h l c x rest).stream k
    = if c = k then some { x with work := { x.work with lane := { x.work.lane with inFlight := false } } } else h.stream k := by
  unfold rejected
  rw [Hw.stream_setStream]
  rfl

theorem histOf_rejected (h : Hw) (l c : Nat) (x : Stream) (rest : List (Nat × Nat)) :
    ((rejected h l c x rest).histOf ⟨.lane, l⟩).count = (h.histOf ⟨.lane, l⟩).count + 1 := by
  unfold rejected
  exact reissued_count _ _ _

theorem laneWriteback_fails {h : Hw} {i : ImageFile} {l c : Nat} {x : Stream} {st : LaneStep} {rest : List (Nat × Nat)} {errs : List SumError}
    {chk : PassCheck} (hon : h.engOn = true) (hl : l < 24) (hi : h.ex.image = some i) (hfl : (h.lane l).flight = (c, x.work.lane.step) :: rest)
    (hlo : (h.lane l).lo ≠ some c) (hx : h.stream c = some x) (hst : laneStep i x.work.lane.step = some st) (hsy : x.synth = true)
    (hin : x.work.lane.inFlight = true) (hbad : chk = .fault ∨ chk = .pass ∧ stepOk h.mem.se i x st errs = false) :
    h.laneWriteback l errs chk = (rejected h l c x rest).unitFault ⟨.lane, l⟩ x.work.lane.step (some c) := by
  rw [Hw.laneWriteback, if_neg (by simp [hon, hl])]
  dsimp only
  rw [hfl, hi]
  dsimp only
  rw [if_neg (by simpa using hlo), hx, hst]
  dsimp only
  rw [if_neg (by simp [hsy, hin])]
  rcases hbad with rfl | ⟨rfl, hno⟩
  · rfl
  · simp only [Hw.setLane_mem, hno, Bool.not_false, if_true]
    exact checked_fault (.inr ⟨rfl, hno⟩) ..

/-- Settles O24: an issue slot by what the lane presents, a write-back by the outcome of its checks. -/
theorem laneSteps : Obligations.LaneSteps := by
  refine ⟨fun s i l slot c x hon hl hf hi => ⟨fun hlo => ?lo, fun hlo hn => ?empty, fun hlo hn => ?next⟩,
    fun s i x st l c rest errs chk hon hl hi hfl hlo hx hst hsy hin hr => ⟨fun hok => ?pass, fun hbad => ?fails⟩⟩
  case lo => exact congrArg (fun g => Host.Outcome.next { s with hw := g }) (laneIssue_lo hon hl hi hf hlo)
  case empty => exact congrArg (fun g => Host.Outcome.next { s with hw := g }) (laneIssue_empty hon hl hi hf hlo hn)
  case next =>
    refine ⟨{ s with hw := s.hw.laneIssue l }, { x with work := { x.work with lane := { x.work.lane with inFlight := true } } }, rfl, ?_⟩
    rw [laneIssue_next hon hl hi hf hlo hn]
    refine ⟨?_, ?_, ?_, ?_, (Hw.stream_setStream ..).trans (if_pos rfl), rfl, rfl, rfl, fun k hk => ?_, fun k hk => ?_⟩
    · simp
    · simp
    · simp
    · simp
    · simp [Ne.symm hk]
    · simp [Ne.symm hk]
  case pass => exact congrArg (fun g => Host.Outcome.next { s with hw := g }) (laneWriteback_pass hon hl hi hfl hlo hx hst hsy hin hok hr)
  case fails =>
    refine ⟨{ s with hw := s.hw.laneWriteback l errs chk },
      { x with work := { x.work with lane := { x.work.lane with inFlight := false } } }, rfl, ?_⟩
    rw [laneWriteback_fails hon hl hi hfl hlo hx hst hsy hin hbad]
    have hr' : (rejected s.hw l c x rest).eng.replays = [] := hr
    obtain ⟨hist, due, e, hcount⟩ := unitFault_first hr' ⟨.lane, l⟩ x.work.lane.step (some c)
    have lanes (k : Nat) : (Hw.unitFault (rejected s.hw l c x rest) ⟨.lane, l⟩ x.work.lane.step (some c)).lane k
        = (rejected s.hw l c x rest).lane k := by rw [e]; rfl
    have streams (k : Nat) : (Hw.unitFault (rejected s.hw l c x rest) ⟨.lane, l⟩ x.work.lane.step (some c)).stream k
        = (rejected s.hw l c x rest).stream k := by rw [e]; rfl
    have mem : (Hw.unitFault (rejected s.hw l c x rest) ⟨.lane, l⟩ x.work.lane.step (some c)).mem = s.hw.mem := by rw [e]; rfl
    dsimp only
    rw [streams, lanes, hcount, lane_rejected, stream_rejected, if_pos rfl, if_pos rfl]
    exact ⟨rfl, rfl, rfl, rfl, rfl, rfl, rfl, histOf_rejected .., mem,
      fun k hk => by rw [streams, stream_rejected, if_neg (Ne.symm hk)], fun k hk => by rw [lanes, lane_rejected, if_neg (Ne.symm hk)]⟩

end Sys2Proof.Lanes
end

section
/-!
PROOF. The start of a replay: locks, steps and passes that are to be done again.
-/
namespace Sys2Proof.ReplayStart
open Sys2Proof.Machine

/-! ### A change of every stream -/

theorem stream_modStream (h : Hw) (c k : Nat) (f : Stream → Stream) :
    (h.modStream c f).stream k = if c = k then (h.stream k).map f else h.stream k := by
  unfold Hw.modStream
  by_cases hk : c = k
  · subst hk
    cases hs : h.stream c with
    | none => simp [hs]
    | some x => simp
  · rw [if_neg hk]
    cases h.stream c with
    | none => rfl
    | some x => rw [Hw.stream_setStream, if_neg hk]

theorem mem_ctxs {h : Hw} {c : Nat} {x : Stream} (hx : h.stream c = some x) : (c, x) ∈ h.ctxs := by
  have mem : ∀ t : Table (Option Stream), tget none t c = some x → (c, some x) ∈ t := by
    intro t
    induction t with
    | nil => intro ht; cases ht
    | cons e r ih =>
      obtain ⟨j, v⟩ := e
      intro ht
      rw [tget] at ht
      split at ht
      · next hj => rw [ht, hj]; exact List.mem_cons_self
      · exact List.mem_cons_of_mem _ (ih ht)
  exact List.mem_filterMap.2 ⟨(c, some x), mem _ hx, rfl⟩

theorem stream_foldl_mod {f : Nat → Stream → Stream} (hf : ∀ c x, f c (f c x) = f c x) (l : List (Nat × Stream)) (h : Hw) (c : Nat) :
    (l.foldl (fun a e => a.modStream e.1 (f e.1)) h).stream c
      = if c ∈ l.map Prod.fst then (h.stream c).map (f c) else h.stream c := by
  have twice : (f c ∘ f c) = f c := funext (hf c)
  induction l generalizing h with
  | nil => rfl
  | cons e l ih =>
    rw [List.foldl_cons, ih, stream_modStream]
    by_cases he : e.1 = c
    · subst he
      simp [Option.map_map, twice]
    · simp only [if_neg he, List.map_cons, List.mem_cons, or_iff_right (Ne.symm he)]

/-- A change that repeating does not alter reaches each stream once. -/
theorem stream_mapStreams {f : Nat → Stream → Stream} (hf : ∀ c x, f c (f c x) = f c x) (h : Hw) (c : Nat) :
    (h.mapStreams f).stream c = (h.stream c).map (f c) := by
  unfold Hw.mapStreams
  rw [stream_foldl_mod hf]
  cases hx : h.stream c with
  | none => split <;> rfl
  | some x => exact if_pos (List.mem_map_of_mem (mem_ctxs hx))

theorem modStream_frame (h : Hw) (c : Nat) (f : Stream → Stream) : h.modStream c f = { h with streams := (h.modStream c f).streams } := by
  unfold Hw.modStream
  split <;> rfl

theorem mapStreams_frame (h : Hw) (f : Nat → Stream → Stream) : h.mapStreams f = { h with streams := (h.mapStreams f).streams } := by
  unfold Hw.mapStreams
  exact foldl_inv (fun a : Hw => a = { h with streams := a.streams }) _
    (fun a e ha => by rw [modStream_frame]; exact congrArg (fun g : Hw => { g with streams := (a.modStream e.1 (f e.1)).streams }) ha) _ _ rfl

/-! ### The locks and tiles of a replayed unit (R163) -/

/-- A block without what a replay's start restores: the tiles, and the locks with their fills and waiting swaps. -/
def unlocked (h : Hw) : Hw := { h with eng := { h.eng with tiles := [], locks := [], filled := [], swapWait := [] } }

theorem unlocked_onScales (h : Hw) (l : Nat) (f : Tile → Tile) : unlocked (h.onScales l f) = unlocked h := by
  unfold Hw.onScales
  split <;> rfl

theorem locks_onScales (h : Hw) (l : Nat) (f : Tile → Tile) : (h.onScales l f).eng.locks = h.eng.locks := by
  unfold Hw.onScales
  split <;> rfl

theorem unlocked_restoreLock (i : ImageFile) (p : Nat) (h : Hw) (l : Nat) : unlocked (Hw.restoreLock i p h l) = unlocked h := by
  unfold Hw.restoreLock
  extract_lets n c g
  have hg : unlocked g = unlocked h := by
    show unlocked (if c % 2 = n % 2 then h else h.onScales l Tile.unswapScales) = _
    split
    · rfl
    · exact unlocked_onScales ..
  split
  · rfl
  · exact hg

theorem locks_restoreLock (i : ImageFile) (p : Nat) (h : Hw) (l k : Nat) : tget 0 (Hw.restoreLock i p h l).eng.locks k
    = if l = k then swapsBefore i l p else tget 0 h.eng.locks k := by
  unfold Hw.restoreLock
  extract_lets n c g
  have hg : g.eng.locks = h.eng.locks := by
    show (if c % 2 = n % 2 then h else h.onScales l Tile.unswapScales).eng.locks = _
    split
    · rfl
    · exact locks_onScales ..
  split
  · next hc =>
    have hcn : c = n := by
      simp only [Bool.and_eq_true, decide_eq_true_eq] at hc
      exact hc.1
    by_cases hk : l = k
    · subst hk
      rw [if_pos rfl]
      exact hcn
    · rw [if_neg hk]
  · rw [← hg]
    exact tget_tput ..

/-- Every lock of a list returns to where it stood; the others stay. -/
theorem locks_restoreLocks (i : ImageFile) (p : Nat) (ls : List Nat) (h : Hw) (k : Nat) : tget 0 (ls.foldl (Hw.restoreLock i p) h).eng.locks k
    = if k ∈ ls then swapsBefore i k p else tget 0 h.eng.locks k := by
  induction ls generalizing h with
  | nil => rfl
  | cons l ls ih =>
    rw [List.foldl_cons, ih, locks_restoreLock]
    by_cases hk : l = k
    · subst hk
      simp
    · simp only [if_neg hk, List.mem_cons, or_iff_right (Ne.symm hk)]

theorem unlocked_restoreLocks (i : ImageFile) (p : Nat) (ls : List Nat) (h : Hw) : unlocked (ls.foldl (Hw.restoreLock i p) h) = unlocked h :=
  foldl_keeps unlocked _ (fun g l => unlocked_restoreLock i p g l) _ _

theorem rewindTile_frame (i : ImageFile) (unit : Nat) (h : Hw) (t : Nat) :
    unlocked (Hw.rewindTile i unit h t) = unlocked h ∧ (Hw.rewindTile i unit h t).eng.locks = h.eng.locks := by
  unfold Hw.rewindTile
  dsimp only
  split <;> exact ⟨rfl, rfl⟩

theorem rewindTiles_frame (i : ImageFile) (unit : Nat) (ts : List Nat) (h : Hw) :
    unlocked (ts.foldl (Hw.rewindTile i unit) h) = unlocked h ∧ (ts.foldl (Hw.rewindTile i unit) h).eng.locks = h.eng.locks :=
  ⟨foldl_keeps unlocked _ (fun g t => (rewindTile_frame i unit g t).1) _ _,
    foldl_keeps (fun g : Hw => g.eng.locks) _ (fun g t => (rewindTile_frame i unit g t).2) _ _⟩

/-! ### The passes that a Conv-Scan Unit repeats -/

/-- The passes of a step for a stream stand through the replay: it does not repeat them, or the step has handed its berm on. -/
def stands (i : ImageFile) (r : Replay) (c : Nat) (x : Stream) (p : Nat) : Bool := !r.repeats i p c || bermDone i x p

/-- The stream without the passes that the replay repeats. -/
def uncovered (i : ImageFile) (r : Replay) (c : Nat) (x : Stream) : Stream :=
  { x with work := { x.work with cover := x.work.cover.filter (fun e => stands i r c x e.1) } }

theorem tget_filter {α : Type} (d : α) (t : Table α) (keep : Nat → Bool) {k : Nat} (hk : keep k = true) :
    tget d (t.filter (fun e => keep e.1)) k = tget d t k := by
  induction t with
  | nil => rfl
  | cons e r ih =>
    obtain ⟨j, v⟩ := e
    by_cases hj : j = k
    · subst hj
      simp [tget, hk]
    · by_cases hkeep : keep j = true <;> simp [tget, hj, hkeep, ih]

/-- Whether a step is covered depends on the step's own passes. -/
theorem stepCovered_uncovered {i : ImageFile} {r : Replay} {c : Nat} {x : Stream} {p : Nat} (hp : stands i r c x p = true) (op : CsuOp) :
    stepCovered i (uncovered i r c x) p op = stepCovered i x p op := by
  unfold stepCovered uncovered
  dsimp only
  rw [tget_filter [] x.work.cover (stands i r c x) hp]

theorem bermDone_uncovered {i : ImageFile} {r : Replay} {c : Nat} {x : Stream} {p : Nat} (hp : stands i r c x p = true) :
    bermDone i (uncovered i r c x) p = bermDone i x p := by
  unfold bermDone
  simp only [stepCovered_uncovered hp]

/-- What stands once stands again: taking the repeated passes away twice is taking them away once. -/
theorem uncovered_twice (i : ImageFile) (r : Replay) (c : Nat) (x : Stream) : uncovered i r c (uncovered i r c x) = uncovered i r c x := by
  have same : (uncovered i r c x).work.cover.filter (fun e => stands i r c (uncovered i r c x) e.1) = (uncovered i r c x).work.cover := by
    rw [List.filter_eq_self]
    intro e he
    have hp : stands i r c x e.1 = true := (List.mem_filter.1 he).2
    rw [stands, bermDone_uncovered hp]
    exact hp
  exact congrArg (fun cover => { x with work := { x.work with cover := cover } }) same

/-! ### The start of a replay -/

/-- The faults that run again with a replay: the same unit's, by Conv-Scan Units those of the same group. -/
def runsWith (r x : Replay) : Bool :=
  x.unit == r.unit && !x.refetch && x.who.kind != .lane
    && (if r.who.kind = .csu then x.who.kind == .csu && x.who.index / 4 == r.who.index / 4 else x.who.kind != .csu)

theorem runsWith_eq (r x : Replay) : (x.unit == r.unit && !x.refetch && x.who.kind != .lane && (x.who.kind == .csu) == (r.who.kind == .csu)
    && (r.who.kind != .csu || x.who.index / 4 == r.who.index / 4)) = runsWith r x := by
  unfold runsWith
  by_cases hr : r.who.kind = .csu
  · simp [hr, Bool.and_assoc]
  · have hr' : (r.who.kind == UnitKind.csu) = false := by simpa using hr
    simp [hr, hr', bne]

/-- The first step of a replay unit. -/
def firstStep (i : ImageFile) (r : Replay) : Nat := match i.parts.tick.units[r.unit]? with | some u => u.first | none => 0

/-- The faults that run again are marked, and the locks return to the unit's first step. -/
def restarted (h : Hw) (i : ImageFile) (r : Replay) : Hw :=
  (List.range i.parts.tick.locks).foldl (Hw.restoreLock i (firstStep i r))
    { h with eng := { h.eng with replays := h.eng.replays.map (fun x => if runsWith r x then { x with running := true } else x) } }

/-- The steps of a Frame Engine unit are to be done again. -/
def rewound (g : Hw) (i : ImageFile) (r : Replay) : Hw :=
  if r.who.kind = .csu then g
  else (List.range 128).foldl (Hw.rewindTile i r.unit) { g with eng := { g.eng with steps := g.eng.steps.filter (fun p => !inUnit i r.unit p) } }

theorem startReplay_eq {h : Hw} {i : ImageFile} {r : Replay} (hon : h.engOn = true) (hi : h.ex.image = some i)
    (hr : h.eng.replays.find? (fun x => !x.running && !x.refetch && x.who.kind != .lane) = some r) :
    h.startReplay = (rewound (restarted h i r) i r).mapStreams (uncovered i r) := by
  rw [Hw.startReplay, if_neg (by simp [hon]), hi, hr]
  simp only [runsWith_eq, beq_iff_eq]
  rfl

theorem unlocked_restarted (h : Hw) (i : ImageFile) (r : Replay) : unlocked (restarted h i r)
    = unlocked { h with eng := { h.eng with replays := h.eng.replays.map (fun x => if runsWith r x then { x with running := true } else x) } } :=
  unlocked_restoreLocks ..

theorem locks_rewound (g : Hw) (i : ImageFile) (r : Replay) : (rewound g i r).eng.locks = g.eng.locks := by
  unfold rewound
  split
  · rfl
  · exact (rewindTiles_frame ..).2

theorem unlocked_rewound (g : Hw) (i : ImageFile) (r : Replay) : unlocked (rewound g i r)
    = unlocked { g with eng := { g.eng with steps :=
        if r.who.kind = .csu then g.eng.steps else g.eng.steps.filter (fun p => !inUnit i r.unit p) } } := by
  unfold rewound
  split
  · rfl
  · exact (rewindTiles_frame ..).1

/-- The steps that are still done once the replay has started. -/
def stepsLeft (i : ImageFile) (r : Replay) (steps : List Nat) : List Nat :=
  if r.who.kind = .csu then steps else steps.filter (fun p => !inUnit i r.unit p)

theorem unlocked_restart (h : Hw) (i : ImageFile) (r : Replay) : unlocked (rewound (restarted h i r) i r)
    = unlocked { h with eng := { h.eng with replays := h.eng.replays.map (fun x => if runsWith r x then { x with running := true } else x)
                                            steps := stepsLeft i r h.eng.steps } } :=
  (unlocked_rewound _ i r).trans
    (congrArg (fun g : Hw => { g with eng := { g.eng with steps := stepsLeft i r g.eng.steps } }) (unlocked_restarted h i r))

theorem locks_restarted (h : Hw) (i : ImageFile) (r : Replay) {l : Nat} (hl : l < i.parts.tick.locks) :
    tget 0 (rewound (restarted h i r) i r).eng.locks l = swapsBefore i l (firstStep i r) := by
  rw [locks_rewound]
  exact (locks_restoreLocks ..).trans (if_pos (List.mem_range.2 hl))

/-- Settles O21: the locks by the fold over them, the passes by what stands through the replay. -/
theorem replayRunsFirstFault : Obligations.ReplayRunsFirstFault := by
  intro s i r hon hi hr again first
  refine ⟨{ s with hw := s.hw.startReplay }, rfl, ?_⟩
  dsimp only
  have hstart := unlocked_restart s.hw i r
  have hlocks (l : Nat) (hl : l < i.parts.tick.locks) := locks_restarted s.hw i r hl
  rw [startReplay_eq hon hi hr]
  generalize rewound (restarted s.hw i r) i r = g at hstart hlocks
  have hstreams := congrArg Hw.streams hstart
  have hreplays := congrArg (fun a : Hw => a.eng.replays) hstart
  have hmem := congrArg Hw.mem hstart
  have hfenced := congrArg (fun a : Hw => a.eng.fenced) hstart
  have hex := congrArg Hw.ex hstart
  have hsteps := congrArg (fun a : Hw => a.eng.steps) hstart
  have hstream (c : Nat) : (g.mapStreams (uncovered i r)).stream c = (s.hw.stream c).map (uncovered i r c) := by
    rw [stream_mapStreams (uncovered_twice i r)]
    exact congrArg (fun t => (tget none t c).map (uncovered i r c)) hstreams
  refine ⟨?_, ?_, ?_, ?_, ?_, ?_, fun c hx => by rw [hstream, hx]; rfl, fun c x hx => by rw [hstream, hx]; rfl⟩
  all_goals rw [mapStreams_frame]
  · exact hreplays
  · exact hmem
  · exact hfenced
  · exact hex
  · exact hlocks
  · exact hsteps

end Sys2Proof.ReplayStart
end

section
/-!
PROOF. The passes of a Conv-Scan Unit: results, berms and faults.
-/
namespace Sys2Proof.CsuPass
open Sys2Proof.Machine

/-! ### A pass leaves the committed bank (R143) -/

theorem bank_tripN (n k : Nat) (x : Stream) : (tripN n k x).bank = x.bank := by
  induction n generalizing x with
  | zero => rfl
  | succ n ih => rw [tripN, ih]; rfl

theorem bank_layerDone (i : ImageFile) (l : Nat) (y : CsuLayer) (x : Stream) : (layerDone i l y x).bank = x.bank := by
  unfold layerDone
  split <;> rfl

theorem bank_csuDo (se : Memory) (i : ImageFile) (x : Stream) (p : Nat) (op : CsuOp) (t0 count : Nat) (berm : Option (Nat × List (List F16)))
    (errs : List SumError) : (csuDo se i x p op t0 count berm errs).bank = x.bank := by
  cases op with
  | layer l set m =>
    unfold csuDo
    dsimp only
    cases i.parts.csu[l]? with
    | none => rfl
    | some y => exact bank_layerDone ..
  | scan k =>
    unfold csuDo
    dsimp only
    cases i.parts.recs[k]? with
    | none => rfl
    | some r =>
      dsimp only
      split
      · rfl
      · exact bank_tripN ..

/-! ### What becomes of the berms (R119) -/

/-- The units once a buffer has been released. -/
def emptied (h : Hw) (left : Option Nat) (k : Nat) : CsuUnit :=
  if left = some k then { h.csu k with reading := false, flag := none, berm := [], released := true } else h.csu k

theorem csu_release (h : Hw) (left : Option Nat) (k : Nat) : (h.bermAfter 0 left none).csu k = emptied h left k := by
  unfold Hw.bermAfter emptied
  cases left with
  | none => rfl
  | some j =>
    dsimp only
    rw [Hw.csu_setCsu]
    by_cases hj : j = k
    · rw [if_pos hj, if_pos (congrArg some hj), hj]
    · rw [if_neg hj, if_neg (fun e => hj (Option.some.inj e))]

theorem bermAfter_some (h : Hw) (c : Nat) (left : Option Nat) (b : Berm) : h.bermAfter c left (some b)
    = if (emptied h left b.goes).released then (h.bermAfter 0 left none).setBerm b
      else (h.bermAfter 0 left none).setCsu c { emptied h left c with held := some b } := by
  rw [← csu_release, ← csu_release]
  rfl

theorem bermAfter_frame (h : Hw) (c : Nat) (left : Option Nat) (b : Option Berm) :
    h.bermAfter c left b = { h with eng := { h.eng with csus := (h.bermAfter c left b).eng.csus } } := by
  unfold Hw.bermAfter
  cases b with
  | none => cases left <;> rfl
  | some b =>
    cases left <;>
    · dsimp only
      split <;> rfl

/-! ### The pass -/

/-- The berm that the pass reads, with the input at which its stripe begins. -/
def bermIn (h : Hw) (i : ImageFile) (x : Stream) (op : CsuOp) (expects : Option Nat) (c ctx : Nat) : Option (Nat × List (List F16)) :=
  (expects.bind (h.bermFor c ctx)).map (fun k => (stripeFirst i x op, (h.csu k).berm))

/-- The stream once the pass has written its results. -/
def wrote (h : Hw) (i : ImageFile) (x : Stream) (op : CsuOp) (expects : Option Nat) (c p ctx t0 count : Nat) (errs : List SumError) : Stream :=
  csuDo h.mem.se i x p op t0 count (bermIn h i x op expects c ctx) errs

/-- The block once the pass has written its results `y`, and, where they complete the step, its berms. -/
def ended (h : Hw) (i : ImageFile) (y : Stream) (op : CsuOp) (expects : Option Nat) (c p ctx : Nat) : Hw :=
  if stepCovered i y p op then
    (h.setStream ctx y).bermAfter c (bermLeft i y expects (expects.bind (h.bermFor c ctx))) ((h.setStream ctx y).bermOut i y p ctx op)
  else h.setStream ctx y

theorem ended_frame (h : Hw) (i : ImageFile) (y : Stream) (op : CsuOp) (expects : Option Nat) (c p ctx : Nat) :
    ended h i y op expects c p ctx
      = { h.setStream ctx y with eng := { h.eng with csus := (ended h i y op expects c p ctx).eng.csus } } := by
  unfold ended
  split
  · exact bermAfter_frame ..
  · rfl

section
variable {h : Hw} {i : ImageFile} {x : Stream} {op : CsuOp} {units : List Nat} {expects : Option Nat} {c p ctx t0 count : Nat}
  {errs : List SumError} (hon : h.engOn = true) (hc : c < 32) (hf : (⟨.csu, c⟩ : UnitId) ∉ h.eng.fenced) (hw : (h.csu c).waiting = none)
  (hi : h.ex.image = some i) (hx : h.stream ctx = some x) (hop : (tickStep i p).map TickStep.op = some (.csu units op expects))
  (hrun : c = h.csuRunner i p ctx) (hr : h.eng.replays = []) (hsy : x.synth = true) (hcov : stepCovered i x p op = false)
  (hrdy : csuReady i x p op t0 count = true) (hheld : (h.csu c).held = none ∨ bermReaders i x p = [])
  (hbuf : expects.isSome = true → (expects.bind (h.bermFor c ctx)).isSome = true)
include hon hc hf hw hi hx hop hrun hr hsy hcov hrdy hheld hbuf

/-- A pass that may end comes to the outcome of its checks. -/
theorem csuPass_checked (chk : PassCheck) : h.csuPass c p ctx t0 count errs chk
    = h.checked ⟨.csu, c⟩ ⟨.csu, c⟩ ((unitOf i p).getD 0) none chk
        (csuOk h.mem.se i x op t0 count (bermIn h i x op expects c ctx) errs)
        (fun a => a.csuEnd i x c p ctx op t0 count expects (expects.bind (h.bermFor c ctx)) (bermIn h i x op expects c ctx) errs) := by
  have hmay : (expects.isSome && (expects.bind (h.bermFor c ctx)).isNone) = false := by
    cases he : expects.isSome with
    | false => rfl
    | true => simpa using hbuf he
  have hidle : ((h.csu c).held.isSome && !(bermReaders i x p).isEmpty) = false := by
    rcases hheld with hn | hn <;> simp [hn]
  have hwait : h.replayWaits ((unitOf i p).getD 0) (fun r => r.repeats i p ctx) = false := by simp [Hw.replayWaits, hr]
  rw [Hw.csuPass, if_neg (by simp [hon, hc, hf, hw]), hi, hx]
  dsimp only
  rw [hop]
  dsimp only
  rw [if_neg (by simp [hsy, ← hrun, hmay, hidle, hwait, hcov, hrdy])]
  rfl

theorem csuPass_pass (hok : csuOk h.mem.se i x op t0 count (bermIn h i x op expects c ctx) errs = true) :
    h.csuPass c p ctx t0 count errs .pass = ended h i (wrote h i x op expects c p ctx t0 count errs) op expects c p ctx := by
  have hend : h.csuEnd i x c p ctx op t0 count expects (expects.bind (h.bermFor c ctx)) (bermIn h i x op expects c ctx) errs
      = ended h i (wrote h i x op expects c p ctx t0 count errs) op expects c p ctx := rfl
  rw [csuPass_checked hon hc hf hw hi hx hop hrun hr hsy hcov hrdy hheld hbuf, hok, Lanes.checked_pass, hend]
  refine Lanes.unitPass_none ?_ ..
  rw [ended_frame]
  exact hr

theorem csuPass_fault : h.csuPass c p ctx t0 count errs .fault = h.unitFault ⟨.csu, c⟩ ((unitOf i p).getD 0) none := by
  rw [csuPass_checked hon hc hf hw hi hx hop hrun hr hsy hcov hrdy hheld hbuf]
  rfl

end

/-- Settles O22: the results by the committed bank that stays, the berms by what is released and handed on. -/
theorem csuPassWritesResults : Obligations.CsuPassWritesResults := by
  intro s i x op units expects c p ctx t0 count errs hon hc hf hw hi hx hop hrun hr hsy hcov hrdy hheld buf hbuf se berm y left out after put
  refine ⟨bank_csuDo .., fun hok => ?pass, ?fault⟩
  case pass =>
    refine ⟨{ s with hw := s.hw.csuPass c p ctx t0 count errs .pass }, rfl, ?_⟩
    dsimp only [put]
    have hy : wrote s.hw i x op expects c p ctx t0 count errs = y := rfl
    rw [csuPass_pass hon hc hf hw hi hx hop hrun hr hsy hcov hrdy hheld hbuf hok, hy]
    have hframe := ended_frame s.hw i y op expects c p ctx
    have hopens (ho : stepCovered i y p op = false) : ended s.hw i y op expects c p ctx = s.hw.setStream ctx y := if_neg (by rw [ho]; decide)
    have hdoes (hd : stepCovered i y p op = true) : ended s.hw i y op expects c p ctx = (s.hw.setStream ctx y).bermAfter c left out := if_pos hd
    generalize ended s.hw i y op expects c p ctx = g at hframe hopens hdoes
    have hafter (k : Nat) : emptied (s.hw.setStream ctx y) left k = after k := rfl
    refine ⟨⟨?_, fun k hk => ?_, ?_, ?_⟩, hopens, fun hdone hout k => ?none, fun hdone b hout => ⟨fun hrel => ?hands, fun hrel => ?holds⟩⟩
    · exact (congrArg (Hw.stream · ctx) hframe).trans ((Hw.stream_setStream ..).trans (if_pos rfl))
    · exact (congrArg (Hw.stream · k) hframe).trans ((Hw.stream_setStream ..).trans (if_neg (Ne.symm hk)))
    · exact (congrArg Hw.mem hframe :)
    · exact (congrArg Hw.eng hframe :)
    case none =>
      rw [hdoes hdone, hout]
      exact csu_release (s.hw.setStream ctx y) left k
    case hands =>
      rw [hdoes hdone, hout, bermAfter_some, hafter, if_pos hrel]
      refine ⟨?_, fun k hk => (Hw.csu_setBerm _ b k hk).trans (csu_release ..)⟩
      rw [Berms.csu_setBerm_goes, csu_release, hafter]
      simp [Berms.filledBy]
    case holds =>
      rw [hdoes hdone, hout, bermAfter_some, hafter, if_neg (by simp [hrel]), hafter]
      exact ⟨(Hw.csu_setCsu ..).trans (if_pos rfl), fun k hk => (Hw.csu_setCsu ..).trans ((if_neg (Ne.symm hk)).trans (csu_release ..))⟩
  case fault =>
    refine ⟨{ s with hw := s.hw.csuPass c p ctx t0 count errs .fault }, Lanes.firstReplay ⟨.csu, c⟩ ((unitOf i p).getD 0) none, rfl, ?_⟩
    dsimp only
    rw [csuPass_fault hon hc hf hw hi hx hop hrun hr hsy hcov hrdy hheld hbuf]
    obtain ⟨hist, due, e, -⟩ := Lanes.unitFault_first hr ⟨.csu, c⟩ ((unitOf i p).getD 0) none
    rw [e]
    exact ⟨rfl, rfl, rfl, rfl, rfl, rfl, rfl, rfl, rfl⟩

end Sys2Proof.CsuPass
end

section
/-!
PROOF. Scale entries and accumulators that reach a tile, and lock swaps.
-/
namespace Sys2Proof.TileEvents
open Sys2Proof.Machine

/-! ### The parts of a block that a tile's locks concern -/

/-- The block with other tiles, locks, fills and waiting swaps. -/
def relocked (h g : Hw) : Hw :=
  { h with eng := { h.eng with tiles := g.eng.tiles, locks := g.eng.locks, filled := g.eng.filled, swapWait := g.eng.swapWait } }

theorem relocked_trans {h g k : Hw} (hg : g = relocked h g) (hk : k = relocked g k) : k = relocked h k :=
  calc k = relocked g k := hk
    _ = relocked (relocked h g) k := congrArg (relocked · k) hg
    _ = relocked h k := rfl

theorem relocked_setTile (h : Hw) (t : Nat) (u : Tile) : h.setTile t u = relocked h (h.setTile t u) := rfl

theorem tileU_onScales (h : Hw) (l : Nat) (f : Tile → Tile) (t : Nat) :
    (h.onScales l f).tileU t = if l < 384 ∧ l % 3 = 1 ∧ t = l / 3 then f (h.tileU t) else h.tileU t := by
  unfold Hw.onScales
  by_cases hl : l < 384 ∧ l % 3 = 1
  · rw [if_pos hl, Hw.tileU_setTile]
    by_cases ht : t = l / 3
    · rw [if_pos ht.symm, if_pos ⟨hl.1, hl.2, ht⟩, ht]
    · rw [if_neg (Ne.symm ht), if_neg (fun hh => ht hh.2.2)]
  · rw [if_neg hl, if_neg (fun hh => hl ⟨hh.1, hh.2.1⟩)]

theorem onScales_frame (h : Hw) (l : Nat) (f : Tile → Tile) : h.onScales l f = { h with eng := { h.eng with tiles := (h.onScales l f).eng.tiles } } := by
  unfold Hw.onScales
  split <;> rfl

/-! ### A swap of a lock (R73, R166) -/

/-- What a swap of lock `l` leaves: its count, its fill, the swaps that wait, and the scale entries of its tile. -/
theorem swapLock_spec (h : Hw) (l : Nat) : h.swapLock l = relocked h (h.swapLock l)
    ∧ (∀ k, tget 0 (h.swapLock l).eng.locks k = tget 0 h.eng.locks k + (if k = l then 1 else 0))
    ∧ (∀ k, tget false (h.swapLock l).eng.filled k = if k = l then false else tget false h.eng.filled k)
    ∧ (h.swapLock l).eng.swapWait = h.eng.swapWait.filter (fun k => k != l)
    ∧ ∀ t, (h.swapLock l).tileU t = if l < 384 ∧ l % 3 = 1 ∧ t = l / 3 then (h.tileU t).swapScales else h.tileU t := by
  have htiles := tileU_onScales h l Tile.swapScales
  unfold Hw.swapLock
  rw [onScales_frame] at *
  refine ⟨rfl, fun k => ?_, fun k => ?_, rfl, htiles⟩
  · refine (tget_tput ..).trans ?_
    by_cases hk : k = l
    · subst hk
      simp
    · simp [hk, Ne.symm hk]
  · refine (tget_tput ..).trans ?_
    by_cases hk : k = l
    · subst hk
      simp
    · simp [hk, Ne.symm hk]

/-- What the completed fill of lock `l` leaves: a lock whose swap waits swaps, another is filled. -/
theorem filledNow_spec (h : Hw) (l : Nat) : h.filledNow l = relocked h (h.filledNow l)
    ∧ (∀ k, tget 0 (h.filledNow l).eng.locks k = tget 0 h.eng.locks k + (if k = l ∧ l ∈ h.eng.swapWait then 1 else 0))
    ∧ (∀ k, tget false (h.filledNow l).eng.filled k = if k = l then !decide (l ∈ h.eng.swapWait) else tget false h.eng.filled k)
    ∧ (h.filledNow l).eng.swapWait = (if l ∈ h.eng.swapWait then h.eng.swapWait.filter (fun k => k != l) else h.eng.swapWait)
    ∧ ∀ t, (h.filledNow l).tileU t
        = if l ∈ h.eng.swapWait ∧ l < 384 ∧ l % 3 = 1 ∧ t = l / 3 then (h.tileU t).swapScales else h.tileU t := by
  have hput (k : Nat) : tget false (tput false h.eng.filled l true) k = if k = l then true else tget false h.eng.filled k := by
    rw [tget_tput]
    by_cases hk : k = l
    · rw [if_pos hk, if_pos hk.symm]
    · rw [if_neg hk, if_neg (Ne.symm hk)]
  unfold Hw.filledNow
  dsimp only
  by_cases hw : l ∈ h.eng.swapWait
  · obtain ⟨hframe, hlocks, hfilled, hwait, htiles⟩ :=
      swapLock_spec { h with eng := { h.eng with filled := tput false h.eng.filled l true } } l
    rw [if_pos hw]
    refine ⟨hframe, fun k => ?_, fun k => ?_, hwait.trans (if_pos hw).symm, fun t => ?_⟩
    · rw [hlocks]
      simp [hw]
    · rw [hfilled]
      by_cases hk : k = l
      · simp [hk, hw]
      · rw [if_neg hk, if_neg hk]
        exact (hput k).trans (if_neg hk)
    · rw [htiles]
      simp [hw]
      rfl
  · rw [if_neg hw]
    refine ⟨rfl, fun k => by simp [hw], fun k => (hput k).trans (by simp [hw]), (if_neg hw).symm, fun t => by simp [hw]; rfl⟩

/-! ### A pass that waits at a tile -/

/-- The block `x` is `g` where no pass waits at tile `t` any more. -/
def Freed (g x : Hw) (t : Nat) : Prop :=
  x = { g with eng := { g.eng with tiles := x.eng.tiles } } ∧ x.tileU t = { g.tileU t with waits := none } ∧ ∀ k, k ≠ t → x.tileU k = g.tileU k

theorem freed_self {g : Hw} {t : Nat} (hw : (g.tileU t).waits = none) : Freed g g t :=
  ⟨rfl, congrArg (fun w => ({ g.tileU t with waits := w } : Tile)) hw, fun _ _ => rfl⟩

theorem freed_setTile (g : Hw) (t : Nat) : Freed g (g.setTile t { g.tileU t with waits := none }) t :=
  ⟨rfl, (Hw.tileU_setTile ..).trans (if_pos rfl), fun _ hk => (Hw.tileU_setTile ..).trans (if_neg (Ne.symm hk))⟩

theorem resume_none {g : Hw} {t : Nat} (hw : (g.tileU t).waits = none) : g.resume t = g := by
  rw [Hw.resume, hw]

theorem resume_some {g : Hw} {t : Nat} {w : WaitPass} (hw : (g.tileU t).waits = some w) :
    g.resume t = (g.setTile t { g.tileU t with waits := none }).tilePass w := by
  rw [Hw.resume, hw]

/-- A tile at which something has arrived: the pass that waits goes on from there, or nothing more happens. -/
theorem resume_spec {s : State} {g : Hw} {t : Nat} {arrived : State → Prop} (hfree : ∀ x, Freed g x t → arrived { s with hw := x }) :
    ((g.tileU t).waits = none → ∃ x, (.next { s with hw := g.resume t } : Host.Outcome State Fault Refusal) = .next x ∧ arrived x)
    ∧ ∀ w, (g.tileU t).waits = some w → ∃ x, arrived x
      ∧ (.next { s with hw := g.resume t } : Host.Outcome State Fault Refusal) = exec (.tilePassComplete w.runner w.step w.slip w.errs w.chk) x := by
  refine ⟨fun hw => ⟨{ s with hw := g }, ?_, hfree g (freed_self hw)⟩, fun w hw => ⟨_, hfree _ (freed_setTile g t), ?_⟩⟩
  · rw [resume_none hw]
  · rw [resume_some hw]
    rfl

/-! ### Scale entries and accumulators that arrive (R49, R55) -/

/-- The tile once `m` scale entries have arrived. -/
def filledBy (u : Tile) (m : Nat) : Tile := { u with idle := u.idle + m, due := u.due - m, lead := u.lead - m }

/-- How many of `n` entries arrive: no more than the fill lacks, no further than the stream may run ahead. -/
def arriving (u : Tile) (n : Nat) : Nat := min n (min u.due u.lead)

/-- The block once the entries have arrived, and the fill that they complete is noted. -/
def supplied (h : Hw) (t n : Nat) : Hw :=
  let u := h.tileU t
  let g := h.setTile t (filledBy u (arriving u n))
  if 0 < u.due ∧ u.due = arriving u n then g.filledNow (3 * t + 1) else g

theorem scaleArrival_eq {h : Hw} {t : Nat} (hon : h.engOn = true) (ht : t < 128) (n : Nat) : h.scaleArrival t n = (supplied h t n).resume t := by
  rw [Hw.scaleArrival, if_neg (by simp [hon, ht])]
  rfl

/-- The entries that arrive complete the fill. -/
def completes (u : Tile) (n : Nat) : Bool := decide (0 < u.due ∧ u.due = arriving u n)

/-- The entries complete the fill, and a swap waits for it. -/
def swapsAt (h : Hw) (t n : Nat) : Bool := completes (h.tileU t) n && decide (3 * t + 1 ∈ h.eng.swapWait)

theorem supplied_spec (h : Hw) {t : Nat} (ht : t < 128) (n : Nat) : supplied h t n = relocked h (supplied h t n)
    ∧ (supplied h t n).tileU t = (if swapsAt h t n then (filledBy (h.tileU t) (arriving (h.tileU t) n)).swapScales
        else filledBy (h.tileU t) (arriving (h.tileU t) n))
    ∧ (∀ k, k ≠ t → (supplied h t n).tileU k = h.tileU k)
    ∧ (∀ k, tget 0 (supplied h t n).eng.locks k = tget 0 h.eng.locks k + (if k = 3 * t + 1 ∧ swapsAt h t n = true then 1 else 0))
    ∧ (∀ k, tget false (supplied h t n).eng.filled k
        = if k = 3 * t + 1 ∧ completes (h.tileU t) n = true then !swapsAt h t n else tget false h.eng.filled k)
    ∧ (supplied h t n).eng.swapWait = (if swapsAt h t n then h.eng.swapWait.filter (fun k => k != 3 * t + 1) else h.eng.swapWait) := by
  have own : (h.setTile t (filledBy (h.tileU t) (arriving (h.tileU t) n))).tileU t = filledBy (h.tileU t) (arriving (h.tileU t) n) :=
    (Hw.tileU_setTile ..).trans (if_pos rfl)
  have other (k : Nat) (hk : k ≠ t) : (h.setTile t (filledBy (h.tileU t) (arriving (h.tileU t) n))).tileU k = h.tileU k :=
    (Hw.tileU_setTile ..).trans (if_neg (Ne.symm hk))
  unfold swapsAt
  by_cases hc : 0 < (h.tileU t).due ∧ (h.tileU t).due = arriving (h.tileU t) n
  · have hcs : completes (h.tileU t) n = true := decide_eq_true hc
    obtain ⟨hframe, hlocks, hfilled, hwait, htiles⟩ :=
      filledNow_spec (h.setTile t (filledBy (h.tileU t) (arriving (h.tileU t) n))) (3 * t + 1)
    have e : supplied h t n = (h.setTile t (filledBy (h.tileU t) (arriving (h.tileU t) n))).filledNow (3 * t + 1) := if_pos hc
    simp only [hcs, Bool.true_and, decide_eq_true_eq, and_true, e]
    refine ⟨relocked_trans (relocked_setTile ..) hframe, ?_, fun k hk => ?_, hlocks, hfilled, hwait⟩
    · rw [htiles, own]
      exact if_congr ⟨fun hh => hh.1, fun hh => ⟨hh, by omega, by omega, by omega⟩⟩ rfl rfl
    · rw [htiles, other k hk]
      exact if_neg (fun hh => hk (by omega))
  · have hcs : completes (h.tileU t) n = false := decide_eq_false hc
    have e : supplied h t n = h.setTile t (filledBy (h.tileU t) (arriving (h.tileU t) n)) := if_neg hc
    simp only [hcs, Bool.false_and, Bool.false_eq_true, and_false, if_false, Nat.add_zero, e]
    exact ⟨relocked_setTile .., own, other, fun _ => rfl, fun _ => rfl, rfl⟩

theorem waits_filledBy (u : Tile) (m : Nat) (b : Bool) : (if b then (filledBy u m).swapScales else filledBy u m).waits = u.waits := by
  cases b <;> rfl

/-! ### A lock at its swap instruction (R73, R166) -/

section
variable {h : Hw} {i : ImageFile} {l p : Nat} (hon : h.engOn = true) (hi : h.ex.image = some i) (hp : h.nextSwap i l = some p)
  (hl : l < i.parts.tick.locks) (hreach : l < 384 → h.tileReached i (l / 3) p = true)
include hon hi hp hl hreach

theorem lockSwapNow_swaps (hok : (384 ≤ l ∧ (auxLock i l).2 = 0) ∨ tget false h.eng.filled l = true) : h.lockSwapNow l = h.swapLock l := by
  rw [Hw.lockSwapNow, hi]
  dsimp only
  rw [hp]
  dsimp only
  rw [if_neg (by simp [hon, hl])]
  by_cases hat : 384 ≤ l ∧ (auxLock i l).2 = 0
  · exact if_pos hat
  · rw [if_neg hat, if_neg (by simpa using hreach)]
    exact if_pos (hok.resolve_left hat)

theorem lockSwapNow_waits (hat : ¬ (384 ≤ l ∧ (auxLock i l).2 = 0)) (hunfilled : tget false h.eng.filled l = false) (hwait : l ∉ h.eng.swapWait) :
    h.lockSwapNow l = { h with eng := { h.eng with swapWait := h.eng.swapWait ++ [l] } } := by
  rw [Hw.lockSwapNow, hi]
  dsimp only
  rw [hp]
  dsimp only
  rw [if_neg (by simp [hon, hl]), if_neg hat, if_neg (by simpa using hreach), if_neg (by simp [hunfilled]), if_neg hwait]

end

/-- Settles O18: each event by what it leaves of the tile and its locks, and the waiting pass by going on from there. -/
theorem tileEvents : Obligations.TileEvents := by
  refine ⟨?scales, ?accs, ?locks⟩
  case scales =>
    intro s t n hon ht u l m ends swaps came arrived
    obtain ⟨hframe, hown, hother, hlocks, hfilled, hwait⟩ := supplied_spec s.hw ht n
    have e : exec (.groupScaleArrival t n) s = .next { s with hw := (supplied s.hw t n).resume t } := by
      rw [← scaleArrival_eq hon ht n]
      rfl
    rw [e]
    have hspec := resume_spec (s := s) (g := supplied s.hw t n) (t := t) (arrived := arrived) (fun x ⟨hx, hxown, hxother⟩ => by
      refine ⟨?_, ?_, fun k hk => (hxother k hk).trans (hother k hk), fun k => ?_, fun k => ?_, ?_⟩
      · have hx' : x = relocked (supplied s.hw t n) x := by
          rw [hx]
          rfl
        exact congrArg (fun g => { s with hw := g }) (relocked_trans hframe hx')
      · exact hxown.trans (by rw [hown]; rfl)
      · rw [hx]; exact hlocks k
      · rw [hx]; exact hfilled k
      · rw [hx]; exact hwait)
    rw [hown, waits_filledBy] at hspec
    exact hspec
  case accs =>
    intro s i y sv op t q from0 first count hon ht hi hy hop hq u reached
    have hg : (s.hw.setTile t { u with accs := tput [] u.accs q (tget [] (s.hw.tileU from0).outs q) }).tileU t
        = { u with accs := tput [] u.accs q (tget [] (s.hw.tileU from0).outs q) } := (Hw.tileU_setTile ..).trans (if_pos rfl)
    have e : exec (.accumulatorHandover t q) s = .next { s with hw :=
        (s.hw.setTile t { u with accs := tput [] u.accs q (tget [] (s.hw.tileU from0).outs q) }).resume t } := by
      have eq : s.hw.handover t q = (s.hw.setTile t { u with accs := tput [] u.accs q (tget [] (s.hw.tileU from0).outs q) }).resume t := by
        rw [Hw.handover, hi]
        dsimp only
        rw [hy, Option.map_some, hop]
        exact if_neg (by simp [hon, ht, hq])
      exact congrArg (fun g => Host.Outcome.next { s with hw := g }) eq
    rw [e]
    have hspec := resume_spec (s := s) (g := s.hw.setTile t { u with accs := tput [] u.accs q (tget [] (s.hw.tileU from0).outs q) }) (t := t)
      (arrived := reached) (fun x ⟨hframe, hown, hother⟩ =>
        ⟨congrArg (fun g => { s with hw := g }) hframe, hown.trans (by rw [hg]),
          fun k hk => (hother k hk).trans ((Hw.tileU_setTile ..).trans (if_neg (Ne.symm hk)))⟩)
    rw [hg] at hspec
    exact hspec
  case locks =>
    intro s i l p hon hi hp hl hreach atOnce
    refine ⟨fun hok => ?swap, fun hno hunfilled hwait => ?wait⟩
    case swap =>
      refine ⟨{ s with hw := s.hw.lockSwapNow l }, rfl, ?_⟩
      obtain ⟨hframe, hlocks, hfilled, hwait, htiles⟩ := swapLock_spec s.hw l
      dsimp only
      rw [lockSwapNow_swaps hon hi hp hl hreach hok]
      exact ⟨hlocks, hfilled, hwait, htiles, by rw [hframe]; rfl, by rw [hframe]; rfl⟩
    case wait => exact congrArg (fun g => Host.Outcome.next { s with hw := g }) (lockSwapNow_waits hon hi hp hl hreach hno hunfilled hwait)

end Sys2Proof.TileEvents
end

section
/-!
PROOF. Failed link reads: a counterexample in a table of streams with one key twice.
-/
namespace Sys2Proof.FailedReads
open Sys2Proof.Machine

/-! ### A stream whose key stands twice in the table of streams -/

/-- An AUDIO_IN that has opened, of sequence number 0. -/
def openAudioIn : WaitAudio :=
  { seq := 0, q := 0, tag := 0, handle := 0, chanB := false, start0 := 0, bits := 16, data := .failed, expect := 0, opened := true
    lenFirst := 0, lost := [] }

/-- A stream with that AUDIO_IN. -/
def listening : Stream := { Stream.blank { lane := 0, slot := 0, mode := .issuing } with audio := [openAudioIn] }

/-- A block that answers, whose table of streams holds context 0 twice: `Hw.stream` reads the first entry, `Hw.ctxs` lists both. -/
def twice : Hw := { Reads.answering with streams := [(0, some listening), (0, some listening)] }

/-- Refutes O10: a change of every stream runs once for each entry of the table, and the statement asks nothing of the table. With
context 0 in it twice, a refused read of the block that holds sample 0 of its open AUDIO_IN notes that sample as lost twice, where
the statement has it once. -/
theorem not_failedReads : ¬ Obligations.FailedReads := by
  intro h
  obtain ⟨-, haudio, -⟩ := h { pending := [], hw := twice } .refused (by decide) (by decide)
  obtain ⟨t, ht, hstream, -⟩ := haudio 0 0 1 0 listening rfl
  have hboth : t.hw.stream 0 = some { listening with audio := [{ openAudioIn with lost := [(0, 1), (0, 1)] }] } := by
    rw [← Host.Outcome.next.inj ht]
    decide
  rw [hboth] at hstream
  exact absurd hstream (by decide)

end Sys2Proof.FailedReads
end

section
/-!
PROOF. An OPEN that waited for a lane slot.
-/
namespace Sys2Proof.WaitingOpen
open Sys2Proof.Machine

/-! ### An OPEN that may be admitted (R136, R264) -/

/-- The phase group of an OPEN: the one that it names, or the one with the fewest streams. -/
def phaseOf (h : Hw) (d : Desc) : Nat := if bitOf (dField d 0x26 1) 7 then dField d 0x26 1 % 8 else h.fewestGroup

/-- The stream that an OPEN allocates on context `c`, in the lane slot `sl`. -/
def opened (h : Hw) (a : Admitted) (c : Nat) (sl : LaneSlot) : Stream :=
  let d := a.desc
  let b := { initialBank with utt := { initialBank.utt with generation := BitVec.ofNat 32 (dField d 0x20 4) } }
  { Stream.blank sl with
    incarnation := tget 0 h.incs c + 1, owner := a.owner, home := a.q, phase := phaseOf h d, ident := BitVec.ofNat 64 (dField d 0x10 8),
    seed := BitVec.ofNat 64 (dField d 0x18 8), rate := dField d 0x24 1, fmt := dField d 0x25 1,
    immediate := bitOf (dField d 0x27 1) 0, fade := bitOf (dField d 0x27 1) 1,
    route := routeOf (dField d 0x28 2), refA := bindOf (dField d 0x2A 1), refB := bindOf (dField d 0x2B 1),
    ringAddr := BitVec.ofNat 64 (dField d 0x30 8), evictAddr := BitVec.ofNat 64 (dField d 0x38 8),
    firstOut := h.ex.tick, bank := b, wbank := b }

theorem applyOpen_allocates {h : Hw} {i : ImageFile} {a : Admitted} {c : Nat} {sl : LaneSlot} (hi : h.ex.image = some i)
    (hf : dFormatOk a.desc = true) (ho : h.openOptions i a.desc = true) (hh : h.ex.hold = false) (hn : h.ctxs.length < h.admitLimit)
    (hc : h.freeCtx = some c) (hp : h.placeLane = some sl) (hw : h.rings.laneWait = []) (hg : h.phaseCount (phaseOf h a.desc) < h.groupLimit) :
    h.applyOpen a = ((h.nextInc c).2.setStream c (opened h a c sl)).finish a ((opened h a c sl).handle c) (phaseOf h a.desc) 0 := by
  rw [Hw.applyOpen, hi]
  dsimp only
  rw [if_neg (by simp [hf, ho]), if_neg (by simp [hh, hn]), hc]
  dsimp only
  refine (if_neg (Nat.not_le.2 hg)).trans ?_
  rw [if_pos (by simp [hw]), hp]
  rfl

/-- The block in which the first waiting descriptor is applied: none waits in front of it. -/
def facing (h : Hw) (a : Admitted) : Hw :=
  Hw.markApplied { h with rings := { h.rings with laneWait := [] } } a.seq (classOf (dOpcode a.desc))

theorem admitLane_open {h : Hw} {a : Admitted} {rest : List Admitted} (hw : h.rings.laneWait = a :: rest) (hop : dOpcode a.desc = 0x01) :
    h.admitLane = let g := (facing h a).applyOpen a; { g with rings := { g.rings with laneWait := g.rings.laneWait ++ rest } } := by
  have hone : Hw.applyOne { h with rings := { h.rings with laneWait := [] } } a = (facing h a).applyOpen a := by
    unfold Hw.applyOne facing
    rw [hop]
    rfl
  rw [Hw.admitLane, hw]
  dsimp only
  rw [hone]

/-- The completion that a descriptor composes, with its handle. -/
theorem finish_pending (h : Hw) (a : Admitted) (handle : W32) (d0 : Nat) (d1 : W64) : ∃ p : Pending,
    (h.finish a handle d0 d1).rings.done = h.rings.done ++ [p] ∧ p.r.status = 0x00 ∧ p.r.tag = dTag a.desc ∧ p.r.handle = handle ∧ p.q = a.q :=
  ⟨_, rfl, rfl, rfl, rfl, rfl⟩

/-- Settles O29: the OPEN that waited is applied with nothing in front of it, and allocates. -/
theorem waitingOpenTakesSlot : Obligations.WaitingOpenTakesSlot := by
  intro s i a rest c sl hin hi hw hop hf ho hh hn hc hp g hg
  have hopen := applyOpen_allocates (h := facing s.hw a) (a := a) hi hf ho hh hn hc hp rfl hg
  obtain ⟨p, hdone, hp0⟩ := finish_pending (((facing s.hw a).nextInc c).2.setStream c (opened s.hw a c sl)) a
    ((opened s.hw a c sl).handle c) g 0
  refine ⟨{ s with hw := s.hw.admitLane }, opened s.hw a c sl, p, ?_, ?_⟩
  · have e : exec .laneSlotAdmit s = .next { s with hw := if s.hw.inTick && s.hw.placeLane.isSome then s.hw.admitLane else s.hw } := rfl
    rw [e, if_pos (by simp [hin, hp])]
  · dsimp only
    rw [admitLane_open hw hop, hopen]
    refine ⟨(Hw.stream_setStream ..).trans (if_pos rfl), rfl, rfl, rfl, rfl, rfl, rfl, rfl,
      fun k hk => (Hw.stream_setStream ..).trans (if_neg (Ne.symm hk)), rfl, rfl, hdone, hp0⟩

end Sys2Proof.WaitingOpen
end

section
/-!
PROOF. Queued FEEDs, and the FEEDs that a state lock held.
-/
namespace Sys2Proof.WaitingFeeds
open Sys2Proof.Machine

/-! ### What a FEED does to its stream (R214, R458) -/

/-- The stream once frames have joined its feature area. -/
def withFrames (x : Stream) (fs : List FeatFrame) : Stream := { x with area := placeFrames { x.area with raw := x.area.raw ++ fs } }

/-- A FEED that takes effect, whose list and stated frames are good. -/
theorem feedInto_fits {h : Hw} {i : ImageFile} {a : Admitted} {c : Nat} {x : Stream} {v : FeedData} {bs : List BlockEntry}
    (hp : a.payload = .feed (.ok v)) (hl : readList (.feature (frameBytes i)) (dField a.desc 0x20 4) v.list = some bs)
    (hn : (listFrames (imgFw i) (frameBytes i) bs v.frames).length = dField a.desc 0x14 4)
    (hg : x.bank.utt.generation.toNat = dField a.desc 0x10 4) (hroom : areaRoom i x.area (dField a.desc 0x14 4) = true) :
    h.feedInto i a c x true = (h.setStream c (withFrames x (listFrames (imgFw i) (frameBytes i) bs v.frames))).finish a (dHandle a.desc) (dField a.desc 0x14 4)
      (BitVec.ofNat 64 (nextFeedPos i.parts.fe.chunk x.area)) := by
  rw [Hw.feedInto]
  dsimp only
  rw [if_neg (by simp), hp]
  dsimp only
  rw [hl]
  dsimp only
  rw [hn, if_neg (by simp), if_neg (by simp [hg]), if_neg (by simp [hroom])]
  rfl

/-- One whose frames do not fit stays in front of the stream's queue. -/
theorem feedInto_waits {h : Hw} {i : ImageFile} {a : Admitted} {c : Nat} {x : Stream} {v : FeedData} {bs : List BlockEntry}
    (hp : a.payload = .feed (.ok v)) (hl : readList (.feature (frameBytes i)) (dField a.desc 0x20 4) v.list = some bs)
    (hn : (listFrames (imgFw i) (frameBytes i) bs v.frames).length = dField a.desc 0x14 4)
    (hg : x.bank.utt.generation.toNat = dField a.desc 0x10 4) (hroom : areaRoom i x.area (dField a.desc 0x14 4) = false) :
    h.feedInto i a c x true = h.setStream c { x with queued := { a := a } :: x.queued } := by
  rw [Hw.feedInto]
  dsimp only
  rw [if_neg (by simp), hp]
  dsimp only
  rw [hl]
  dsimp only
  rw [hn, if_neg (by simp), if_neg (by simp [hg]), if_pos (by simp [hroom])]

/-- The block `g` is `h` but for what FEEDs of the stream on `c` may change: its queue and its feature area, and what they complete. -/
def Fed (h : Hw) (c : Nat) (x : Stream) (g : Hw) : Prop :=
  (∃ y, g.stream c = some y ∧ y.held = x.held ∧ y.bank = x.bank ∧ y.life = x.life) ∧ (∀ k, k ≠ c → g.stream k = h.stream k) ∧ g.mem = h.mem

theorem fed_setStream {h : Hw} {c : Nat} {x y : Stream} (hh : y.held = x.held) (hb : y.bank = x.bank) (hl : y.life = x.life) :
    Fed h c x (h.setStream c y) :=
  ⟨⟨y, (Hw.stream_setStream ..).trans (if_pos rfl), hh, hb, hl⟩, fun _ hk => (Hw.stream_setStream ..).trans (if_neg (Ne.symm hk)), rfl⟩

theorem fed_feedInto {h : Hw} {c : Nat} {x : Stream} (hx : h.stream c = some x) (i : ImageFile) (a : Admitted) (front : Bool) :
    Fed h c x (h.feedInto i a c x front) := by
  have stays (status : Nat) : Fed h c x (h.finish0 a status) := ⟨⟨x, hx, rfl, rfl, rfl⟩, fun _ _ => rfl, rfl⟩
  unfold Hw.feedInto
  dsimp only
  split
  · exact fed_setStream rfl rfl rfl
  · split
    · split
      · exact stays _
      · split
        · exact stays _
        · split
          · exact stays _
          · split
            · exact fed_setStream rfl rfl rfl
            · exact fed_setStream rfl rfl rfl
    · exact stays _

/-- FEEDs that the lock held, one after another. -/
theorem fed_held (i : ImageFile) {c : Nat} (fs : List WaitFeed) {h : Hw} {x : Stream} (hx : h.stream c = some x) :
    Fed h c x (fs.foldl (fun a f => a.applyHeld i c f) h) := by
  induction fs generalizing h x with
  | nil => exact ⟨⟨x, hx, rfl, rfl, rfl⟩, fun _ _ => rfl, rfl⟩
  | cons f fs ih =>
    have hone : h.applyHeld i c f = (h.markApplied f.a.seq 7).feedInto i f.a c x false := by rw [Hw.applyHeld, hx]
    obtain ⟨⟨y, hy, hheld, hbank, hlife⟩, hother, hmem⟩ := fed_feedInto (h := h.markApplied f.a.seq 7) hx i f.a false
    rw [List.foldl_cons, hone]
    obtain ⟨⟨z, hz, hheld', hbank', hlife'⟩, hother', hmem'⟩ := ih hy
    exact ⟨⟨z, hz, hheld'.trans hheld, hbank'.trans hbank, hlife'.trans hlife⟩, fun k hk => (hother' k hk).trans (hother k hk), hmem'.trans hmem⟩

/-! ### Queued and held FEEDs -/

theorem applyQueued_eq {h : Hw} {i : ImageFile} {x : Stream} {f : WaitFeed} {rest : List WaitFeed} {c : Nat} (hi : h.ex.image = some i)
    (hx : h.stream c = some x) (hq : x.queued = f :: rest) :
    h.applyQueued c = ((h.setStream c { x with queued := rest }).markApplied f.a.seq 7).feedInto i f.a c { x with queued := rest } true := by
  rw [Hw.applyQueued, hx, hi]
  dsimp only
  rw [hq]

theorem releaseHeld_eq {h : Hw} {i : ImageFile} {x : Stream} {c : Nat} (hi : h.ex.image = some i) (hx : h.stream c = some x)
    (hl : x.locked = false) (hs : x.importSeq = none) (hlife : x.life = .idle ∨ x.life = .speaking) :
    h.releaseHeld c = x.held.foldl (fun a f => a.applyHeld i c f) (h.setStream c { x with held := [] }) := by
  rw [Hw.releaseHeld, hx, hi]
  refine if_neg ?_
  rcases hlife with e | e <;> simp [hl, hs, e]

theorem exec_feedQueuedApply {s : State} (hin : s.hw.inTick = true) (c : Nat) :
    exec (.feedQueuedApply c) s = .next { s with hw := s.hw.applyQueued c } := by
  have e : exec (.feedQueuedApply c) s = .next { s with hw := if s.hw.inTick then s.hw.applyQueued c else s.hw } := rfl
  rw [e, if_pos hin]

theorem exec_feedHeldRelease {s : State} (hin : s.hw.inTick = true) (c : Nat) :
    exec (.feedHeldRelease c) s = .next { s with hw := s.hw.releaseHeld c } := by
  have e : exec (.feedHeldRelease c) s = .next { s with hw := if s.hw.inTick then s.hw.releaseHeld c else s.hw } := rfl
  rw [e, if_pos hin]

theorem stream_setStream_twice (h : Hw) {c k : Nat} (x y : Stream) (hk : k ≠ c) : ((h.setStream c x).setStream c y).stream k = h.stream k := by
  rw [Hw.stream_setStream, if_neg (Ne.symm hk), Hw.stream_setStream, if_neg (Ne.symm hk)]

/-- Settles O30: the queued FEED by whether its frames fit, the held ones by induction over them. -/
theorem waitingFeeds : Obligations.WaitingFeeds := by
  refine ⟨fun s i x f rest c v bs hin hi hx hq hp hl hn hg => ⟨fun hroom => ?fits, fun hroom => ?waits⟩,
    fun s i x c hin hi hx hl hs hlife => ?held⟩
  case fits =>
    obtain ⟨p, hdone, -, hst, -, -, hd0⟩ := Stopped.complete_pending
      (((s.hw.setStream c { x with queued := rest }).markApplied f.a.seq 7).setStream c
        (withFrames { x with queued := rest } (listFrames (imgFw i) (frameBytes i) bs v.frames)))
      f.a.q f.a.seq (dOpcode f.a.desc) (dTag f.a.desc) (dHandle f.a.desc) stDone (dField f.a.desc 0x14 4)
      (BitVec.ofNat 64 (nextFeedPos i.parts.fe.chunk x.area))
    refine ⟨_, withFrames { x with queued := rest } (listFrames (imgFw i) (frameBytes i) bs v.frames), p, exec_feedQueuedApply hin c, ?_⟩
    dsimp only
    rw [applyQueued_eq hi hx hq, feedInto_fits (x := { x with queued := rest }) hp hl hn hg hroom]
    exact ⟨(Hw.stream_setStream ..).trans (if_pos rfl), rfl, rfl, rfl, hdone, hst, hd0, fun k hk => stream_setStream_twice s.hw _ _ hk⟩
  case waits =>
    refine ⟨_, exec_feedQueuedApply hin c, ?_⟩
    dsimp only
    rw [applyQueued_eq hi hx hq, feedInto_waits (x := { x with queued := rest }) hp hl hn hg hroom]
    refine ⟨((Hw.stream_setStream ..).trans (if_pos rfl)).trans ?_, rfl, fun k hk => stream_setStream_twice s.hw _ _ hk⟩
    exact congrArg (fun fs => some { x with queued := fs }) hq.symm
  case held =>
    obtain ⟨⟨y, hy, hheld, hbank, hlf⟩, hother, hmem⟩ := fed_held i x.held (h := s.hw.setStream c { x with held := [] })
      ((Hw.stream_setStream ..).trans (if_pos rfl))
    refine ⟨_, y, exec_feedHeldRelease hin c, ?_⟩
    dsimp only
    rw [releaseHeld_eq hi hx hl hs hlife]
    exact ⟨hy, hheld, hbank, hlf, fun k hk => (hother k hk).trans ((Hw.stream_setStream ..).trans (if_neg (Ne.symm hk))), hmem⟩

end Sys2Proof.WaitingFeeds
end

section
/-!
PROOF. An AUDIO_IN at its first window.
-/
namespace Sys2Proof.AudioWindows
open Sys2Proof.Machine

/-! ### An AUDIO_IN whose first window has come (R173, R252, R271) -/

/-- The completion of an AUDIO_IN. -/
def answered (h : Hw) (a : WaitAudio) (status d0 : Nat) (d1 : W64) : Hw := h.complete a.q a.seq opAudio a.tag a.handle status d0 d1

/-- The samples that come late are counted. -/
def countLate (h : Hw) (n : Nat) : Hw := { h with cnt := { h.cnt with audioLate := h.cnt.audioLate + BitVec.ofNat 64 n } }

/-- The AUDIO_IN once its first window has come. -/
def placed (a : WaitAudio) : WaitAudio := { a with opened := true }

section
variable {h : Hw} {x : Stream} {a : WaitAudio} {c : Nat} (hx : h.stream c = some x) (ha : x.audio = [a]) (hop : a.opened = false)
  (hwin : windowCome x a = true)
include hx ha hop hwin

theorem openAudio_places {v : AudioData} (hd : a.data = .ok v) (hok : audioBlocksOk a v = true) : h.openAudio c
    = (countLate (answered h a stDone (min (lateSamples x a) 65535) a.start0) (lateSamples x a)).setStream c
        { x with audio := [placed a] } := by
  have hfind : x.audio.find? (fun a => !a.opened && windowCome x a) = some a := by
    rw [ha]
    exact List.find?_cons_of_pos (by simp [hop, hwin])
  have hmap : x.audio.map (fun b => if b.seq = a.seq then { b with opened := true } else b) = [placed a] := by
    rw [ha]
    exact congrArg (fun b => [b]) (if_pos rfl)
  rw [Hw.openAudio, hx]
  dsimp only
  rw [hfind]
  dsimp only
  rw [hd]
  dsimp only
  rw [if_neg (by simp [hok]), hmap]
  rfl

/-- A failed read, or a bad list, drops the AUDIO_IN. -/
theorem openAudio_drops {status : Nat} (hd : a.data = .failed ∧ status = stAborted ∨ ∃ v, a.data = .ok v ∧ audioBlocksOk a v = false ∧ status = stFormat) :
    h.openAudio c = (answered h a status 0 0).setStream c { x with audio := [] } := by
  have hfind : x.audio.find? (fun a => !a.opened && windowCome x a) = some a := by
    rw [ha]
    exact List.find?_cons_of_pos (by simp [hop, hwin])
  have hdrop : x.audio.filter (fun b => b.seq != a.seq) = [] := by simp [ha]
  rw [Hw.openAudio, hx]
  dsimp only
  rw [hfind]
  dsimp only
  rw [hdrop]
  rcases hd with ⟨hd, rfl⟩ | ⟨v, hd, hbad, rfl⟩
  · rw [hd]
    rfl
  · rw [hd]
    exact if_pos (by simp [hbad])

end

theorem exec_audioInFirstWindow {s : State} (hin : s.hw.inTick = true) (c : Nat) :
    exec (.audioInFirstWindow c) s = .next { s with hw := s.hw.openAudio c } := by
  have e : exec (.audioInFirstWindow c) s = .next { s with hw := if s.hw.inTick then s.hw.openAudio c else s.hw } := rfl
  rw [e, if_pos hin]

/-- Settles O31: the AUDIO_IN opens with its late samples counted, or is dropped with its status. -/
theorem audioOpensAtFirstWindow : Obligations.AudioOpensAtFirstWindow := by
  intro s x a v c hin hx ha hop hwin ends
  have drops (status : Nat) (hd : a.data = .failed ∧ status = stAborted ∨ ∃ v, a.data = .ok v ∧ audioBlocksOk a v = false ∧ status = stFormat) :
      ends (BitVec.ofNat 8 status) := by
    obtain ⟨p, hdone, -, hst, htag, -⟩ := Stopped.complete_pending s.hw a.q a.seq opAudio a.tag a.handle status 0 0
    refine ⟨_, { x with audio := [] }, p, exec_audioInFirstWindow hin c, ?_⟩
    dsimp only
    rw [openAudio_drops hx ha hop hwin hd]
    exact ⟨(Hw.stream_setStream ..).trans (if_pos rfl), rfl, hdone, hst, htag, rfl,
      fun k hk => (Hw.stream_setStream ..).trans (if_neg (Ne.symm hk))⟩
  refine ⟨fun hd hok => ?places, fun hd hbad => drops stFormat (.inr ⟨v, hd, hbad, rfl⟩), fun hd => drops stAborted (.inl ⟨hd, rfl⟩)⟩
  case places =>
    obtain ⟨p, hdone, -, hst, htag, -, hd0⟩ := Stopped.complete_pending s.hw a.q a.seq opAudio a.tag a.handle stDone
      (min (lateSamples x a) 65535) a.start0
    refine ⟨_, { x with audio := [placed a] }, p, exec_audioInFirstWindow hin c, ?_⟩
    dsimp only
    rw [openAudio_places hx ha hop hwin hd hok]
    exact ⟨(Hw.stream_setStream ..).trans (if_pos rfl), rfl, rfl, hdone, hst, htag, hd0, rfl,
      fun k hk => (Hw.stream_setStream ..).trans (if_neg (Ne.symm hk))⟩

end Sys2Proof.AudioWindows
end

section
/-!
PROOF. Page-ins, and the near copies of trunks and experts.
-/
namespace Sys2Proof.NearCopies
open Sys2Proof.Machine

/-! ### The near copy of a version (R219, R224) -/

/-- Near memory once payload byte `o` of a version has been copied. -/
def copyByte (h : Hw) (i : ImageFile) (v : VSlot) (m : Memory) (o : Nat) : Memory :=
  match v.nearByte i o, h.farByte v o with
  | some a, some b => if h.inSpace 0 a then write8 m a (h.spaceByte 1 b) else m
  | _, _ => m

/-- A byte copied to near memory `m` in place of the block's own. -/
theorem copyStep_eq (h : Hw) (i : ImageFile) (v : VSlot) (m : Memory) (o : Nat) :
    (match v.nearByte i o, ({ h with mem := { h.mem with near := m } } : Hw).farByte v o with
      | some a, some b => ({ h with mem := { h.mem with near := m } } : Hw).spaceWrite 0 a [({ h with mem := { h.mem with near := m } } : Hw).spaceByte 1 b]
      | _, _ => { h with mem := { h.mem with near := m } })
    = { h with mem := { h.mem with near := copyByte h i v m o } } := by
  have hfar : ({ h with mem := { h.mem with near := m } } : Hw).farByte v o = h.farByte v o := rfl
  unfold copyByte
  rw [hfar]
  cases v.nearByte i o with
  | none => rfl
  | some a =>
    cases h.farByte v o with
    | none => rfl
    | some b =>
      have hin : ({ h with mem := { h.mem with near := m } } : Hw).inSpace 0 a = h.inSpace 0 a := rfl
      dsimp only
      rw [Hw.spaceWrite, Hw.spaceWrite, hin]
      cases h.inSpace 0 a <;> rfl

theorem copyNear_eq {h : Hw} {i : ImageFile} (hi : h.ex.image = some i) (v : VSlot) :
    h.copyNear v = { h with mem := { h.mem with near := (List.range v.length).foldl (copyByte h i v) h.mem.near } } := by
  have steps (os : List Nat) (m : Memory) : os.foldl (fun (a : Hw) o => match v.nearByte i o, a.farByte v o with
      | some x, some y => a.spaceWrite 0 x [a.spaceByte 1 y]
      | _, _ => a) { h with mem := { h.mem with near := m } } = { h with mem := { h.mem with near := os.foldl (copyByte h i v) m } } := by
    induction os generalizing m with
    | nil => rfl
    | cons o os ih => rw [List.foldl_cons, List.foldl_cons, ← ih]; exact congrArg (List.foldl _ · os) (copyStep_eq h i v m o)
  rw [Hw.copyNear, hi]
  exact steps _ _

theorem read8_copyByte_other {h : Hw} {i : ImageFile} {v : VSlot} {o a : Nat} (ha : v.nearByte i o ≠ some a) (m : Memory) :
    read8 (copyByte h i v m o) a = read8 m a := by
  unfold copyByte
  split
  · next x b hx hb =>
    split
    · exact (read8_write8 ..).trans (if_neg (fun e => ha (hx.trans (congrArg some e))))
    · rfl
  · rfl

theorem read8_copyByte_own {h : Hw} {i : ImageFile} {v : VSlot} {o a b : Nat} (ha : v.nearByte i o = some a) (hin : h.inSpace 0 a = true)
    (hb : h.farByte v o = some b) (m : Memory) : read8 (copyByte h i v m o) a = h.spaceByte 1 b := by
  unfold copyByte
  rw [ha, hb]
  dsimp only
  rw [if_pos hin]
  exact (read8_write8 ..).trans (if_pos rfl)

/-- Bytes that go elsewhere leave the byte at `a`. -/
theorem read8_copyBytes_other {h : Hw} {i : ImageFile} {v : VSlot} {a : Nat} {os : List Nat} (ha : ∀ o ∈ os, v.nearByte i o ≠ some a) (m : Memory) :
    read8 (os.foldl (copyByte h i v) m) a = read8 m a := by
  induction os generalizing m with
  | nil => rfl
  | cons o os ih =>
    rw [List.foldl_cons, ih (fun j hj => ha j (List.mem_cons_of_mem _ hj)), read8_copyByte_other (ha o List.mem_cons_self)]

/-- The one payload byte that goes to `a` stands there after the copy. -/
theorem read8_copyBytes_own {h : Hw} {i : ImageFile} {v : VSlot} {o a b : Nat} {os : List Nat} (ho : o ∈ os) (ha : v.nearByte i o = some a)
    (one : ∀ j ∈ os, v.nearByte i j = some a → j = o) (hin : h.inSpace 0 a = true) (hb : h.farByte v o = some b) (m : Memory) :
    read8 (os.foldl (copyByte h i v) m) a = h.spaceByte 1 b := by
  induction os generalizing m with
  | nil => cases ho
  | cons j os ih =>
    rw [List.foldl_cons]
    by_cases hmem : o ∈ os
    · exact ih hmem (fun k hk => one k (List.mem_cons_of_mem _ hk)) _
    · have hj : o = j := (List.mem_cons.1 ho).resolve_right hmem
      rw [read8_copyBytes_other (fun k hk hka => hmem (one k (List.mem_cons_of_mem _ hk) hka ▸ hk)), ← hj]
      exact read8_copyByte_own ha hin hb m

/-- What a copy of version `v` leaves of the block: its payload bytes in near memory, and nothing else changed. -/
theorem copyNear_spec {h : Hw} {i : ImageFile} (hi : h.ex.image = some i) (v : VSlot) : ∃ m, h.copyNear v = { h with mem := { h.mem with near := m } }
    ∧ (∀ a, (∀ o, o < v.length → v.nearByte i o ≠ some a) → read8 m a = read8 h.mem.near a)
    ∧ (∀ o a b, o < v.length → v.nearByte i o = some a → (∀ j, j < v.length → v.nearByte i j = some a → j = o) →
        h.inSpace 0 a = true → h.farByte v o = some b → read8 m a = h.spaceByte 1 b) :=
  ⟨_, copyNear_eq hi v, fun _ ha => read8_copyBytes_other (fun o ho => ha o (List.mem_range.1 ho)) _,
    fun _ _ _ ho ha one hin hb => read8_copyBytes_own (List.mem_range.2 ho) ha (fun j hj => one j (List.mem_range.1 hj)) hin hb _⟩

/-! ### Page-ins (R89, R91, R219) -/

/-- The block `g` is `h` but for the experts of the catalogue. -/
theorem evictExperts_frame (cap need : Nat) (es : List (Nat × Nat × VSlot)) (h : Hw) :
    ∃ vs, h.evictExperts cap need es = { h with cat := { h.cat with voices := vs } } := by
  induction es generalizing h with
  | nil => exact ⟨_, rfl⟩
  | cons e es ih =>
    rw [Hw.evictExperts]
    split
    · exact ⟨_, rfl⟩
    · obtain ⟨vs, e⟩ := ih (h.setVslot false e.1 e.2.1 e.2.2.away)
      exact ⟨vs, e⟩

/-- Where the cache has room already, nothing is evicted. -/
theorem evictExperts_none {h : Hw} {cap need : Nat} (hroom : h.cacheUsed + need ≤ cap) (es : List (Nat × Nat × VSlot)) :
    h.evictExperts cap need es = h := by
  cases es with
  | nil => rfl
  | cons e es => exact if_pos hroom

/-- The page-ins once `p` has been admitted. -/
def admitted (p : PageIn) (ps : List PageIn) : List PageIn :=
  ps.map (fun r => if r.idx = p.idx ∧ r.slot = p.slot then { r with admitted := true } else r)

/-- The page-in takes the lowest free granules of the cache, and counts against the tick. -/
def placed (h : Hw) (i : ImageFile) (p : PageIn) (need : Nat) : Hw :=
  let g := h.takeFree.2.setVslot false p.idx p.slot { h.vslot false p.idx p.slot with
    nearGranules := (h.cacheFree (cacheGranules i)).take need, nearMap := h.takeFree.1 }
  { g with cat := { g.cat with pageIns := admitted p g.cat.pageIns, pagesTick := g.cat.pagesTick + 1 } }

section
variable {h : Hw} {i : ImageFile} {p : PageIn} (hm : h.memOn = true)
include hm

section
variable (hi : h.ex.image = some i) (hn : h.cat.pagesTick < 24) (hp : h.cat.pageIns.find? (fun r => !r.admitted && !(h.vslot false r.idx r.slot).damaged) = some p)
include hi hn hp

theorem admitPage_admits (hroom : (h.vslot false p.idx p.slot).need ≤ h.cacheRoom i) : h.admitPage
    = placed (h.evictExperts (cacheGranules i) (h.vslot false p.idx p.slot).need h.evictable) i p (h.vslot false p.idx p.slot).need := by
  rw [Hw.admitPage, hi]
  dsimp only
  rw [if_neg (by simp [hm, hn]), hp]
  exact if_neg (Nat.not_lt.2 hroom)

theorem admitPage_stays (hroom : h.cacheRoom i < (h.vslot false p.idx p.slot).need) : h.admitPage = h := by
  rw [Hw.admitPage, hi]
  dsimp only
  rw [if_neg (by simp [hm, hn]), hp]
  exact if_pos hroom

end

/-- The page-in is over. -/
def paged (h : Hw) (p : PageIn) : Hw :=
  { h with cat := { h.cat with pageIns := h.cat.pageIns.filter (fun r => !(r.idx == p.idx && r.slot == p.slot)) } }

theorem pageDone_eq (hp : h.cat.pageIns.find? (fun r => r.admitted && r.idx == p.idx) = some p) (hs : (h.vslot false p.idx p.slot).state ≠ .free) :
    h.pageDone p.idx = ((paged h p).copyNear (h.vslot false p.idx p.slot)).setVslot false p.idx p.slot
      { h.vslot false p.idx p.slot with resident := true, usable := false } := by
  rw [Hw.pageDone, if_neg (by simp [hm]), hp]
  exact if_neg (by simpa using hs)

end

/-! ### Version slots read back -/

theorem slot_setSlot_same (v : Variant) (i : Nat) (x : VSlot) : (v.setSlot i x).slot i = x := by
  unfold Variant.setSlot Variant.slot
  by_cases hi : i = 0
  · rw [if_pos hi, if_pos hi]
  · rw [if_neg hi, if_neg hi]

theorem slot_setSlot_ne (v : Variant) {i k : Nat} (x : VSlot) (hi : i < 2) (hk : k < 2) (hne : k ≠ i) : (v.setSlot i x).slot k = v.slot k := by
  unfold Variant.setSlot Variant.slot
  by_cases h0 : i = 0
  · rw [if_pos h0, if_neg (by omega), if_neg (by omega)]
  · rw [if_neg h0, if_pos (by omega), if_pos (by omega)]

theorem expert_setVslot_same (h : Hw) (idx slot : Nat) (x : VSlot) : (h.setVslot false idx slot x).vslot false idx slot = x := by
  show Variant.slot ((h.setVoice idx ((h.voice idx).setSlot slot x)).voice idx) slot = x
  rw [Hw.voice_setVoice, if_pos rfl, slot_setSlot_same]

theorem expert_setVslot_ne (h : Hw) {idx slot j k : Nat} (x : VSlot) (hs : slot < 2) (hk : k < 2) (hne : ¬ (j = idx ∧ k = slot)) :
    (h.setVslot false idx slot x).vslot false j k = h.vslot false j k := by
  show Variant.slot ((h.setVoice idx ((h.voice idx).setSlot slot x)).voice j) k = (h.voice j).slot k
  rw [Hw.voice_setVoice]
  by_cases hj : idx = j
  · subst hj
    rw [if_pos rfl, slot_setSlot_ne _ _ hs hk (fun e => hne ⟨rfl, e⟩)]
  · rw [if_neg hj]

theorem trunk_setTrunk_same (h : Hw) (k : Nat) (x : VSlot) : (h.setTrunk k x).trunk k = x := by
  unfold Hw.setTrunk Hw.trunk
  by_cases h0 : k = 0
  · rw [if_pos h0, if_pos h0]
  · rw [if_neg h0, if_neg h0]
    by_cases h1 : k = 1
    · rw [if_pos h1, if_pos h1]
    · rw [if_neg h1, if_neg h1]

theorem trunk_setTrunk_ne (h : Hw) {k j : Nat} (x : VSlot) (hk : k < 3) (hj : j < 3) (hne : j ≠ k) : (h.setTrunk k x).trunk j = h.trunk j := by
  have mem (n : Nat) (hn : n < 3) : n ∈ slotRange true := List.mem_range.2 hn
  exact (Stopped.vslot_setVslot (trunk := true) (idx := 0) h x (mem j hj) (mem k hk)).trans (if_neg (Ne.symm hne))

theorem vslot_placed_same (h : Hw) (i : ImageFile) (p : PageIn) (need : Nat) : (placed h i p need).vslot false p.idx p.slot
    = { h.vslot false p.idx p.slot with nearGranules := (h.cacheFree (cacheGranules i)).take need, nearMap := h.takeFree.1 } :=
  expert_setVslot_same h.takeFree.2 ..

/-! ### Trunk copies (R224) -/

section
variable {h : Hw} {i : ImageFile} {k n : Nat} (hk : k < 3) (hm : h.memOn = true)
include hk hm

theorem copyStart_eq (hi : h.ex.image = some i) (hd : h.copyDue k = true) (hv : (h.trunk k).nearSlot = none)
    (hr : ∀ j, j < 3 → (h.trunk j).state ≠ .retiring) (hf : h.freeTrunkSlot i = some n) :
    h.copyStart k = h.picked.takeFree.2.setTrunk k { h.trunk k with nearSlot := some n, resident := false, nearMap := h.picked.takeFree.1 } := by
  have hnone : [0, 1, 2].any (fun j => (h.trunk j).state == .retiring && (h.trunk j).nearSlot.isSome) = false := by
    simp [hr 0 (by decide), hr 1 (by decide), hr 2 (by decide)]
  have hy : h.yieldTrunk i = h := by
    unfold Hw.yieldTrunk
    split
    · exact if_neg (by simp [hf])
    · rfl
  rw [Hw.copyStart, hi]
  dsimp only
  rw [if_neg (by simp [hk, hm, hd, hv, hr 0 (by decide), hr 1 (by decide), hr 2 (by decide)]), hy, hf]

theorem copyDone_none (hi : h.ex.image = some i) (hv : (h.trunk k).nearSlot = some n) (hres : (h.trunk k).resident = false)
    (hs : h.cat.staging = []) : h.copyDone k = (h.copyNear (h.trunk k)).setTrunk k { h.trunk k with resident := true, usable := true } := by
  have hcat : (h.copyNear (h.trunk k)).cat = h.cat := by
    rw [copyNear_eq hi]
  rw [Hw.copyDone]
  dsimp only
  rw [if_neg (by simp [hk, hm, hv, hres]), hcat, hs]
  rfl

theorem copyDone_staged {g : Staging} (hi : h.ex.image = some i) (hv : (h.trunk k).nearSlot = some n) (hres : (h.trunk k).resident = false)
    (hs : h.cat.staging = [g]) (ht : g.trunk = true) (hg : g.slot = k) (hc : g.copying = true) :
    h.copyDone k = ((h.copyNear (h.trunk k)).setTrunk k { h.trunk k with resident := true, usable := true, state := .staged }).stageDone g := by
  have hcat : (h.copyNear (h.trunk k)).cat = h.cat := by
    rw [copyNear_eq hi]
  have hfind : [g].find? (fun g => g.trunk && g.slot == k && g.copying) = some g := List.find?_cons_of_pos (by simp [ht, hg, hc])
  rw [Hw.copyDone]
  dsimp only
  rw [if_neg (by simp [hk, hm, hv, hres]), hcat, hs, hfind]

end

/-- Settles O26: page-ins by the room of the cache, copies by what they leave of near memory. -/
theorem pageInsAndTrunkCopies : Obligations.PageInsAndTrunkCopies := by
  unfold Obligations.PageInsAndTrunkCopies
  intro copied
  refine ⟨fun s i p hm hi => ⟨fun hn hp => ?waiting, fun hp hs => ?pagedIn⟩,
    fun s i g k n hk hm hi => ⟨fun hd hv hr hf => ?starts, fun hv hres hstage ht hg hc => ?staged, fun hv hres hst => ?plain⟩⟩
  case waiting =>
    intro need room
    refine ⟨fun hroom => ?admits, fun hroom => ?stays⟩
    case stays => exact congrArg (fun g => Host.Outcome.next { s with hw := g }) (admitPage_stays hm hi hn hp hroom)
    case admits =>
      refine ⟨{ s with hw := s.hw.admitPage }, rfl, ?_⟩
      dsimp only
      rw [admitPage_admits hm hi hn hp hroom]
      have hnone := fun hfits : s.hw.cacheUsed + need ≤ cacheGranules i => evictExperts_none hfits s.hw.evictable
      obtain ⟨vs, e⟩ := evictExperts_frame (cacheGranules i) need s.hw.evictable s.hw
      generalize Hw.evictExperts s.hw (cacheGranules i) need s.hw.evictable = g at e hnone
      refine ⟨by rw [e]; rfl, by rw [e]; rfl, by rw [e]; rfl, by rw [e]; rfl, by rw [e]; rfl, fun hfits hslot => ?_⟩
      rw [hnone hfits]
      refine ⟨?_, fun j k hk hne => expert_setVslot_ne s.hw.takeFree.2 _ hslot hk hne⟩
      rw [vslot_placed_same]
  case pagedIn =>
    refine ⟨{ s with hw := s.hw.pageDone p.idx }, rfl, ?_⟩
    dsimp only
    rw [pageDone_eq hm hp hs]
    obtain ⟨m, e, hother, hown⟩ := copyNear_spec (h := paged s.hw p) hi (s.hw.vslot false p.idx p.slot)
    refine ⟨expert_setVslot_same .., ?_⟩
    rw [e]
    exact ⟨rfl, rfl, rfl, hother, hown⟩
  case starts =>
    refine ⟨{ s with hw := s.hw.copyStart k }, rfl, ?_⟩
    dsimp only
    rw [copyStart_eq hk hm hi hd hv hr hf]
    refine ⟨?_, fun j hj hne => trunk_setTrunk_ne s.hw.picked.takeFree.2 _ hk hj hne, rfl, rfl⟩
    rw [trunk_setTrunk_same]
  case staged =>
    obtain ⟨p, hdone, -, hst, -⟩ := Stopped.complete_pending s.hw g.q g.seq opStage g.tag 0 stDone g.slot (g.hash.setWidth 64)
    refine ⟨{ s with hw := s.hw.copyDone k }, p, rfl, ?_⟩
    dsimp only
    rw [copyDone_staged hk hm hi hv hres hstage ht hg hc]
    obtain ⟨m, e, hother, hown⟩ := copyNear_spec hi (s.hw.trunk k)
    rw [e]
    have hgone : [g].filter (fun x => x.seq != g.seq) = [] := by simp
    refine ⟨⟨rfl, hother, hown⟩, trunk_setTrunk_same .., ?_, hdone, hst, fun j hj hne => trunk_setTrunk_ne _ _ hk hj hne⟩
    exact (congrArg (List.filter (fun x => x.seq != g.seq)) ((Stopped.setVslot_staging _ true 0 k _).trans hstage)).trans hgone
  case plain =>
    refine ⟨{ s with hw := s.hw.copyDone k }, rfl, ?_⟩
    dsimp only
    rw [copyDone_none hk hm hi hv hres hst]
    obtain ⟨m, e, hother, hown⟩ := copyNear_spec hi (s.hw.trunk k)
    rw [e]
    exact ⟨⟨rfl, hother, hown⟩, trunk_setTrunk_same .., fun j hj hne => trunk_setTrunk_ne _ _ hk hj hne, rfl⟩

end Sys2Proof.NearCopies
end

section
/-!
PROOF. The verification of a staged expert package.
-/
namespace Sys2Proof.StagedPayloads
open Sys2Proof.Machine

/-! ### A payload in its granules (R209, R224) -/

theorem spacePut_frame (h : Hw) (sp a : Nat) (b : Byte) : h.spacePut sp a b = { h with mem := (h.spacePut sp a b).mem } := by
  unfold Hw.spacePut
  split
  case h_2 => split <;> rfl
  all_goals rfl

theorem spaceWrite_frame (bs : List Byte) (h : Hw) (sp a : Nat) : h.spaceWrite sp a bs = { h with mem := (h.spaceWrite sp a bs).mem } := by
  induction bs generalizing h a with
  | nil => rfl
  | cons b bs ih =>
    rw [Hw.spaceWrite, ih]
    split
    · rw [spacePut_frame]
    · rfl

theorem writePayload_frame (h : Hw) (gs : List Nat) (bs : List Byte) : h.writePayload gs bs = { h with mem := (h.writePayload gs bs).mem } := by
  unfold Hw.writePayload
  exact foldl_inv (fun a : Hw => a = { h with mem := a.mem }) _
    (fun a e ha => (spaceWrite_frame _ _ _ _).trans (congrArg (fun g : Hw => { g with mem := (a.spaceWrite 1 (a.granuleAddr e.1) e.2).mem }) ha)) _ _ rfl

/-! ### The end of a staging (R224) -/

section
variable {h : Hw} {i : ImageFile} {g : Staging} {m : ManifestEntry} {rest : List Byte} {choice gs : List Nat} (hm : h.memOn = true)
  (hi : h.ex.image = some i) (hst : h.cat.staging = [g]) (hc : g.copying = false) (hv : g.verified = false) (ht : g.trunk = false)
  (hr : g.restore = false) (hman : manifestOf i true g.entry = some m) (hlen : m.length = g.length)
  (hgs : h.takeGranules g.length choice = some gs)
include hm hi hst hc hv ht hr hman hlen hgs

/-- What a staging that has its granules ends in. -/
theorem stageVerified_eq (ok : Bool) : h.stageVerified g.seq rest g.length m.shapes choice ok
    = if ok = false then h.failStaging g stAborted
      else if sha512 (padTo g.length (g.fed ++ rest)) ≠ g.hash then h.failStaging g stFormat
      else (h.writePayload gs (padTo g.length (g.fed ++ rest))).stagePassed i g gs := by
  have hfind : [g].find? (fun x => x.seq == g.seq && !x.copying && !x.verified) = some g := List.find?_cons_of_pos (by simp [hc, hv])
  rw [Hw.stageVerified, if_neg (by simp [hm]), hi, hst, hfind]
  dsimp only
  rw [if_neg (by simp [hr]), hgs, ht, Bool.not_false, hman]
  simp [hlen]

end

/-- The version once its payload stands in granules. -/
def verified (v : VSlot) (gs : List Nat) (mapAddr : W64) (blocks : List (Nat × Nat)) : VSlot :=
  { v with granules := gs, mapAddr := mapAddr, blocks := blocks, state := .staged }

theorem stagePassed_expert {h : Hw} {i : ImageFile} {g : Staging} {m : ManifestEntry} {gs : List Nat} (ht : g.trunk = false)
    (hr : g.restore = false) (hman : manifestOf i true g.entry = some m) : h.stagePassed i g gs
    = (h.takeFree.2.setVslot false g.idx g.slot (verified (h.vslot false g.idx g.slot) gs h.takeFree.1 m.blocks)).stageDone g := by
  rw [Hw.stagePassed, if_neg (by simp [hr]), ht, Bool.not_false, hman]
  rfl

/-- The block once a staging is no longer in progress. -/
def unstaged (h : Hw) (g : Staging) : Hw := { h with cat := { h.cat with staging := h.cat.staging.filter (fun x => x.seq != g.seq) } }

theorem failStaging_expert {h : Hw} {g : Staging} (ht : g.trunk = false) (hr : g.restore = false) (status : Nat) : h.failStaging g status
    = ((unstaged h g).setVslot false g.idx g.slot VSlot.reset).complete g.q g.seq opStage g.tag 0 status 0 0 := by
  rw [Hw.failStaging]
  dsimp only
  rw [ht, hr]
  rfl

theorem stageDone_pending (h : Hw) (g : Staging) : ∃ p : Pending, (h.stageDone g).rings.done = h.rings.done ++ [p] ∧ p.r.status = 0x00
    ∧ p.r.tag = g.tag ∧ p.r.detail0 = BitVec.ofNat 16 g.slot ∧ p.r.detail1 = g.hash.setWidth 64 :=
  ⟨_, rfl, rfl, rfl, rfl, rfl⟩

/-- Settles O27: the staging by its read and its hash. -/
theorem stagedPayloadIsVerified : Obligations.StagedPayloadIsVerified := by
  intro s i g m rest choice gs hm hi hst hc hv ht hr hslot hman hlen hgs payload ends
  have hends (ok : Bool) := stageVerified_eq (rest := rest) hm hi hst hc hv ht hr hman hlen hgs ok
  have hgone (l : List Staging) (hl : l = [g]) : l.filter (fun x => x.seq != g.seq) = [] := by simp [hl]
  have fails (ok : Bool) (status : Nat) (he : s.hw.stageVerified g.seq rest g.length m.shapes choice ok = s.hw.failStaging g status) :
      ends ok (BitVec.ofNat 8 status) := by
    obtain ⟨p, hdone, -, hstatus, htag, -⟩ := Stopped.complete_pending ((unstaged s.hw g).setVslot false g.idx g.slot VSlot.reset)
      g.q g.seq opStage g.tag 0 status 0 0
    refine ⟨{ s with hw := s.hw.stageVerified g.seq rest g.length m.shapes choice ok }, p, rfl, ?_⟩
    dsimp only
    rw [he, failStaging_expert ht hr]
    have hreset : ((unstaged s.hw g).setVslot false g.idx g.slot VSlot.reset).vslot false g.idx g.slot = VSlot.reset :=
      NearCopies.expert_setVslot_same ..
    have hleft : (unstaged s.hw g).cat.staging = [] := hgone _ hst
    exact ⟨congrArg VSlot.state hreset, hleft, rfl, hdone, hstatus, htag⟩
  refine ⟨fun hhash => ?passes, fun hhash => fails true stFormat ((hends true).trans ((if_neg (by decide)).trans (if_pos hhash))),
    fails false stAborted ((hends false).trans (if_pos rfl))⟩
  case passes =>
    have e : s.hw.stageVerified g.seq rest g.length m.shapes choice true = (s.hw.writePayload gs payload).stagePassed i g gs :=
      (hends true).trans ((if_neg (by decide)).trans (if_neg (not_not.2 hhash)))
    have hw := writePayload_frame s.hw gs payload
    generalize s.hw.writePayload gs payload = w at e hw
    obtain ⟨p, hdone, hp⟩ := stageDone_pending
      (w.takeFree.2.setVslot false g.idx g.slot (verified (w.vslot false g.idx g.slot) gs w.takeFree.1 m.blocks)) g
    refine ⟨{ s with hw := s.hw.stageVerified g.seq rest g.length m.shapes choice true }, p, rfl, ?_⟩
    dsimp only
    rw [e, stagePassed_expert ht hr hman]
    have hslotv : (Hw.stageDone (w.takeFree.2.setVslot false g.idx g.slot (verified (w.vslot false g.idx g.slot) gs w.takeFree.1 m.blocks)) g).vslot
        false g.idx g.slot = verified (w.vslot false g.idx g.slot) gs w.takeFree.1 m.blocks := NearCopies.expert_setVslot_same w.takeFree.2 ..
    have hv0 : w.vslot false g.idx g.slot = s.hw.vslot false g.idx g.slot := by
      rw [hw]
      rfl
    have hstaging : w.cat.staging = [g] := by rw [hw, hst]
    have hdone0 : w.rings.done = s.hw.rings.done := by rw [hw]
    refine ⟨?_, rfl, hgone _ hstaging, hdone.trans (congrArg (· ++ [p]) hdone0), hp⟩
    rw [hslotv, hv0]
    rfl

end Sys2Proof.StagedPayloads
end

section
/-!
PROOF. The rows that a Pump transfer copies.
-/
namespace Sys2Proof.PumpCopies
open Sys2Proof.Machine

/-! ### Blocks that differ in the bytes of their memories -/

/-- The block `g` is `h` but for the bytes of its memories and the retries of its working space. -/
def Rewritten (h g : Hw) : Prop :=
  g = { h with mem := { h.mem with near := g.mem.near, far := g.mem.far, tile := g.mem.tile, se := g.mem.se, ctl := g.mem.ctl
                                   wsRetry := g.mem.wsRetry } }

theorem rewritten_trans {h g k : Hw} (hg : Rewritten h g) (hk : Rewritten g k) : Rewritten h k :=
  Eq.trans hk (congrArg (fun a : Hw => { a with mem := { a.mem with near := k.mem.near, far := k.mem.far, tile := k.mem.tile, se := k.mem.se
                                                                    ctl := k.mem.ctl, wsRetry := k.mem.wsRetry } }) hg)

theorem rewritten_spacePut (h : Hw) (sp a : Nat) (b : Byte) : Rewritten h (h.spacePut sp a b) := by
  unfold Hw.spacePut
  split
  case h_2 => split <;> rfl
  all_goals rfl

/-- A space takes a byte at an address: the address is in it, and not in the image region or the directory (R208, R209). -/
def takes (h : Hw) (sp a : Nat) : Bool := h.inSpace sp a && !(decide (sp = 1) && decide (a < h.storeBase))

theorem takes_rewritten {h g : Hw} (hg : Rewritten h g) (sp a : Nat) : takes g sp a = takes h sp a := by
  rw [hg]
  rfl

/-! ### Bytes written to a space, read back -/

theorem directory_below (h : Hw) : h.dirBase + 2 * h.dirBytes ≤ h.storeBase := by
  unfold Hw.storeBase ceilDiv
  generalize h.dirBase = x
  generalize 2 * h.dirBytes = y
  omega

theorem spaceByte_far {h : Hw} {a : Nat} (ha : h.storeBase ≤ a) : h.spaceByte 1 a = read8 h.mem.far a := by
  have hdir := directory_below h
  unfold Hw.spaceByte
  generalize h.dirBase = x at hdir ⊢
  generalize h.dirBytes = y at hdir ⊢
  rw [if_neg (by omega), if_neg (by omega)]
  rfl

theorem storeBase_rewritten {h g : Hw} (hg : Rewritten h g) : g.storeBase = h.storeBase := by
  rw [hg]
  rfl

theorem not_far {h : Hw} {a : Nat} (ht : takes h 1 a = true) : h.storeBase ≤ a := by
  have hb := (Bool.and_eq_true_iff.1 ht).2
  generalize h.storeBase = x at hb ⊢
  simpa using hb

theorem read8_write8_same (m : Memory) (a : Nat) (b : Byte) : read8 (write8 m a b) a = b := (read8_write8 ..).trans (if_pos rfl)

/-- A byte of far memory at the weight store or above; the space is a variable, so that its match is split, not evaluated. -/
theorem far_spacePut {h : Hw} {sp a : Nat} (hsp : sp = 1) (ha : h.storeBase ≤ a) (b : Byte) :
    (h.spacePut sp a b).mem.far = write8 h.mem.far a b := by
  have hlt := Nat.not_lt.2 ha
  unfold Hw.spacePut
  split
  case h_2 => rw [if_neg hlt]
  all_goals simp_all

theorem spacePut_below {h : Hw} {sp a : Nat} (hsp : sp = 1) (ha : a < h.storeBase) (b : Byte) : h.spacePut sp a b = h := by
  unfold Hw.spacePut
  split
  case h_2 => rw [if_pos ha]
  all_goals simp_all

theorem farByte_spacePut {h : Hw} {a : Nat} (ht : takes h 1 a = true) (b : Byte) : (h.spacePut 1 a b).spaceByte 1 a = b := by
  have hbase : (h.spacePut 1 a b).storeBase ≤ a := (storeBase_rewritten (rewritten_spacePut h 1 a b)).trans_le (not_far ht)
  rw [spaceByte_far hbase, far_spacePut rfl (not_far ht)]
  exact read8_write8_same ..

theorem spaceByte_spacePut {h : Hw} {sp a : Nat} (hsp : sp ≤ 4) (ht : takes h sp a = true) (b : Byte) : (h.spacePut sp a b).spaceByte sp a = b := by
  interval_cases sp
  · exact read8_write8_same ..
  · exact farByte_spacePut ht b
  · exact read8_write8_same ..
  · exact read8_write8_same ..
  · exact read8_write8_same ..

/-- One byte of a write: where the space takes it, it stands at its address; every other byte is as before. -/
theorem putByte (h : Hw) {sp : Nat} (hsp : sp ≤ 4) (a : Nat) (b : Byte) (c : Nat) :
    (if h.inSpace sp a = true then h.spacePut sp a b else h).spaceByte sp c
      = if c = a ∧ takes h sp a = true then b else h.spaceByte sp c := by
  by_cases hin : h.inSpace sp a = true
  · rw [if_pos hin]
    by_cases hc : c = a
    · subst hc
      by_cases ht : takes h sp c = true
      · rw [if_pos ⟨rfl, ht⟩]
        exact spaceByte_spacePut hsp ht b
      · obtain ⟨h1, hlt⟩ : sp = 1 ∧ c < h.storeBase := by
          rw [takes, hin] at ht
          generalize h.storeBase = x at ht ⊢
          simpa using ht
        rw [if_neg (fun hh => ht hh.2), spacePut_below h1 hlt]
    · rw [if_neg (fun hh => hc hh.1), Hw.spacePut_ne _ _ _ _ _ _ (.inr hc)]
  · rw [if_neg hin, if_neg (fun hh => hin (Bool.and_eq_true_iff.1 hh.2).1)]

theorem rewritten_spaceWrite (bs : List Byte) (h : Hw) (sp a : Nat) : Rewritten h (h.spaceWrite sp a bs) := by
  induction bs generalizing h a with
  | nil => rfl
  | cons b bs ih =>
    refine rewritten_trans ?_ (ih ..)
    split
    · exact rewritten_spacePut ..
    · rfl

/-- The bytes of a write stand where the space takes them; every other byte of the space is as before. -/
theorem spaceByte_spaceWrite {sp : Nat} (hsp : sp ≤ 4) (bs : List Byte) (h : Hw) (a c : Nat) : (h.spaceWrite sp a bs).spaceByte sp c
    = if a ≤ c ∧ c < a + bs.length ∧ takes h sp c = true then bs.getD (c - a) 0 else h.spaceByte sp c := by
  induction bs generalizing h a with
  | nil => exact (if_neg (fun hh => by simp at hh; omega)).symm
  | cons b bs ih =>
    have htakes : takes (if h.inSpace sp a then h.spacePut sp a b else h) sp c = takes h sp c := by
      split
      · exact takes_rewritten (rewritten_spacePut ..) _ _
      · rfl
    rw [Hw.spaceWrite, ih, htakes, putByte h hsp]
    by_cases ht : takes h sp c = true
    · simp only [ht, and_true, List.length_cons]
      by_cases hc : c = a
      · subst hc
        rw [if_neg (by omega), if_pos ⟨rfl, ht⟩, if_pos (by omega), Nat.sub_self, List.getD_cons_zero]
      · by_cases hin : a ≤ c ∧ c < a + (bs.length + 1)
        · rw [if_pos (by omega), if_pos hin, show c - a = (c - (a + 1)) + 1 by omega, List.getD_cons_succ]
        · rw [if_neg (by omega), if_neg (fun hh => hc hh.1), if_neg hin]
    · rw [if_neg (fun hh => ht hh.2.2), if_neg (fun hh : c = a ∧ takes h sp a = true => ht (by rw [hh.1]; exact hh.2)), if_neg (fun hh => ht hh.2.2)]

/-! ### A row and its source (R220) -/

/-- Byte `k` of row `r` of a transfer's source, where the source has it. -/
def sourceByte (h : Hw) (d : BitVec 256) (data : List Byte) (r k : Nat) : Option Byte :=
  if pumpSrcSpace d = 5 then some ((padTo (pumpLen d) (data.drop (r * pumpLen d))).getD k 0)
  else match h.pumpSrcByte d (r * pumpSrcPitch d + k) with
    | some a => if h.inSpace (pumpSrcSpace d) a then some (h.spaceByte (pumpSrcSpace d) a) else none
    | none => none

/-- The block `g` reads the transfer's source as `h` does. -/
def SameSource (h g : Hw) (d : BitVec 256) : Prop :=
  pumpSrcSpace d = 5 ∨ (∀ a, g.spaceByte (pumpSrcSpace d) a = h.spaceByte (pumpSrcSpace d) a)

theorem length_padTo (n : Nat) (bs : List Byte) : (padTo n bs).length = n := by
  unfold padTo
  rw [List.length_take, List.length_append, List.length_replicate]
  omega

theorem length_pumpRow (h : Hw) (d : BitVec 256) (data : List Byte) (r : Nat) : (h.pumpRow d data r).length = pumpLen d := by
  unfold Hw.pumpRow
  dsimp only
  split
  · exact length_padTo ..
  · rw [List.length_map, List.length_range]

theorem pumpSrcByte_rewritten {h g : Hw} (hg : Rewritten h g) {d : BitVec 256} (hmap : pumpMap d = false) (o : Nat) :
    g.pumpSrcByte d o = h.pumpSrcByte d o := by
  rw [hg]
  unfold Hw.pumpSrcByte
  rw [hmap]
  rfl

/-- A transfer that streams no version's weights names its source address. -/
theorem pumpSrcByte_space {h : Hw} {d : BitVec 256} (hmap : pumpMap d = false)
    (hspace : ((h.pumpStep d).map PumpStep.base).getD .space = .space) (o : Nat) : h.pumpSrcByte d o = some (pumpSrc d + o) := by
  unfold Hw.pumpSrcByte
  rw [hmap]
  cases hb : (h.pumpStep d).map PumpStep.base with
  | none => rfl
  | some b =>
    rw [hb] at hspace
    rw [show b = .space from hspace]
    rfl

theorem inSpace_rewritten {h g : Hw} (hg : Rewritten h g) (sp a : Nat) : g.inSpace sp a = h.inSpace sp a := by
  rw [hg]
  rfl

/-- A row that reads the source as it was brings its bytes. -/
theorem pumpRow_source {h g : Hw} {d : BitVec 256} {data : List Byte} {r k : Nat} {b : Byte} (hg : Rewritten h g) (hs : SameSource h g d)
    (hmap : pumpMap d = false) (hk : k < pumpLen d) (hb : sourceByte h d data r k = some b) : (g.pumpRow d data r).getD k 0 = b := by
  unfold Hw.pumpRow
  unfold sourceByte at hb
  dsimp only
  by_cases h5 : pumpSrcSpace d = 5
  · rw [if_pos h5] at hb ⊢
    exact Option.some.inj hb
  · have hsame := hs.resolve_left h5
    rw [if_neg h5] at hb ⊢
    rw [List.getD_eq_getElem?_getD, List.getElem?_map, List.getElem?_range hk]
    simp only [Option.map_some, Option.getD_some, pumpSrcByte_rewritten hg hmap, inSpace_rewritten hg, hsame]
    cases ha : h.pumpSrcByte d (r * pumpSrcPitch d + k) with
    | none => rw [ha] at hb; cases hb
    | some a =>
      rw [ha] at hb
      dsimp only at hb ⊢
      split at hb
      · next hin => rw [if_pos hin]; exact Option.some.inj hb
      · cases hb

/-! ### The rows of a transfer (R220) -/

/-- What the first `n` rows of a transfer leave. -/
structure Moved (h g : Hw) (d : BitVec 256) (data : List Byte) (n : Nat) : Prop where
  rewritten : Rewritten h g
  row : ∀ r k b, r < n → k < pumpLen d → takes h (pumpDstSpace d) (pumpDstField d + r * pumpDstPitch d + k) = true →
    sourceByte h d data r k = some b → g.spaceByte (pumpDstSpace d) (pumpDstField d + r * pumpDstPitch d + k) = b
  rest : ∀ a, takes h (pumpDstSpace d) a = false
      ∨ (∀ r, r < n → a < pumpDstField d + r * pumpDstPitch d ∨ pumpDstField d + r * pumpDstPitch d + pumpLen d ≤ a) →
    g.spaceByte (pumpDstSpace d) a = h.spaceByte (pumpDstSpace d) a
  other : ∀ sp a, sp ≠ pumpDstSpace d → g.spaceByte sp a = h.spaceByte sp a

theorem pumpMove_eq {d : BitVec 256} (hsp : pumpDstSpace d ≤ 4) (hhash : pumpHash d = false) (g : Hw) (data : List Byte) (dst r : Nat) :
    g.pumpMove d data dst r = g.spaceWrite (pumpDstSpace d) (dst + r * pumpDstPitch d) (g.pumpRow d data r) := by
  rw [Hw.pumpMove, hhash]
  exact if_neg (by omega)

/-- Before the first row every byte stands, so the source is as it was; later rows read another space than they write. -/
theorem sameSource_of_moved {h g : Hw} {d : BitVec 256} {data : List Byte} {n : Nat} (hm : Moved h g d data n)
    (happart : n = 0 ∨ pumpSrcSpace d ≠ pumpDstSpace d) : SameSource h g d := by
  refine .inr (fun a => ?_)
  by_cases hne : pumpSrcSpace d = pumpDstSpace d
  · have h0 : n = 0 := happart.resolve_right (not_not.2 hne)
    rw [hne]
    exact hm.rest a (.inr (fun r hr => absurd hr (by omega)))
  · exact hm.other _ a hne

/-- One more row: it reads its source as it was, and no earlier row reaches it. -/
theorem moved_succ {h g : Hw} {d : BitVec 256} {data : List Byte} {n : Nat} (hsp : pumpDstSpace d ≤ 4) (hhash : pumpHash d = false)
    (hmap : pumpMap d = false) (hm : Moved h g d data n)
    (happart : n = 0 ∨ pumpSrcSpace d ≠ pumpDstSpace d ∧ pumpLen d ≤ pumpDstPitch d) :
    Moved h (g.pumpMove d data (pumpDstField d) n) d data (n + 1) := by
  have hsrc := sameSource_of_moved hm (happart.imp_right And.left)
  have hlen := length_pumpRow g d data n
  rw [pumpMove_eq hsp hhash]
  have hbyte (c : Nat) := spaceByte_spaceWrite hsp (g.pumpRow d data n) g (pumpDstField d + n * pumpDstPitch d) c
  simp only [hlen, takes_rewritten hm.rewritten] at hbyte
  refine ⟨rewritten_trans hm.rewritten (rewritten_spaceWrite ..), fun r k b hr hk ht hb => ?row, fun a ha => ?rest, fun sp a hne => ?other⟩
  case row =>
    rw [hbyte]
    by_cases hrn : r = n
    · subst hrn
      rw [if_pos ⟨by omega, by omega, ht⟩, Nat.add_sub_cancel_left]
      exact pumpRow_source hm.rewritten hsrc hmap hk hb
    · have hlow : (r + 1) * pumpDstPitch d ≤ n * pumpDstPitch d := Nat.mul_le_mul_right _ (by omega)
      rw [Nat.add_mul, Nat.one_mul] at hlow
      have hpitch : pumpLen d ≤ pumpDstPitch d := (happart.resolve_left (by omega)).2
      rw [if_neg (by omega)]
      exact hm.row r k b (by omega) hk ht hb
  case rest =>
    rw [hbyte, if_neg]
    · exact hm.rest a (ha.imp_right (fun hout r hr => hout r (by omega)))
    · rintro ⟨hlo, hhi, ht⟩
      rcases ha with hno | hout
      · rw [hno] at ht
        cases ht
      · have := hout n (by omega)
        omega
  case other => rw [Hw.spaceWrite_ne _ _ _ _ _ _ (.inl hne), hm.other sp a hne]

theorem moved_rows {h : Hw} {d : BitVec 256} {data : List Byte} (hsp : pumpDstSpace d ≤ 4) (hhash : pumpHash d = false)
    (hmap : pumpMap d = false) (n : Nat) (happart : n ≤ 1 ∨ pumpSrcSpace d ≠ pumpDstSpace d ∧ pumpLen d ≤ pumpDstPitch d) :
    Moved h ((List.range n).foldl (fun a r => a.pumpMove d data (pumpDstField d) r) (h.wsRead d)) d data n := by
  induction n with
  | zero => exact ⟨rfl, fun r k b hr => absurd hr (Nat.not_lt_zero r), fun _ _ => rfl, fun _ _ _ => rfl⟩
  | succ n ih =>
    rw [List.range_succ, List.foldl_append]
    exact moved_succ hsp hhash hmap (ih (happart.imp_left (by omega))) (happart.imp_left (by omega))

/-! ### The transfer -/

theorem pumpLock_none {d : BitVec 256} (hidle : pumpIdle d = false) (aux : List (Nat × Nat)) : pumpLock aux d = none := by
  rw [pumpLock, hidle]
  rfl

theorem lockFilled_none {d : BitVec 256} (hidle : pumpIdle d = false) (h : Hw) : h.lockFilled d = h := by
  rw [Hw.lockFilled, pumpLock_none hidle]

theorem fillPassed_none {h : Hw} (hr : h.eng.replays = []) (u : UnitId) (runit : Option Nat) : h.fillPassed u runit = h := by
  cases runit with
  | none => rfl
  | some r => exact Lanes.unitPass_none hr u r none

theorem pumpDone_clean {h : Hw} {p : Nat} {d : BitVec 256} (hp : p < 16) (hs : h.pumpServes p d = true) (ha : h.pumpAllowed d = true)
    (hr : h.eng.replays = []) (hidle : pumpIdle d = false) (data : List Byte) {g : Hw} (hg : Rewritten h g)
    (hrows : (List.range (pumpRows d)).foldl (fun a r => a.pumpMove d data (pumpDstField d) r) (h.wsRead d) = g) :
    h.pumpDone p d data .clean = { g with free := g.free + pumpRows d * pumpLen d } := by
  have hdst : h.pumpDst d = pumpDstField d := by rw [Hw.pumpDst, pumpLock_none hidle]
  have hreplays : g.eng.replays = [] := by rw [hg, hr]
  rw [Hw.pumpDone, if_neg (by simp [hp, hs, ha])]
  dsimp only
  rw [hdst, hrows, lockFilled_none hidle]
  exact fillPassed_none (h := { g with free := g.free + pumpRows d * pumpLen d }) hreplays ..

/-- What a space takes, as the obligation's negation says it. -/
theorem takes_eq_true {h : Hw} {sp a : Nat} (hk : ¬ (h.inSpace sp a = false ∨ sp = 1 ∧ a < h.storeBase)) : takes h sp a = true := by
  rw [not_or] at hk
  rw [takes]
  generalize h.storeBase = x at hk ⊢
  simpa [imp_iff_not_or] using hk

theorem takes_eq_false {h : Hw} {sp a : Nat} (hk : h.inSpace sp a = false ∨ sp = 1 ∧ a < h.storeBase) : takes h sp a = false := by
  rw [takes]
  generalize h.storeBase = x at hk ⊢
  rcases hk with hk | hk <;> simp [hk]

/-- Settles O20: the rows one after another, each reading its source as it was. -/
theorem pumpCopiesRow : Obligations.PumpCopiesRow := by
  intro s p d data hp hs ha hr hsp hidle hhash hmap dst len from0 to0 rows dstRow source kept happart
  have hm := moved_rows (h := s.hw) (data := data) hsp hhash hmap (pumpRows d) (happart.imp_left (fun e : pumpRows d = 1 => e.le))
  generalize hrows : (List.range (pumpRows d)).foldl (fun a r => a.pumpMove d data (pumpDstField d) r) (s.hw.wsRead d) = g at hm
  refine ⟨{ s with hw := s.hw.pumpDone p d data .clean }, rfl, ?_⟩
  dsimp only
  rw [pumpDone_clean hp hs ha hr hidle data hm.rewritten hrows]
  have hsource (r k : Nat) : source r k = sourceByte s.hw d data r k := rfl
  have hbytes (sp a : Nat) : ({ g with free := g.free + pumpRows d * pumpLen d } : Hw).spaceByte sp a = g.spaceByte sp a := rfl
  have hframe := hm.rewritten
  refine ⟨fun r k b hrow hk ht hb => ?_, fun a ha => ?_, fun sp a hne => ?_, fun hspace o => ?_, ?_, ?_, ?_, ?_⟩
  · rw [hbytes]
    exact hm.row r k b hrow hk (takes_eq_true ht) ((hsource r k).symm.trans hb)
  · rw [hbytes]
    exact hm.rest a (ha.imp_left takes_eq_false)
  · rw [hbytes]
    exact hm.other sp a hne
  · exact pumpSrcByte_space hmap hspace o
  · exact (congrArg Hw.streams hframe :)
  · exact (congrArg (fun a : Hw => a.mem.ecc) hframe :)
  · exact (congrArg Hw.rings hframe :)
  · exact (congrArg Hw.qs hframe :)

end Sys2Proof.PumpCopies
end

section
/-!
PROOF. Vector additions on a tile, and the failed steps of a tile.
-/
namespace Sys2Proof.TilePasses
open Sys2Proof.Machine

/-! ### The control mailbox (R72) -/

/-- Tile SRAM once the verdict of a step has been noted in its tile's control mailbox. -/
def noted (h : Hw) (t p verdict : Nat) : Memory :=
  if (h.tileU t).records < 4096 then writeN h.mem.tile (recordAt t (h.tileU t).records) (natBytesLE 4 p ++ natBytesLE 4 verdict) else h.mem.tile

/-- The tile once a record has been noted. -/
def counted (u : Tile) : Tile := { u with records := if u.records < 4096 then u.records + 1 else u.records }

theorem mailbox_spec (h : Hw) (t p : Nat) (ok : Bool) :
    h.mailbox t p ok = { h with mem := { h.mem with tile := noted h t p (b2n ok) }, eng := { h.eng with tiles := (h.mailbox t p ok).eng.tiles } }
    ∧ (h.mailbox t p ok).tileU t = counted (h.tileU t) ∧ ∀ k, k ≠ t → (h.mailbox t p ok).tileU k = h.tileU k := by
  unfold Hw.mailbox noted counted
  dsimp only
  by_cases hr : (h.tileU t).records < 4096
  · rw [if_pos hr, if_pos hr, if_pos hr]
    exact ⟨rfl, (Hw.tileU_setTile ..).trans (if_pos rfl), fun k hk => (Hw.tileU_setTile ..).trans (if_neg (Ne.symm hk))⟩
  · rw [if_neg hr, if_neg hr, if_neg hr]
    exact ⟨rfl, rfl, fun _ _ => rfl⟩

/-- The parts of a tile's SRAM that hold rows lie below its control mailbox. -/
theorem region_below_mailbox (x : Region) : regionBase x + regionSize x ≤ mailboxBase := by
  cases x with
  | half second => cases second <;> decide
  | scratch => decide

theorem read8_noted {h : Hw} {t p verdict c : Nat} (hc : c < t * tileSize + mailboxBase) : read8 (noted h t p verdict) c = read8 h.mem.tile c := by
  unfold noted
  split
  · refine (read8_writeN ..).trans (if_neg (fun hh => ?_))
    have hlo : t * tileSize + mailboxBase + 0x8000 + 8 * (h.tileU t).records ≤ c := hh.1
    generalize t * tileSize + mailboxBase = x at hc hlo
    omega
  · rfl

/-- Rows read the same after a record of the mailbox. -/
theorem rowRead_noted {h g : Hw} {t p verdict : Nat} (hg : g.mem.tile = noted h t p verdict) (l : Loc) (r n : Nat) :
    g.rowRead t l r n = h.rowRead t l r n := by
  unfold Hw.rowRead Hw.partRead
  refine List.map_congr_left (fun k _ => ?_)
  split
  · next hk =>
    rw [hg]
    refine read8_noted ?_
    have := region_below_mailbox l.region
    generalize t * tileSize = x
    omega
  · rfl

theorem rowF32s_noted {h g : Hw} {t p verdict : Nat} (hg : g.mem.tile = noted h t p verdict) (l : Loc) (r n : Nat) :
    g.rowF32s t l r n = h.rowF32s t l r n := by
  unfold Hw.rowF32s
  rw [rowRead_noted hg]

/-! ### Rows of FP32 words (R72) -/

theorem length_natBytesLE (n z : Nat) : (natBytesLE n z).length = n := by
  rw [natBytesLE, List.length_map, List.length_range]

theorem f32Bytes_cons (x : F32) (xs : List F32) : f32Bytes (x :: xs) = natBytesLE 4 x.toNat ++ f32Bytes xs := List.flatMap_cons

theorem length_f32Bytes (xs : List F32) : (f32Bytes xs).length = 4 * xs.length := by
  induction xs with
  | nil => rfl
  | cons x xs ih =>
    rw [f32Bytes_cons, List.length_append, length_natBytesLE, ih, List.length_cons]
    omega

theorem word_f32Bytes {xs : List F32} {k : Nat} (hk : k < xs.length) :
    ((f32Bytes xs).drop (4 * k)).take 4 = natBytesLE 4 (xs[k]).toNat := by
  induction xs generalizing k with
  | nil => cases hk
  | cons x xs ih =>
    have h4 := length_natBytesLE 4 x.toNat
    rw [f32Bytes_cons]
    cases k with
    | zero => exact List.take_left' h4
    | succ k =>
      rw [show 4 * (k + 1) = 4 + 4 * k by omega, ← List.drop_drop, List.drop_left' h4]
      exact ih (Nat.lt_of_succ_lt_succ hk)

/-- FP32 words written as bytes are read back as they were. -/
theorem words_f32Bytes (xs : List F32) : (wordsOf 4 (f32Bytes xs)).map (BitVec.ofNat 32) = xs := by
  refine List.ext_getElem ?_ (fun k h1 h2 => ?_)
  · rw [wordsOf, List.length_map, List.length_map, List.length_range, length_f32Bytes]
    omega
  · simp only [wordsOf, List.getElem_map, List.getElem_range]
    rw [word_f32Bytes h2, Access.bytesToNatLE_natBytesLE, Nat.mod_eq_of_lt (show xs[k].toNat < 256 ^ 4 from xs[k].isLt), BitVec.ofNat_toNat, BitVec.setWidth_eq]

theorem length_rowF32s (h : Hw) (t : Nat) (l : Loc) (r n : Nat) : (h.rowF32s t l r n).length = n := by
  rw [Hw.rowF32s, List.length_map, wordsOf, List.length_map, List.length_range, Hw.rowRead, Hw.partRead, List.length_map, List.length_range]
  omega

/-- The address of row `r` of an operand. -/
def rowAt (t : Nat) (l : Loc) (r : Nat) : Nat := t * tileSize + regionBase l.region + (l.off + l.stride * r)

section
variable {h : Hw} {t r : Nat} {l : Loc} {bs : List Byte} (hfit : l.off + l.stride * r + bs.length ≤ regionSize l.region)
include hfit

theorem rowWrite_fits : h.rowWrite t l r 0 bs = { h with mem := { h.mem with tile := writeN h.mem.tile (rowAt t l r) bs } } := by
  have htake : bs.take (regionSize l.region - (l.off + l.stride * r + 0)) = bs := List.take_of_length_le (by omega)
  rw [Hw.rowWrite, Hw.partWrite, htake]
  rfl

/-- A row written is read back. -/
theorem rowRead_rowWrite : (h.rowWrite t l r 0 bs).rowRead t l r bs.length = bs := by
  rw [rowWrite_fits hfit, Hw.rowRead, Hw.partRead]
  refine List.ext_getElem (by simp) (fun k h1 h2 => ?_)
  have hk : rowAt t l r ≤ rowAt t l r + k ∧ rowAt t l r + k < rowAt t l r + bs.length := ⟨by omega, by omega⟩
  rw [List.getElem_map, List.getElem_range, if_pos (by omega)]
  refine ((read8_writeN ..).trans (if_pos hk)).trans ?_
  rw [Nat.add_sub_cancel_left, List.getD_eq_getElem _ _ h2]

end

/-- Words written to a row are read back. -/
theorem rowF32s_rowWrite {h : Hw} {t r n : Nat} {l : Loc} {xs : List F32} (hn : xs.length = n)
    (hfit : l.off + l.stride * r + 4 * n ≤ regionSize l.region) : (h.rowWrite t l r 0 (f32Bytes xs)).rowF32s t l r n = xs := by
  have hlen : (f32Bytes xs).length = 4 * n := by rw [length_f32Bytes, hn]
  rw [Hw.rowF32s, ← hlen, rowRead_rowWrite (by omega), words_f32Bytes]

/-! ### A vector addition (R40, R60, R76) -/

/-- The sums of two rows, element by element, every NaN canonical. -/
def sums (h : Hw) (t : Nat) (a b : Loc) (r n : Nat) : List F32 := (List.zipWith fp32Add (h.rowF32s t a r n) (h.rowF32s t b r n)).map canon32

theorem length_sums (h : Hw) (t : Nat) (a b : Loc) (r n : Nat) : (sums h t a b r n).length = n := by
  rw [sums, List.length_map, List.length_zipWith, length_rowF32s, length_rowF32s, Nat.min_self]

/-- The stream with its sticky flag of results that are not finite. -/
def flagged (x : Stream) (xs : List F32) : Stream := { x with arithNonfinite := x.arithNonfinite || xs.any (fun v => (val32 v).nonfinite) }

theorem flagResult_spec {h : Hw} {c : Nat} {x : Stream} (hx : h.stream c = some x) (xs : List F32) :
    h.flagResult c xs = { h with streams := (h.flagResult c xs).streams } ∧ (h.flagResult c xs).stream c = some (flagged x xs)
    ∧ ∀ k, k ≠ c → (h.flagResult c xs).stream k = h.stream k := by
  unfold Hw.flagResult flagged
  cases hb : xs.any (fun v => (val32 v).nonfinite) with
  | false =>
    rw [if_neg (by decide), Bool.or_false]
    exact ⟨rfl, hx, fun _ _ => rfl⟩
  | true =>
    rw [if_pos rfl]
    refine ⟨ReplayStart.modStream_frame .., ?_, fun k hk => ?_⟩
    · rw [ReplayStart.stream_modStream, if_pos rfl, hx]
      rfl
    · rw [ReplayStart.stream_modStream, if_neg (Ne.symm hk)]

/-- What a vector addition of one row leaves: its sums in the row, and the stream flagged where one is not finite. -/
theorem vectorDo_add {h : Hw} {x : Stream} {c : Nat} (hx : h.stream c = some x) (i : ImageFile) (sv : Serve) (a b dst : Loc) (t n r q : Nat)
    (hfit : dst.off + dst.stride * r + 4 * n ≤ regionSize dst.region) : ∃ streams,
    h.vectorDo i t sv .add false a b dst n c x r q = { h with
      mem := { h.mem with tile := writeN h.mem.tile (rowAt t dst r) (f32Bytes (sums h t a b r n)) }, streams := streams }
    ∧ tget none streams c = some (flagged x (sums h t a b r n)) ∧ ∀ k, k ≠ c → tget none streams k = h.stream k := by
  have hlen : (f32Bytes (sums h t a b r n)).length = 4 * n := by rw [length_f32Bytes, length_sums]
  have hx' : (h.rowWrite t dst r 0 (f32Bytes (sums h t a b r n))).stream c = some x := hx
  obtain ⟨hframe, hown, hother⟩ := flagResult_spec hx' (sums h t a b r n)
  have e : h.vectorDo i t sv .add false a b dst n c x r q
      = (h.rowWrite t dst r 0 (f32Bytes (sums h t a b r n))).flagResult c (sums h t a b r n) := rfl
  refine ⟨_, ?_, hown, hother⟩
  rw [e, hframe, rowWrite_fits (by omega)]

theorem eachRow_one {h : Hw} {sv : Serve} {first count c r q : Nat} {x : Stream} (hrows : h.stepRows sv first count = [(c, r, q)])
    (hx : h.stream c = some x) (f : Hw → Nat → Stream → Nat → Nat → Hw) : h.eachRow sv first count f = f h c x r q := by
  rw [Hw.eachRow, hrows, List.foldl_cons, List.foldl_nil, hx]

/-! ### The end of a step (R70, R163) -/

theorem tileRunner_own {h : Hw} {t : Nat} (hf : (⟨.tile, t⟩ : UnitId) ∉ h.eng.fenced) (i : ImageFile) (p : Nat) : h.tileRunner i p t = t :=
  if_pos (by simp [hf])

/-- A step may run on its own tile where the unit that it is charged to is not fenced. -/
theorem mayRun_own {h : Hw} {i : ImageFile} {p t : Nat} {op : TileOp} (hf : passUnit t op ∉ h.eng.fenced) : h.mayRun i t p t op = true := by
  have hlive : (!decide (passUnit t op ∈ h.eng.fenced)) = true := by simp [hf]
  unfold Hw.mayRun
  dsimp only
  rw [hlive, Bool.true_and]
  cases op
  case sample => simp [Hw.standsFor]
  all_goals exact beq_iff_eq.2 (tileRunner_own hf i p).symm

theorem tilePass_ends {h : Hw} {i : ImageFile} {y : TickStep} {sv : Serve} {op : TileOp} {t p first count : Nat} (hon : h.engOn = true) (ht : t < 128)
    (hf : passUnit t op ∉ h.eng.fenced) (hi : h.ex.image = some i) (hy : tickStep i p = some y) (hop : y.op = .tile t sv first count op)
    (hopen : h.stepOpen i p y t = true) (slip : Int) (errs : List SumError) (chk : PassCheck) :
    h.tilePass { runner := t, step := p, slip := slip, errs := errs, chk := chk }
      = h.endStep i { runner := t, step := p, slip := slip, errs := errs, chk := chk } t sv first count op := by
  rw [Hw.tilePass, hi]
  dsimp only
  rw [hy]
  dsimp only
  rw [hop]
  exact if_neg (by simp [hon, ht, mayRun_own hf, hopen])

/-- A step that fails its checks: the verdict is noted, and its replay unit is queued. -/
theorem endStep_fault {h : Hw} {i : ImageFile} {sv : Serve} {op : TileOp} {t p first count : Nat} {slip : Int} {errs : List SumError}
    (hready : ∀ z, opPass i p op = some z → h.arrayReady t z = true) :
    h.endStep i { runner := t, step := p, slip := slip, errs := errs, chk := .fault } t sv first count op
      = (h.mailbox t p false).unitFault (passUnit t op) ((unitOf i p).getD 0) none := by
  refine if_neg ?_
  dsimp only
  cases hop : opPass i p op with
  | none => simp
  | some z => simp [hready z hop]

/-- The step counts as done. -/
def withStep (h : Hw) (p : Nat) : Hw := { h with eng := { h.eng with steps := h.eng.steps ++ [p] } }

/-- A vector addition that passes its checks: the verdict, the results of its row, and the step that is done. -/
theorem endStep_add {h : Hw} {i : ImageFile} {x : Stream} {sv : Serve} {a b dst : Loc} {t p c r q n first count : Nat}
    (hfit : dst.off + dst.stride * r + 4 * n ≤ regionSize dst.region) (hr : h.eng.replays = []) (hrows : h.stepRows sv first count = [(c, r, q)]) (hx : h.stream c = some x) :
    h.endStep i { runner := t, step := p, slip := 0, errs := [], chk := .pass } t sv first count (.vector .add false a b dst n)
      = withStep ((h.mailbox t p true).vectorDo i t sv .add false a b dst n c x r q) p := by
  obtain ⟨hframe, -, -⟩ := mailbox_spec h t p true
  have hok : h.tileOk i p t sv first count (.vector .add false a b dst n) 0 [] = true := rfl
  have hrows' : (h.mailbox t p true).stepRows sv first count = [(c, r, q)] := by
    rw [hframe]
    exact hrows
  have hx' : (h.mailbox t p true).stream c = some x := by
    rw [hframe]
    exact hx
  have hdo : (h.mailbox t p true).tileDo i p t sv first count (.vector .add false a b dst n) 0 []
      = (h.mailbox t p true).vectorDo i t sv .add false a b dst n c x r q := eachRow_one hrows' hx' _
  have hpass : opPass i p (.vector .add false a b dst n) = none := rfl
  have hquiet : (withStep ((h.mailbox t p true).vectorDo i t sv .add false a b dst n c x r q) p).eng.replays = [] := by
    obtain ⟨streams, e, -, -⟩ := vectorDo_add hx' i sv a b dst t n r q hfit
    rw [e, hframe]
    exact hr
  rw [Hw.endStep]
  dsimp only
  rw [hpass, hok]
  dsimp only
  rw [if_neg (by decide), Bool.not_true, Bool.not_false, Lanes.checked_pass, hdo]
  exact Lanes.unitPass_none hquiet ..

/-- Settles O19: the addition by its row read back, the failed step by the replay that it queues. -/
theorem vectorPass : Obligations.VectorPass := by
  unfold Obligations.VectorPass
  intro note count
  refine ⟨?adds, ?fails⟩
  case adds =>
    intro s i x y sv a b dst t p c r q n first count0 hon ht hf hi hy hop hopen hrows hx hr hfit total at0
    refine ⟨{ s with hw := s.hw.tilePass { runner := t, step := p, slip := 0, errs := [], chk := .pass } }, rfl, ?_⟩
    dsimp only
    rw [tilePass_ends (op := .vector .add false a b dst n) hon ht hf hi hy hop hopen, endStep_add hfit hr hrows hx]
    obtain ⟨hframe, hown, hother⟩ := mailbox_spec s.hw t p true
    generalize s.hw.mailbox t p true = g at hframe hown hother
    have hgx : g.stream c = some x := by
      rw [hframe]
      exact hx
    have htile : g.mem.tile = noted s.hw t p 1 := by
      rw [hframe]
      rfl
    have htotal : sums g t a b r n = total := by
      rw [sums, rowF32s_noted htile, rowF32s_noted htile]
    obtain ⟨streams, e, hc, hk⟩ := vectorDo_add hgx i sv a b dst t n r q hfit
    rw [htotal] at e hc
    have hlen : total.length = n := htotal ▸ length_sums ..
    have hat : at0 = rowAt t dst r := rfl
    have hbytes : (f32Bytes total).length = 4 * n := by rw [length_f32Bytes, hlen]
    rw [e]
    refine ⟨?row, fun k hk => ?bytes, ?mem, ?eng, hown, hother, hc, fun k hne => ?other, ?rings, ?ex⟩
    case row =>
      have hread := rowF32s_rowWrite (h := g) (t := t) (r := r) (l := dst) hlen hfit
      rw [rowWrite_fits (by omega)] at hread
      exact hread
    case bytes =>
      have hnote : note s t p 1 = g.mem.tile := htile.symm
      rw [hnote]
      exact (read8_writeN ..).trans (if_neg (by omega))
    case mem =>
      rw [hframe]
      rfl
    case eng =>
      rw [hframe]
      rfl
    case other =>
      rw [hframe] at hk
      exact hk k hne
    case rings =>
      rw [hframe]
      rfl
    case ex =>
      rw [hframe]
      rfl
  case fails =>
    intro s i y sv op t p first count0 slip errs hon ht hf hi hy hop hopen hready hr
    refine ⟨{ s with hw := s.hw.tilePass { runner := t, step := p, slip := slip, errs := errs, chk := .fault } },
      Lanes.firstReplay (passUnit t op) ((unitOf i p).getD 0) none, rfl, ?_⟩
    dsimp only
    rw [tilePass_ends hon ht hf hi hy hop hopen, endStep_fault hready]
    obtain ⟨hframe, hown, hother⟩ := mailbox_spec s.hw t p false
    have hr' : (s.hw.mailbox t p false).eng.replays = [] := by
      rw [hframe]
      exact hr
    obtain ⟨hist, due, e, -⟩ := Lanes.unitFault_first hr' (passUnit t op) ((unitOf i p).getD 0) none
    rw [e]
    generalize s.hw.mailbox t p false = g at hframe hown hother
    have hlane : ((passUnit t op).kind == UnitKind.lane) = false := by cases op <;> rfl
    exact ⟨(congrArg Hw.mem hframe :), hown, hother, (congrArg Hw.streams hframe :), (congrArg (fun a : Hw => a.eng.steps) hframe :), rfl, rfl, rfl, hlane, rfl, rfl, rfl⟩

end Sys2Proof.TilePasses
end
